-- ==== Sys2Proof/Word.lean ====
section
/-! DEFINITION. The word types of the JL4096-M72 and their plainest arithmetic: bytes, 32-bit
registers (R17), 64-bit values, digests, and packing of register fields (R15). -/

namespace Sys2Proof

/-- One byte. -/
abbrev Byte := BitVec 8
/-- One 32-bit register or accumulator (R17). -/
abbrev Word32 := BitVec 32
/-- A 64-bit value. -/
abbrev Word64 := BitVec 64
/-- A SHA-384 digest, byte 0 of the digest string in the most significant place (R16). -/
abbrev Digest := BitVec 384
/-- A 256-bit key. -/
abbrev Key256 := BitVec 256

/-- The number formed by the bits `[lo + w - 1 : lo]` of `v` (R15). -/
def bitsOf (v lo w : Nat) : Nat := (v / 2 ^ lo) % 2 ^ w

/-- Bit `i` of `v`. -/
def bitOf (v i : Nat) : Bool := v.testBit i

/-- 1 for true, 0 for false: one flag placed in a field. -/
def b2n (b : Bool) : Nat := if b then 1 else 0

/-- `n` held at `limit`. -/
def holdAt (limit n : Nat) : Nat := min limit n

/-- The larger of the quotient rounded up: `ceil (a / b)`. -/
def ceilDiv (a b : Nat) : Nat := (a + b - 1) / b

end Sys2Proof
end

