-- ==== Sys2Proof/Machine/Bits.lean ====
section
/-! DEFINITION. Plain data shared by every family: byte strings and their little-endian integers
(R16), CRC-32C, byte memories in canonical form, sparse maps with a default, and signed readings. -/

namespace Sys2Proof.Machine

/-! ### Little-endian byte strings (R16) -/

/-- The `n` bytes of `v`, lowest byte first (R16). -/
def leBytes : Nat → Nat → List Byte
  | 0, _ => []
  | n + 1, v => BitVec.ofNat 8 v :: leBytes n (v / 256)

/-- The number a little-endian byte string holds (R16). -/
def leNat : List Byte → Nat
  | [] => 0
  | b :: bs => b.toNat + 256 * leNat bs

/-- The number a big-endian byte string holds (ECDSA values and digests, R16). -/
def beNat (bs : List Byte) : Nat := bs.foldl (fun a b => a * 256 + b.toNat) 0

/-- The `n` bytes of `v`, highest byte first. -/
def beBytes (n v : Nat) : List Byte := (leBytes n v).reverse

/-- `len` bytes of `bs` from `off`; bytes beyond its end read as zero. -/
def slice (bs : List Byte) (off len : Nat) : List Byte :=
  let t := (bs.drop off).take len
  t ++ List.replicate (len - t.length) 0

/-- The little-endian field of `n` bytes at `off`. -/
def fieldAt (bs : List Byte) (off n : Nat) : Nat := leNat (slice bs off n)

/-- `bs` with `v` laid over it from `off`. -/
def overlay (bs : List Byte) (off : Nat) (v : List Byte) : List Byte :=
  slice bs 0 off ++ v ++ bs.drop (off + v.length)

/-- Are all of these bytes zero? -/
def allZero (bs : List Byte) : Bool := bs.all (· == 0)

/-- A digest from its 48 bytes, in hash order (R16). -/
def digestOf (bs : List Byte) : Digest := BitVec.ofNat 384 (beNat (slice bs 0 48))

/-- The 48 bytes of a digest, in hash order (R16). -/
def digestBytes (d : Digest) : List Byte := beBytes 48 d.toNat

/-- A byte literal from a Nat. -/
def byte (n : Nat) : Byte := BitVec.ofNat 8 n

/-- A string's characters as bytes (ASCII labels). -/
def ascii (s : String) : List Byte := s.toList.map (fun c => byte c.toNat)

/-! ### CRC-32C -/

/-- One byte through the reflected CRC-32C register (polynomial 0x1EDC6F41, reflected 0x82F63B78). -/
def crc32cByte (crc : Word32) (b : Byte) : Word32 :=
  (List.range 8).foldl
    (fun c _ => if c.getLsbD 0 then (c >>> 1) ^^^ 0x82F63B78#32 else c >>> 1)
    (crc ^^^ b.setWidth 32)

/-- CRC-32C of a byte string: initial value and final inversion of all ones. -/
def crc32c (bs : List Byte) : Word32 := ~~~ (bs.foldl crc32cByte 0xFFFFFFFF#32)

/-! ### Signed readings -/

/-- The two's-complement reading of the low `w` bits of `n`. -/
def sint (w n : Nat) : Int :=
  let m := n % 2 ^ w
  if m < 2 ^ (w - 1) then (m : Int) else (m : Int) - (2 ^ w : Nat)

/-- The `w`-bit two's-complement code of `i`. -/
def uint (w : Nat) (i : Int) : Nat := (i % (2 ^ w : Nat)).toNat

/-! ### Sparse maps with a default

A map lists its keys strictly rising and lists no key at the default value, so equal maps are equal
data. -/

/-- A sparse map. -/
abbrev Map (α : Type) := List (Nat × α)

/-- The value at `k`; an unlisted key holds `d`. -/
def mget {α : Type} (d : α) : Map α → Nat → α
  | [], _ => d
  | (k, v) :: m, i => if i = k then v else mget d m i

/-- Put a listed value at `i`, keeping the keys rising. -/
def mput {α : Type} (i : Nat) (v : α) : Map α → Map α
  | [] => [(i, v)]
  | (k, w) :: m =>
    if i < k then (i, v) :: (k, w) :: m
    else if i = k then (i, v) :: m
    else (k, w) :: mput i v m

/-- Take key `i` out of the list. -/
def mdel {α : Type} (i : Nat) (m : Map α) : Map α := m.filter (fun p => p.1 != i)

/-- The map with `v` at `i`; writing the default removes the entry. -/
def mset {α : Type} [DecidableEq α] (d : α) (m : Map α) (i : Nat) (v : α) : Map α :=
  if v = d then mdel i m else mput i v m

/-- Change the value at `i`. -/
def mmod {α : Type} [DecidableEq α] (d : α) (m : Map α) (i : Nat) (f : α → α) : Map α :=
  mset d m i (f (mget d m i))

/-- Keys strictly rising and no entry at the default. -/
def mapOk {α : Type} [DecidableEq α] (d : α) (m : Map α) : Bool :=
  decide ((m.map Prod.fst).Pairwise (· < ·)) && m.all (fun p => decide (p.2 ≠ d))

/-! ### Byte memories

A memory lists (address, byte) cells with addresses strictly rising; an unlisted address reads as
zero, and writing zero removes the entry (log entry 5). -/

/-- A sparse byte memory. -/
abbrev Mem := List (Nat × Byte)

/-- The byte at an address. -/
def Mem.read (m : Mem) (a : Nat) : Byte := mget 0 m a

/-- Write one byte. -/
def Mem.write (m : Mem) (a : Nat) (b : Byte) : Mem := mset 0 m a b

/-- `n` bytes from `a`. -/
def Mem.readN (m : Mem) (a : Nat) : Nat → List Byte
  | 0 => []
  | n + 1 => Mem.read m a :: Mem.readN m (a + 1) n

/-- Lay a byte string down from `a`. -/
def Mem.writeN (m : Mem) (a : Nat) : List Byte → Mem
  | [] => m
  | b :: bs => Mem.writeN (Mem.write m a b) (a + 1) bs

/-- The canonical form: addresses strictly rising and no entry equal to zero. -/
def Mem.wf (m : Mem) : Bool := mapOk (0 : Byte) m

/-- A little-endian field of memory. -/
def Mem.readLe (m : Mem) (a n : Nat) : Nat := leNat (Mem.readN m a n)

/-! ### Counters -/

/-- A wrapping 32-bit counter that a FREEZE bit holds. -/
def bump (freeze : Bool) (c : Word32) (n : Nat := 1) : Word32 :=
  if freeze then c else c + BitVec.ofNat 32 n

/-- A 32-bit counter that holds at its top. -/
def bumpHold (c : Word32) (n : Nat := 1) : Word32 :=
  BitVec.ofNat 32 (min 0xFFFFFFFF (c.toNat + n))

/-! ### Lists -/

/-- The list with position `i` changed. -/
def modAt {α : Type} (l : List α) (i : Nat) (f : α → α) : List α := l.modify i f

/-- Insert into a list kept in the order of `le`, after equal elements. -/
def insertBy {α : Type} (le : α → α → Bool) (x : α) : List α → List α
  | [] => [x]
  | y :: ys => if le y x then y :: insertBy le x ys else x :: y :: ys

/-- The list sorted by `le`, stable. -/
def sortBy {α : Type} (le : α → α → Bool) (l : List α) : List α :=
  l.foldl (fun acc x => insertBy le x acc) []

/-- The first element that `le` places before every other. -/
def minBy {α : Type} (le : α → α → Bool) : List α → Option α
  | [] => none
  | x :: xs => match minBy le xs with
    | none => some x
    | some y => if le x y then some x else some y

end Sys2Proof.Machine
end

