-- ==== Sys2Proof/Machine/Float.lean ====
section
/-! DEFINITION. Floating point (R88 to R91, R99, R170): exact values, one rounding to a format, and the
operations over bit patterns, each with the flags of Table 5.3. -/

namespace Sys2Proof.Machine

/-- A float format: width, significand bits with the hidden bit, and the exponent of the least
subnormal (Table 3.3). -/
structure FFmt where
  width : Nat
  prec : Nat
  emin : Int
  deriving DecidableEq, Repr

/-- IEEE binary16. -/
def fH16 : FFmt := ⟨16, 11, -24⟩
/-- bfloat16. -/
def fB16 : FFmt := ⟨16, 8, -133⟩
/-- IEEE binary32. -/
def fF32 : FFmt := ⟨32, 24, -149⟩

/-- The float format of a format code (Table 3.1). -/
def fmtOf : Nat → Option FFmt
  | 4 => some fH16
  | 5 => some fB16
  | 8 => some fF32
  | _ => none

/-! ### Flags (Table 5.3) -/

/-- INVALID. -/
def flInvalid : Nat := 0x01
/-- OVERFLOW. -/
def flOverflow : Nat := 0x02
/-- UNDERFLOW. -/
def flUnderflow : Nat := 0x04
/-- INEXACT. -/
def flInexact : Nat := 0x08
/-- SATURATE. -/
def flSaturate : Nat := 0x10
/-- EMPTY. -/
def flEmpty : Nat := 0x20

/-- A bit pattern with the flags its making raised. -/
structure FR where
  bits : Nat
  flags : Nat := 0
  deriving DecidableEq, Repr

/-! ### Exact values -/

/-- An exact value: NaN, an infinity, or ±m × 2^e. -/
inductive FV where
  | nan
  | inf (neg : Bool)
  | fin (neg : Bool) (m : Nat) (e : Int)
  deriving DecidableEq, Repr

/-- Bits of the fraction field. -/
def FFmt.frac (f : FFmt) : Nat := f.prec - 1
/-- The all-ones exponent field. -/
def FFmt.expMax (f : FFmt) : Nat := 2 ^ (f.width - f.prec) - 1
/-- The canonical NaN (Table 3.3). -/
def FFmt.nan (f : FFmt) : Nat := f.expMax * 2 ^ f.frac + 2 ^ (f.frac - 1)
/-- The infinity of a sign. -/
def FFmt.inf (f : FFmt) (neg : Bool) : Nat := b2n neg * 2 ^ (f.width - 1) + f.expMax * 2 ^ f.frac
/-- The largest finite value of a sign. -/
def FFmt.maxFin (f : FFmt) (neg : Bool) : Nat := f.inf neg - 1
/-- The zero of a sign. -/
def FFmt.zero (f : FFmt) (neg : Bool) : Nat := b2n neg * 2 ^ (f.width - 1)

/-- The exact value of a bit pattern; subnormals are read (R89). -/
def FFmt.decode (f : FFmt) (bits : Nat) : FV :=
  let neg := bits.testBit (f.width - 1)
  let ex := bitsOf bits f.frac (f.width - f.prec)
  let fr := bitsOf bits 0 f.frac
  if ex = f.expMax then (if fr = 0 then .inf neg else .nan)
  else if ex = 0 then .fin neg fr f.emin
  else .fin neg (fr + 2 ^ f.frac) (f.emin + ex - 1)

/-- Round ±m × 2^e once to nearest, ties to even (R99), and hold it at the largest finite value
(R91). With `sticky` the exact magnitude lies strictly between m and m + 1 units of 2^e. -/
def FFmt.round (f : FFmt) (neg : Bool) (m : Nat) (e : Int) (sticky : Bool := false) : FR :=
  let mm := 2 * m + b2n sticky
  let ee := e - 1
  if mm = 0 then ⟨f.zero neg, 0⟩
  else
    let len : Int := mm.log2 + 1
    let lsb := max f.emin (ee + len - f.prec)
    let q0 := if lsb ≤ ee then mm * 2 ^ (ee - lsb).toNat else mm / 2 ^ (lsb - ee).toNat
    let r := if lsb ≤ ee then 0 else mm % 2 ^ (lsb - ee).toNat
    let half := if lsb ≤ ee then 1 else 2 ^ ((lsb - ee).toNat - 1)
    let q := if r > half || (r = half && q0 % 2 = 1) then q0 + 1 else q0
    let inexact := r != 0
    let mag :=
      if q < 2 ^ f.frac then q
      else ((lsb - f.emin).toNat + 1) * 2 ^ f.frac + q - 2 ^ f.frac
    let tiny := decide (ee + len ≤ f.emin + f.prec - 1)
    if mag ≥ f.expMax * 2 ^ f.frac then
      ⟨f.maxFin neg, flOverflow ||| flSaturate ||| flInexact⟩
    else
      ⟨f.zero neg + mag, (if inexact then flInexact else 0) ||| (if inexact && tiny then flUnderflow else 0)⟩

/-- The bit pattern of an exact value in a format, rounded once. -/
def FFmt.encode (f : FFmt) : FV → FR
  | .nan => ⟨f.nan, 0⟩
  | .inf n => ⟨f.inf n, 0⟩
  | .fin n m e => f.round n m e

/-- The canonical NaN with INVALID raised. -/
def FFmt.invalid (f : FFmt) : FR := ⟨f.nan, flInvalid⟩

/-- Exact negation. -/
def FV.neg : FV → FV
  | .nan => .nan
  | .inf n => .inf (!n)
  | .fin n m e => .fin (!n) m e

/-- The signed integer of m at the exponent `lo`. -/
def alignAt (neg : Bool) (m : Nat) (e lo : Int) : Int :=
  let v : Int := (m : Int) * 2 ^ (e - lo).toNat
  if neg then -v else v

/-- The exact sum; none for ∞ − ∞. Signs of zero follow round to nearest (R90). -/
def FV.add : FV → FV → Option FV
  | .nan, _ => some .nan
  | _, .nan => some .nan
  | .inf a, .inf b => if a = b then some (.inf a) else none
  | .inf a, _ => some (.inf a)
  | _, .inf b => some (.inf b)
  | .fin na ma ea, .fin nb mb eb =>
    if ma = 0 && mb = 0 then some (.fin (na && nb) 0 0)
    else
      let lo := min ea eb
      let s := alignAt na ma ea lo + alignAt nb mb eb lo
      some (.fin (decide (s < 0)) s.natAbs lo)

/-- The exact product; none for 0 × ∞. -/
def FV.mul : FV → FV → Option FV
  | .nan, _ => some .nan
  | _, .nan => some .nan
  | .inf a, .inf b => some (.inf (a != b))
  | .inf a, .fin nb mb _ => if mb = 0 then none else some (.inf (a != nb))
  | .fin na ma _, .inf b => if ma = 0 then none else some (.inf (na != b))
  | .fin na ma ea, .fin nb mb eb => some (.fin (na != nb) (ma * mb) (ea + eb))

/-- Round an exact result, or answer the invalid case. -/
def FFmt.fromExact (f : FFmt) : Option FV → FR
  | none => f.invalid
  | some v => f.encode v

/-- a + b, one rounding. -/
def FFmt.addV (f : FFmt) (a b : FV) : FR := f.fromExact (a.add b)
/-- a + b with one rounding, as the accumulators and adder trees of the cell array form it: an exact zero sum is
+0, also of two negative zeros (R134). -/
def FFmt.sumV (f : FFmt) (a b : FV) : FR :=
  match a.add b with
  | some (.fin _ 0 _) => ⟨f.zero false, 0⟩
  | r => f.fromExact r
/-- a × b, one rounding. -/
def FFmt.mulV (f : FFmt) (a b : FV) : FR := f.fromExact (a.mul b)

/-- The exact a × b + c, for one rounding. -/
def FV.fma (a b c : FV) : Option FV :=
  match a.mul b with
  | none => none
  | some p => p.add c

/-- a / b, one rounding: a non-zero value over ±0 is the infinity IEEE 754 gives, with INVALID
(R170). -/
def FFmt.divV (f : FFmt) : FV → FV → FR
  | .nan, _ => ⟨f.nan, 0⟩
  | _, .nan => ⟨f.nan, 0⟩
  | .inf _, .inf _ => f.invalid
  | .inf a, .fin n _ _ => ⟨f.inf (a != n), 0⟩
  | .fin n _ _, .inf b => ⟨f.zero (n != b), 0⟩
  | .fin na ma ea, .fin nb mb eb =>
    if mb = 0 then (if ma = 0 then f.invalid else ⟨f.inf (na != nb), flInvalid⟩)
    else
      let k := mb.log2 + 80
      let n := ma * 2 ^ k
      f.round (na != nb) (n / mb) (ea - eb - k) (n % mb != 0)

/-- √a, one rounding. -/
def FFmt.sqrtV (f : FFmt) : FV → FR
  | .nan => ⟨f.nan, 0⟩
  | .inf true => f.invalid
  | .inf false => ⟨f.inf false, 0⟩
  | .fin n m e =>
    if m = 0 then ⟨f.zero n, 0⟩
    else if n then f.invalid
    else
      let odd := decide (e % 2 ≠ 0)
      let e' := if odd then e - 1 else e
      let mm := (if odd then 2 * m else m) * 2 ^ 128
      let r := Nat.sqrt mm
      f.round false r (e' / 2 - 64) (r * r != mm)

/-- 1 / √a, one rounding; of ±0 the infinity of its sign, with INVALID (R170). -/
def FFmt.rsqrtV (f : FFmt) : FV → FR
  | .nan => ⟨f.nan, 0⟩
  | .inf true => f.invalid
  | .inf false => ⟨f.zero false, 0⟩
  | .fin n m e =>
    if m = 0 then ⟨f.inf n, flInvalid⟩
    else if n then f.invalid
    else
      let odd := decide (e % 2 ≠ 0)
      let e' := if odd then e - 1 else e
      let m' := if odd then 2 * m else m
      let k := m'.log2 + 80
      let y := 2 ^ (2 * k) / m'
      let r := Nat.sqrt y
      f.round false r (-(k : Int) - e' / 2) (r * r * m' != 2 ^ (2 * k))

/-! ### Exponentials and logarithms

Worked in fixed point with 320 fraction bits; the exact results are irrational save the cases that
are answered exactly, so the sticky bit stands for the rest of the expansion (log entry 12). -/

/-- Fraction bits of the working fixed point. -/
def fixP : Nat := 320
/-- One, in the working fixed point. -/
def fixOne : Nat := 2 ^ fixP

/-- Σ z^(2k+1)/(2k+1) from the running power `zp`. -/
def atanhLoop (z2 : Nat) : Nat → Nat → Nat → Nat → Nat
  | 0, _, _, acc => acc
  | n + 1, zp, d, acc => atanhLoop z2 n (zp * z2 / fixOne) (d + 2) (acc + zp / d)

/-- atanh of a fixed-point z below 1. -/
def atanhFix (z : Nat) : Nat := atanhLoop (z * z / fixOne) 330 z 1 0

/-- ln 2 in the working fixed point: 2 atanh(1/3). -/
def ln2Fix : Nat := 2 * atanhFix (fixOne / 3)

/-- Σ r^k/k! from the running term. -/
def expLoop (r : Nat) : Nat → Nat → Nat → Nat → Nat
  | 0, _, _, acc => acc
  | n + 1, t, k, acc => expLoop r n (t * r / fixOne / k) (k + 1) (acc + t)

/-- e^r for a fixed-point r below 1. -/
def expFix (r : Nat) : Nat := expLoop r 120 fixOne 1 0

/-- 2^x for the fixed-point number x (signed): the mantissa in fixed point and the power of two. -/
def exp2Parts (x : Int) : Nat × Int :=
  let k := x / (fixOne : Nat)
  let fr := (x - k * (fixOne : Nat)).toNat
  (expFix (fr * ln2Fix / fixOne), k)

/-- A finite value as signed fixed point, held to ±4,096. -/
def toFix (neg : Bool) (m : Nat) (e : Int) : Int :=
  let lim : Nat := 4096 * fixOne
  let sh := e + (fixP : Int)
  let v := if sh ≥ 0 then (if m.log2 + sh.toNat > fixP + 13 then lim else min lim (m * 2 ^ sh.toNat))
    else min lim (m / 2 ^ (-sh).toNat)
  if neg then -(v : Int) else v

/-- Round the positive value mant × 2^(k − 320) with more digits behind it. -/
def FFmt.roundPow (f : FFmt) (mant : Nat) (k : Int) : FR := f.round false mant (k - (fixP : Int)) true

/-- e^a, correctly rounded. -/
def FFmt.expV (f : FFmt) : FV → FR
  | .nan => ⟨f.nan, 0⟩
  | .inf true => ⟨f.zero false, 0⟩
  | .inf false => ⟨f.inf false, 0⟩
  | .fin n m e =>
    if m = 0 then f.round false 1 0
    else if e + (m.log2 : Int) < -200 then
      -- |a| below 2^-199: the result lies just beside 1
      if n then f.round false (2 ^ 300 - 1) (-300) true else f.round false (2 ^ 300) (-300) true
    else
      let x := toFix n m e
      let p := exp2Parts (x * (fixOne : Nat) / (ln2Fix : Nat))
      f.roundPow p.1 p.2

/-- 2^a, correctly rounded; exact at integers. -/
def FFmt.exp2V (f : FFmt) : FV → FR
  | .nan => ⟨f.nan, 0⟩
  | .inf true => ⟨f.zero false, 0⟩
  | .inf false => ⟨f.inf false, 0⟩
  | .fin n m e =>
    if m = 0 then f.round false 1 0
    else
      let x := toFix n m e
      if e ≥ 0 || m % 2 ^ (-e).toNat = 0 then f.round false 1 (x / (fixOne : Nat))
      else if e + (m.log2 : Int) < -200 then
        if n then f.round false (2 ^ 300 - 1) (-300) true else f.round false (2 ^ 300) (-300) true
      else
        let p := exp2Parts x
        f.roundPow p.1 p.2

/-- ln(m × 2^e) in signed fixed point, m not 0. -/
def lnFix (m : Nat) (e : Int) : Int :=
  let l := m.log2
  let y := m * 2 ^ (fixP - min fixP l)
  -- y / 2^(fixP) lies in [1, 2)
  let k : Int := e + l
  if y ≤ fixOne + fixOne / 2 then
    (2 * atanhFix ((y - fixOne) * fixOne / (y + fixOne)) : Nat) + k * (ln2Fix : Nat)
  else
    (k + 1) * (ln2Fix : Nat) - (2 * atanhFix ((2 * fixOne - y) * fixOne / (y + 2 * fixOne)) : Nat)

/-- Round a signed fixed-point value with more digits behind it. -/
def FFmt.roundFix (f : FFmt) (v : Int) : FR :=
  f.round (decide (v < 0)) v.natAbs (-(fixP : Int)) true

/-- ln a, correctly rounded; of ±0 it is −∞ with INVALID (R170). -/
def FFmt.logV (f : FFmt) : FV → FR
  | .nan => ⟨f.nan, 0⟩
  | .inf true => f.invalid
  | .inf false => ⟨f.inf false, 0⟩
  | .fin n m e =>
    if m = 0 then ⟨f.inf true, flInvalid⟩
    else if n then f.invalid
    else if m = 2 ^ m.log2 && e + (m.log2 : Int) = 0 then ⟨f.zero false, 0⟩
    else f.roundFix (lnFix m e)

/-- log2 a, correctly rounded; exact at powers of two. -/
def FFmt.log2V (f : FFmt) : FV → FR
  | .nan => ⟨f.nan, 0⟩
  | .inf true => f.invalid
  | .inf false => ⟨f.inf false, 0⟩
  | .fin n m e =>
    if m = 0 then ⟨f.inf true, flInvalid⟩
    else if n then f.invalid
    else if m = 2 ^ m.log2 then
      let k := e + (m.log2 : Int)
      f.round (decide (k < 0)) k.natAbs 0
    else f.roundFix (lnFix m e * (fixOne : Nat) / (ln2Fix : Nat))

/-! ### Comparisons -/

/-- a < b on exact values; false when either is NaN. -/
def FV.lt : FV → FV → Bool
  | .nan, _ => false
  | _, .nan => false
  | .inf a, .inf b => a && !b
  | .inf a, .fin .. => a
  | .fin .., .inf b => !b
  | .fin na ma ea, .fin nb mb eb =>
    let lo := min ea eb
    decide (alignAt na ma ea lo < alignAt nb mb eb lo)

/-- Is it NaN? -/
def FV.isNan : FV → Bool
  | .nan => true
  | _ => false

/-- Equality of values: zeros are equal, NaN equals nothing. -/
def FV.eqv (a b : FV) : Bool := !a.isNan && !b.isNan && !a.lt b && !b.lt a

/-- The sign of a value. -/
def FV.sign : FV → Bool
  | .nan => false
  | .inf n => n
  | .fin n _ _ => n

/-- Is it a finite value? -/
def FV.isFin : FV → Bool
  | .fin .. => true
  | _ => false

/-- Is it a zero? -/
def FV.isZero : FV → Bool
  | .fin _ 0 _ => true
  | _ => false

/-- The maximum, +0 above −0; NaN if either is NaN (R170). -/
def FV.max (a b : FV) : FV :=
  if a.isNan || b.isNan then .nan
  else if a.lt b then b
  else if b.lt a then a
  else if a.sign then b else a

/-- The minimum, −0 below +0. -/
def FV.min (a b : FV) : FV :=
  if a.isNan || b.isNan then .nan
  else if a.lt b then a
  else if b.lt a then b
  else if a.sign then a else b

/-- The nearest integer of ±m × 2^e, ties to even. -/
def rneInt (neg : Bool) (m : Nat) (e : Int) : Int :=
  let v : Nat :=
    if e ≥ 0 then m * 2 ^ e.toNat
    else
      let d := 2 ^ (-e).toNat
      let q := m / d
      let r := m % d
      if 2 * r > d || (2 * r = d && q % 2 = 1) then q + 1 else q
  if neg then -(v : Int) else v

/-- The nearest integer of the exact quotient num / den of naturals, ties to even. -/
def rneQuot (num den : Nat) : Nat :=
  let q := num / den
  let r := num % den
  if 2 * r > den || (2 * r = den && q % 2 = 1) then q + 1 else q

/-! ### F32 shorthands over bit patterns -/

/-- The exact value of F32 bits. -/
def f32 (b : Nat) : FV := fF32.decode b
/-- rne_f32(a + b). -/
def f32Add (a b : Nat) : FR := fF32.addV (f32 a) (f32 b)
/-- rne_f32(a − b). -/
def f32Sub (a b : Nat) : FR := fF32.addV (f32 a) (f32 b).neg
/-- rne_f32(a × b). -/
def f32Mul (a b : Nat) : FR := fF32.mulV (f32 a) (f32 b)
/-- rne_f32(a / b). -/
def f32Div (a b : Nat) : FR := fF32.divV (f32 a) (f32 b)
/-- F32 of an integer. -/
def f32OfInt (i : Int) : FR := fF32.round (decide (i < 0)) i.natAbs 0

/-- Convert a bit pattern between float formats, one rounding. -/
def fconv (a b : FFmt) (x : Nat) : FR := b.encode (a.decode x)

end Sys2Proof.Machine
end

