-- ==== Sys2Proof/Machine/Quant.lean ====
section
/-! DEFINITION. Block-scaled formats, the quantise stage (R92 to R102), and stochastic rounding (R107
to R111). -/

namespace Sys2Proof.Machine

/-- Element width in bits of a format code (Table 3.1). -/
def fmtBits : Nat → Nat
  | 1 => 4
  | 2 => 8
  | 3 => 8
  | 4 => 16
  | 5 => 16
  | 6 => 16
  | 7 => 32
  | 8 => 32
  | 9 => 16
  | _ => 0

/-- Is a format block-scaled? -/
def blockFmt (f : Nat) : Bool := decide (1 ≤ f) && decide (f ≤ 3)

/-- The lowest and highest code that the device writes (Table 3.4). -/
def codeRange : Nat → Int × Int
  | 1 => (-7, 7)
  | 2 => (-127, 127)
  | 3 => (0, 255)
  | 9 => (-32767, 32767)
  | _ => (0, 0)

/-- A code read from the element plane as an integer. -/
def codeInt (fmt raw : Nat) : Int :=
  if fmt = 3 then (raw % 256 : Nat) else sint (fmtBits fmt) raw

/-- The zero point of a scale entry (Table 3.5), for Q8U. -/
def entryZp (fmt entry : Nat) : Int := if fmt = 3 then (bitsOf entry 16 8 : Nat) else 0

/-- The exact product scale × (q − zp) of one code; none where it is invalid, an infinite scale by zero (R90,
R96). -/
def blockExact (fmt entry raw : Nat) : Option FV :=
  let q := codeInt fmt raw - entryZp fmt entry
  (fB16.decode (entry % 65536)).mul (.fin (decide (q < 0)) q.natAbs 0)

/-- The decoded value of one code: scale × (q − zp), exact (R96). -/
def blockDecode (fmt entry raw : Nat) : FV := (blockExact fmt entry raw).getD .nan

/-- Clamp, telling whether the value changed. -/
def clampC (lo hi v : Int) : Int × Bool :=
  if v < lo then (lo, true) else if hi < v then (hi, true) else (v, false)

/-- One quantised element: its code, whether it counts as a saturation, and its INVALID flag. -/
structure QElem where
  code : Int
  sat : Bool := false
  invalid : Bool := false
  deriving DecidableEq, Repr

/-- One quantised block: codes, scale entry and flags. -/
structure QBlock where
  elems : List QElem
  entry : Nat
  deriving DecidableEq, Repr

/-- The finite values among some. -/
def finiteOf (xs : List FV) : List FV := xs.filter FV.isFin

/-- The magnitude of a value. -/
def FV.abs : FV → FV
  | .nan => .nan
  | .inf _ => .inf false
  | .fin _ m e => .fin false m e

/-- rne_int of the exact quotient x / scale. -/
def quotInt (x s : FV) : Int :=
  match x, s with
  | .fin n m e, .fin _ ms es =>
    if ms = 0 then 0 else
    let d := e - es
    let num := if d ≥ 0 then m * 2 ^ d.toNat else m
    let den := if d ≥ 0 then ms else ms * 2 ^ (-d).toNat
    let q : Int := rneQuot num den
    if n then -q else q
  | _, _ => 0

/-- The scale of a block divided by a count: rne_b16(v / n). -/
def scaleOf (v : FV) (n : Nat) : Nat := (fB16.divV v (.fin false n 0)).bits

/-- The quantise stage on one block of values (R100). `static` carries the scale entry to use.

DESIGN CHOICE (log entry 41): where a dynamic scale rounds to 0, only a negative Q8U element without a zero point
counts as a clamp, as the rule names it; no other non-zero element of the block counts. -/
def quantBlock (fmt : Nat) (zpEn : Bool) (static : Option Nat) (xs : List FV) : QBlock :=
  let r := codeRange fmt
  let qmax : Nat := if fmt = 1 then 7 else if fmt = 2 then 127 else 255
  let fin := finiteOf xs
  let zero : FV := .fin false 0 0
  let mx := fin.foldl FV.max zero
  let mn := fin.foldl FV.min zero
  let zpUse := decide (fmt = 3) && zpEn
  let sb : Nat × Int :=
    match static with
    | some e => (e % 65536, if zpUse then (bitsOf e 16 8 : Nat) else 0)
    | none =>
      if zpUse then
        let span := match mx.add mn.neg with
          | some v => v
          | none => .nan
        let sc := scaleOf span 255
        let sv := fB16.decode sc
        if sv.isZero then (sc, 0) else (sc, (clampC 0 255 (quotInt mn.neg sv)).1)
      else if fmt = 3 then (scaleOf mx 255, 0)
      else (scaleOf ((fin.map FV.abs).foldl FV.max zero) qmax, 0)
  let sv := fB16.decode sb.1
  let zp := sb.2
  let badStatic := static.isSome && (!sv.isFin || sv.isZero || sv.sign)
  let one (x : FV) : QElem :=
    if badStatic then ⟨zp, true, true⟩
    else match x with
      | .nan => ⟨zp, true, true⟩
      | .inf n =>
        let c := clampC r.1 r.2 (if n then -1000 else 1000)
        ⟨c.1, c.2, false⟩
      | .fin n m _ =>
        if sv.isZero then ⟨zp, decide (fmt = 3) && !zpUse && n && m != 0, false⟩
        else
          let c := clampC r.1 r.2 (quotInt x sv + zp)
          ⟨c.1, c.2, false⟩
  { elems := xs.map one
    entry := match static with
      | some e => e
      | none => sb.1 + (if fmt = 3 then zp.toNat * 65536 else 0) }

/-! ### Stochastic rounding -/

/-- mix64 (R108). -/
def mix64 (z : Word64) : Word64 :=
  let z := (z ^^^ (z >>> 30)) * 0xBF58476D1CE4E5B9#64
  let z := (z ^^^ (z >>> 27)) * 0x94D049BB133111EB#64
  z ^^^ (z >>> 31)

/-- rand64 (R108). -/
def rand64 (seed t tensor index : Nat) : Word64 :=
  let a := mix64 (BitVec.ofNat 64 seed ^^^ (BitVec.ofNat 64 (t % 2 ^ 32) <<< 32) ^^^
    BitVec.ofNat 64 tensor)
  mix64 (a ^^^ BitVec.ofNat 64 index ^^^ 0x9E3779B97F4A7C15#64)

/-- A weight in F32 written to B16 with 16 random bits (R110): its bits, and whether it clamped. -/
def srB16 (v u : Nat) : Nat × Bool :=
  match f32 v with
  | .nan => (0x7FC0, false)
  | .inf n => (fB16.inf n, false)
  | .fin n _ _ =>
    let m := (v % 2 ^ 31 + u % 65536) / 65536
    if m = 0x7F80 then (b2n n * 0x8000 + 0x7F7F, true) else (b2n n * 0x8000 + m, false)

/-- The exponent of the Q16 block scale (R111): the least k from −133 to 127 with
2^k × 32,767 ≥ amax; 0 when amax is 0. -/
def q16Exp (amax : FV) : Int :=
  match amax with
  | .fin _ 0 _ => 0
  | .fin _ m e =>
    let ok (k : Int) : Bool :=
      let lo := min e k
      decide ((m : Int) * 2 ^ (e - lo).toNat ≤ 32767 * 2 ^ (k - lo).toNat)
    match (List.range 261).find? (fun i => ok ((i : Int) - 133)) with
    | some i => (i : Int) - 133
    | none => 127
  | _ => 127

/-- One moment value in F32 written as a Q16 code with 24 random bits (R111). -/
def srQ16 (k : Int) (v u : Nat) : QElem :=
  match f32 v with
  | .nan => ⟨0, true, true⟩
  | .inf n => ⟨if n then -32767 else 32767, true, false⟩
  | .fin n m e =>
    -- v / 2^k + u / 2^24, floored exactly
    let lo := min (e - k) (-24)
    let a := alignAt n m (e - k) lo + (u % 2 ^ 24 : Nat) * 2 ^ (-24 - lo).toNat
    let c := clampC (-32767) 32767 (a / (2 ^ (-lo).toNat : Nat))
    ⟨c.1, c.2, false⟩

/-- A block of 32 moments written to Q16: codes, scale entry, and how many clamped (R111). -/
def q16Block (vs us : List Nat) : QBlock :=
  let vals := vs.map f32
  let k := q16Exp ((finiteOf vals |>.map FV.abs).foldl FV.max (.fin false 0 0))
  let sc := (fB16.round false 1 k).bits
  { elems := (vs.zip us).map (fun p => srQ16 k p.1 p.2), entry := sc }

end Sys2Proof.Machine
end

