-- ==== Sys2Proof/Machine/Crypto.lean ====
section
/-! DEFINITION. The algorithms the manual names: SHA-384, HMAC, HKDF and the SP 800-108 KDF of R408,
AES-256 in GCM and XTS (R227, R233, R490), and ECDSA P-384 verification (R70, R288). The algorithms
themselves are FIPS 180-4, 197, 186-5, SP 800-38D/38E and RFC 5869 (log entry 13). -/

namespace Sys2Proof.Machine

/-! ### SHA-384 -/

/-- The 80 round constants. -/
def shaK : List Nat :=
  [0x428A2F98D728AE22, 0x7137449123EF65CD, 0xB5C0FBCFEC4D3B2F, 0xE9B5DBA58189DBBC] ++
  [0x3956C25BF348B538, 0x59F111F1B605D019, 0x923F82A4AF194F9B, 0xAB1C5ED5DA6D8118] ++
  [0xD807AA98A3030242, 0x12835B0145706FBE, 0x243185BE4EE4B28C, 0x550C7DC3D5FFB4E2] ++
  [0x72BE5D74F27B896F, 0x80DEB1FE3B1696B1, 0x9BDC06A725C71235, 0xC19BF174CF692694] ++
  [0xE49B69C19EF14AD2, 0xEFBE4786384F25E3, 0x0FC19DC68B8CD5B5, 0x240CA1CC77AC9C65] ++
  [0x2DE92C6F592B0275, 0x4A7484AA6EA6E483, 0x5CB0A9DCBD41FBD4, 0x76F988DA831153B5] ++
  [0x983E5152EE66DFAB, 0xA831C66D2DB43210, 0xB00327C898FB213F, 0xBF597FC7BEEF0EE4] ++
  [0xC6E00BF33DA88FC2, 0xD5A79147930AA725, 0x06CA6351E003826F, 0x142929670A0E6E70] ++
  [0x27B70A8546D22FFC, 0x2E1B21385C26C926, 0x4D2C6DFC5AC42AED, 0x53380D139D95B3DF] ++
  [0x650A73548BAF63DE, 0x766A0ABB3C77B2A8, 0x81C2C92E47EDAEE6, 0x92722C851482353B] ++
  [0xA2BFE8A14CF10364, 0xA81A664BBC423001, 0xC24B8B70D0F89791, 0xC76C51A30654BE30] ++
  [0xD192E819D6EF5218, 0xD69906245565A910, 0xF40E35855771202A, 0x106AA07032BBD1B8] ++
  [0x19A4C116B8D2D0C8, 0x1E376C085141AB53, 0x2748774CDF8EEB99, 0x34B0BCB5E19B48A8] ++
  [0x391C0CB3C5C95A63, 0x4ED8AA4AE3418ACB, 0x5B9CCA4F7763E373, 0x682E6FF3D6B2B8A3] ++
  [0x748F82EE5DEFB2FC, 0x78A5636F43172F60, 0x84C87814A1F0AB72, 0x8CC702081A6439EC] ++
  [0x90BEFFFA23631E28, 0xA4506CEBDE82BDE9, 0xBEF9A3F7B2C67915, 0xC67178F2E372532B] ++
  [0xCA273ECEEA26619C, 0xD186B8C721C0C207, 0xEADA7DD6CDE0EB1E, 0xF57D4F7FEE6ED178] ++
  [0x06F067AA72176FBA, 0x0A637DC5A2C898A6, 0x113F9804BEF90DAE, 0x1B710B35131C471B] ++
  [0x28DB77F523047D84, 0x32CAAB7B40C72493, 0x3C9EBE0A15C9BEBC, 0x431D67C49C100D4C] ++
  [0x4CC5D4BECB3E42B6, 0x597F299CFC657E2A, 0x5FCB6FAB3AD6FAEC, 0x6C44198C4A475817]

/-- The initial hash value of SHA-384. -/
def sha384Init : List Nat :=
  [0xCBBB9D5DC1059ED8, 0x629A292A367CD507, 0x9159015A3070DD17, 0x152FECD8F70E5939] ++
  [0x67332667FFC00B31, 0x8EB44A8768581511, 0xDB0C2E0D64F98FA7, 0x47B5481DBEFA4FA4]

/-- One 64-bit word from eight big-endian bytes. -/
def be64 (bs : List Byte) : Word64 := BitVec.ofNat 64 (beNat bs)

/-- Cut a list into pieces of n, `fuel` at most. -/
def pieces {α : Type} (n : Nat) : Nat → List α → List (List α)
  | 0, _ => []
  | _, [] => []
  | fuel + 1, l => l.take n :: pieces n fuel (l.drop n)

/-- The message padded to whole 128-byte blocks. -/
def shaPad (m : List Byte) : List Byte :=
  let z := (128 - (m.length + 17) % 128) % 128
  m ++ [0x80] ++ List.replicate z 0 ++ beBytes 16 (8 * m.length)

/-- The next schedule word from the last sixteen, newest first. -/
def shaNextW (w : List Word64) : Word64 :=
  let g (i : Nat) : Word64 := w.getD i 0
  let s0 := (g 14).rotateRight 1 ^^^ (g 14).rotateRight 8 ^^^ (g 14) >>> 7
  let s1 := (g 1).rotateRight 19 ^^^ (g 1).rotateRight 61 ^^^ (g 1) >>> 6
  g 15 + s0 + g 6 + s1

/-- The working registers a to h. -/
structure ShaRegs where
  a : Word64
  b : Word64
  c : Word64
  d : Word64
  e : Word64
  f : Word64
  g : Word64
  h : Word64
  deriving DecidableEq, Repr

/-- One round. -/
def shaRound (r : ShaRegs) (k : Nat) (w : Word64) : ShaRegs :=
  let s1 := r.e.rotateRight 14 ^^^ r.e.rotateRight 18 ^^^ r.e.rotateRight 41
  let ch := (r.e &&& r.f) ^^^ (~~~r.e &&& r.g)
  let t1 := r.h + s1 + ch + BitVec.ofNat 64 k + w
  let s0 := r.a.rotateRight 28 ^^^ r.a.rotateRight 34 ^^^ r.a.rotateRight 39
  let mj := (r.a &&& r.b) ^^^ (r.a &&& r.c) ^^^ (r.b &&& r.c)
  ⟨t1 + (s0 + mj), r.a, r.b, r.c, r.d + t1, r.e, r.f, r.g⟩

/-- All rounds: `win` holds the last sixteen schedule words, newest first, `left` those to come. -/
def shaRounds : List Nat → List Word64 → List Word64 → ShaRegs → ShaRegs
  | [], _, _, r => r
  | k :: ks, left, win, r =>
    match left with
    | w :: ws => shaRounds ks ws ((w :: win).take 16) (shaRound r k w)
    | [] =>
      let w := shaNextW win
      shaRounds ks [] ((w :: win).take 16) (shaRound r k w)

/-- One block into the hash value. -/
def shaBlock (h : List Word64) (blk : List Byte) : List Word64 :=
  let g (i : Nat) : Word64 := h.getD i 0
  let ws := (pieces 8 16 blk).map be64
  let r := shaRounds shaK ws [] ⟨g 0, g 1, g 2, g 3, g 4, g 5, g 6, g 7⟩
  [g 0 + r.a, g 1 + r.b, g 2 + r.c, g 3 + r.d, g 4 + r.e, g 5 + r.f, g 6 + r.g, g 7 + r.h]

/-- SHA-384 of a byte string, as its 48 bytes. -/
def sha384B (m : List Byte) : List Byte :=
  let h := (pieces 128 (m.length / 128 + 2) (shaPad m)).foldl shaBlock
    (sha384Init.map (BitVec.ofNat 64))
  (h.take 6).flatMap (fun w => beBytes 8 w.toNat)

/-- SHA-384 of a byte string. -/
def sha384 (m : List Byte) : Digest := digestOf (sha384B m)

/-! ### HMAC, HKDF and the KDF of R408 -/

/-- HMAC-SHA-384. -/
def hmac384 (key msg : List Byte) : List Byte :=
  let k0 := if key.length > 128 then sha384B key else key
  let k := k0 ++ List.replicate (128 - k0.length) 0
  let px (p : Byte) := k.map (fun b => b ^^^ p)
  sha384B (px 0x5C ++ sha384B (px 0x36 ++ msg))

/-- HKDF-Extract. -/
def hkdfExtract (salt ikm : List Byte) : List Byte := hmac384 salt ikm

/-- The blocks T(i), T(i+1), … of HKDF-Expand. -/
def hkdfBlocks (prk info : List Byte) : Nat → Nat → List Byte → List Byte
  | 0, _, _ => []
  | n + 1, i, prev =>
    let t := hmac384 prk (prev ++ info ++ [byte i])
    t ++ hkdfBlocks prk info n (i + 1) t

/-- HKDF-Expand to `len` bytes. -/
def hkdfExpand (prk info : List Byte) (len : Nat) : List Byte :=
  (hkdfBlocks prk info (ceilDiv len 48) 1 []).take len

/-- The counter-mode KDF of SP 800-108 with HMAC-SHA-384 (R408): counter and length of 32 bits. -/
def kdf (key : List Byte) (label : String) (context : List Byte) (bits : Nat) : List Byte :=
  ((List.range (ceilDiv bits 384)).flatMap (fun i =>
    hmac384 key (beBytes 4 (i + 1) ++ ascii label ++ [0] ++ context ++ beBytes 4 bits))).take (bits / 8)

/-! ### AES-256 -/

/-- The S-box. -/
def aesSbox : List Byte :=
  [0x63, 0x7C, 0x77, 0x7B, 0xF2, 0x6B, 0x6F, 0xC5, 0x30, 0x01, 0x67, 0x2B, 0xFE, 0xD7, 0xAB, 0x76] ++
  [0xCA, 0x82, 0xC9, 0x7D, 0xFA, 0x59, 0x47, 0xF0, 0xAD, 0xD4, 0xA2, 0xAF, 0x9C, 0xA4, 0x72, 0xC0] ++
  [0xB7, 0xFD, 0x93, 0x26, 0x36, 0x3F, 0xF7, 0xCC, 0x34, 0xA5, 0xE5, 0xF1, 0x71, 0xD8, 0x31, 0x15] ++
  [0x04, 0xC7, 0x23, 0xC3, 0x18, 0x96, 0x05, 0x9A, 0x07, 0x12, 0x80, 0xE2, 0xEB, 0x27, 0xB2, 0x75] ++
  [0x09, 0x83, 0x2C, 0x1A, 0x1B, 0x6E, 0x5A, 0xA0, 0x52, 0x3B, 0xD6, 0xB3, 0x29, 0xE3, 0x2F, 0x84] ++
  [0x53, 0xD1, 0x00, 0xED, 0x20, 0xFC, 0xB1, 0x5B, 0x6A, 0xCB, 0xBE, 0x39, 0x4A, 0x4C, 0x58, 0xCF] ++
  [0xD0, 0xEF, 0xAA, 0xFB, 0x43, 0x4D, 0x33, 0x85, 0x45, 0xF9, 0x02, 0x7F, 0x50, 0x3C, 0x9F, 0xA8] ++
  [0x51, 0xA3, 0x40, 0x8F, 0x92, 0x9D, 0x38, 0xF5, 0xBC, 0xB6, 0xDA, 0x21, 0x10, 0xFF, 0xF3, 0xD2] ++
  [0xCD, 0x0C, 0x13, 0xEC, 0x5F, 0x97, 0x44, 0x17, 0xC4, 0xA7, 0x7E, 0x3D, 0x64, 0x5D, 0x19, 0x73] ++
  [0x60, 0x81, 0x4F, 0xDC, 0x22, 0x2A, 0x90, 0x88, 0x46, 0xEE, 0xB8, 0x14, 0xDE, 0x5E, 0x0B, 0xDB] ++
  [0xE0, 0x32, 0x3A, 0x0A, 0x49, 0x06, 0x24, 0x5C, 0xC2, 0xD3, 0xAC, 0x62, 0x91, 0x95, 0xE4, 0x79] ++
  [0xE7, 0xC8, 0x37, 0x6D, 0x8D, 0xD5, 0x4E, 0xA9, 0x6C, 0x56, 0xF4, 0xEA, 0x65, 0x7A, 0xAE, 0x08] ++
  [0xBA, 0x78, 0x25, 0x2E, 0x1C, 0xA6, 0xB4, 0xC6, 0xE8, 0xDD, 0x74, 0x1F, 0x4B, 0xBD, 0x8B, 0x8A] ++
  [0x70, 0x3E, 0xB5, 0x66, 0x48, 0x03, 0xF6, 0x0E, 0x61, 0x35, 0x57, 0xB9, 0x86, 0xC1, 0x1D, 0x9E] ++
  [0xE1, 0xF8, 0x98, 0x11, 0x69, 0xD9, 0x8E, 0x94, 0x9B, 0x1E, 0x87, 0xE9, 0xCE, 0x55, 0x28, 0xDF] ++
  [0x8C, 0xA1, 0x89, 0x0D, 0xBF, 0xE6, 0x42, 0x68, 0x41, 0x99, 0x2D, 0x0F, 0xB0, 0x54, 0xBB, 0x16]

/-- One byte through the S-box. -/
def subByte (b : Byte) : Byte := aesSbox.getD b.toNat 0
/-- One byte through the inverse S-box. -/
def invSubByte (b : Byte) : Byte := byte ((aesSbox.idxOf? b).getD 0)
/-- Times x in the AES field. -/
def xtime (b : Byte) : Byte := (b <<< 1) ^^^ (if b.getLsbD 7 then 0x1B else 0)
/-- Product in the AES field. -/
def gmul8 (a b : Byte) : Byte :=
  ((List.range 8).foldl (fun (p : Byte × Byte) i =>
    (if b.getLsbD i then p.1 ^^^ p.2 else p.1, xtime p.2)) ((0 : Byte), a)).1

/-- Xor of byte strings, to the shorter. -/
def xorB (a b : List Byte) : List Byte := List.zipWith (· ^^^ ·) a b

/-- The key schedule as 60 words, from the last eight, newest first. -/
def keyWords : Nat → Nat → List (List Byte) → List (List Byte)
  | 0, _, _ => []
  | n + 1, i, win =>
    let t := win.getD 0 []
    let t := if i % 8 = 0 then
        xorB ((t.drop 1 ++ t.take 1).map subByte)
          [(List.range (i / 8 - 1)).foldl (fun b _ => xtime b) (0x01 : Byte), 0, 0, 0]
      else if i % 8 = 4 then t.map subByte else t
    let w := xorB (win.getD 7 []) t
    w :: keyWords n (i + 1) ((w :: win).take 8)

/-- The fifteen round keys. -/
def aesKeys (key : List Byte) : List (List Byte) :=
  let k := pieces 4 8 key
  pieces 16 15 ((k ++ keyWords 52 8 k.reverse).flatten)

/-- A byte permutation by source indices. -/
def permB (ix : List Nat) (s : List Byte) : List Byte := ix.map (fun i => s.getD i 0)
/-- ShiftRows source indices. -/
def shiftIx : List Nat := [0, 5, 10, 15, 4, 9, 14, 3, 8, 13, 2, 7, 12, 1, 6, 11]
/-- Inverse ShiftRows source indices. -/
def invShiftIx : List Nat := [0, 13, 10, 7, 4, 1, 14, 11, 8, 5, 2, 15, 12, 9, 6, 3]

/-- MixColumns with a row of coefficients. -/
def mixCols (co : List Byte) (s : List Byte) : List Byte :=
  (pieces 4 4 s).flatMap (fun c => (List.range 4).map (fun r =>
    (List.range 4).foldl (fun acc j => acc ^^^ gmul8 (co.getD ((j + 4 - r) % 4) 0) (c.getD j 0)) 0))

/-- AES-256 of one block. -/
def aesEnc (keys : List (List Byte)) (blk : List Byte) : List Byte :=
  let s := xorB blk (keys.getD 0 [])
  let s := ((keys.drop 1).take 13).foldl (fun s k =>
    xorB (mixCols [2, 3, 1, 1] (permB shiftIx (s.map subByte))) k) s
  xorB (permB shiftIx (s.map subByte)) (keys.getD 14 [])

/-- Inverse AES-256 of one block. -/
def aesDec (keys : List (List Byte)) (blk : List Byte) : List Byte :=
  let s := xorB blk (keys.getD 14 [])
  let s := ((keys.drop 1).take 13).reverse.foldl (fun s k =>
    mixCols [14, 11, 13, 9] (xorB ((permB invShiftIx s).map invSubByte) k)) s
  xorB ((permB invShiftIx s).map invSubByte) (keys.getD 0 [])

/-! ### GCM -/

/-- Product in GF(2^128) with the GCM bit order: the first bit of the string is the top bit. -/
def gmul128 (x y : BitVec 128) : BitVec 128 :=
  ((List.range 128).foldl (fun (p : BitVec 128 × BitVec 128) i =>
    (if x.getMsbD i then p.1 ^^^ p.2 else p.1,
     if p.2.getLsbD 0 then (p.2 >>> 1) ^^^ (0xE1#128 <<< 120) else p.2 >>> 1)) ((0 : BitVec 128), y)).1

/-- Sixteen bytes as a GCM block. -/
def blk128 (bs : List Byte) : BitVec 128 := BitVec.ofNat 128 (beNat (slice bs 0 16))

/-- GHASH of whole blocks. -/
def ghash (h : BitVec 128) (bs : List Byte) : BitVec 128 :=
  (pieces 16 (bs.length / 16 + 1) bs).foldl (fun y b => gmul128 (y ^^^ blk128 b) h) 0

/-- Zero padding to whole 16-byte blocks. -/
def pad16 (bs : List Byte) : List Byte := bs ++ List.replicate ((16 - bs.length % 16) % 16) 0

/-- The counter-mode stream over a text, from counter value `c`. -/
def gcmCtr (keys : List (List Byte)) (nonce : List Byte) (c : Nat) (txt : List Byte) : List Byte :=
  let bl := pieces 16 (txt.length / 16 + 1) txt
  (bl.zipIdx).flatMap (fun p => xorB p.1 (aesEnc keys (nonce ++ beBytes 4 ((c + p.2) % 2 ^ 32))))

/-- The GCM tag of a ciphertext. -/
def gcmTag (keys : List (List Byte)) (nonce aad ct : List Byte) : List Byte :=
  let h := blk128 (aesEnc keys (List.replicate 16 0))
  let s := ghash h (pad16 aad ++ pad16 ct ++ beBytes 8 (8 * aad.length) ++ beBytes 8 (8 * ct.length))
  xorB (beBytes 16 s.toNat) (aesEnc keys (nonce ++ beBytes 4 1))

/-- AES-256-GCM encryption under a 12-byte nonce: ciphertext and tag. -/
def gcmSeal (key nonce aad pt : List Byte) : List Byte × List Byte :=
  let keys := aesKeys key
  let ct := gcmCtr keys nonce 2 pt
  (ct, gcmTag keys nonce aad ct)

/-- AES-256-GCM decryption; none when the tag fails. -/
def gcmOpen (key nonce aad ct tag : List Byte) : Option (List Byte) :=
  let keys := aesKeys key
  if gcmTag keys nonce aad ct = tag then some (gcmCtr keys nonce 2 ct) else none

/-! ### XTS (R227) -/

/-- Times x on the XTS tweak. -/
def xtsNext (t : BitVec 128) : BitVec 128 := (t <<< 1) ^^^ (if t.getLsbD 127 then 0x87 else 0)

/-- The blocks of one data unit under successive tweaks. -/
def xtsBlocks (f : List Byte → List Byte) : Nat → BitVec 128 → List Byte → List Byte
  | 0, _, _ => []
  | n + 1, t, bs =>
    let tb := leBytes 16 t.toNat
    xorB (f (xorB (bs.take 16) tb)) tb ++ xtsBlocks f n (xtsNext t) (bs.drop 16)

/-- AES-256-XTS of one 64-byte line under a 512-bit key and a tweak (R227). -/
def xtsLine (key : List Byte) (tweak : Nat) (pt : List Byte) : List Byte :=
  let k1 := aesKeys (key.take 32)
  let k2 := aesKeys ((key.drop 32).take 32)
  xtsBlocks (aesEnc k1) 4 (BitVec.ofNat 128 (leNat (aesEnc k2 (leBytes 16 tweak)))) pt

/-- Its inverse. -/
def xtsOpen (key : List Byte) (tweak : Nat) (ct : List Byte) : List Byte :=
  let k1 := aesKeys (key.take 32)
  let k2 := aesKeys ((key.drop 32).take 32)
  xtsBlocks (aesDec k1) 4 (BitVec.ofNat 128 (leNat (aesEnc k2 (leBytes 16 tweak)))) ct

/-! ### ECDSA P-384 -/

/-- The field prime of secp384r1. -/
def p384 : Nat := 2 ^ 384 - 2 ^ 128 - 2 ^ 96 + 2 ^ 32 - 1
/-- The coefficient b. -/
def p384b : Nat := 0xB3312FA7E23EE7E4988E056BE3F82D19181D9C6EFE8141120314088F5013875AC656398D8A2ED19D2A85C8EDD3EC2AEF
/-- The order of the base point. -/
def p384n : Nat := 0xFFFFFFFFFFFFFFFFFFFFFFFFFFFFFFFFFFFFFFFFFFFFFFFFC7634D81F4372DDF581A0DB248B0A77AECEC196ACCC52973
/-- The base point. -/
def p384G : Nat × Nat :=
  (0xAA87CA22BE8B05378EB1C71EF320AD746E1D3B628BA79B9859F741E082542A385502F25DBF55296C3A545E3872760AB7,
   0x3617DE4A96262C6F5D9E98BF9292DC29F8F41DBD289A147CE9DA3113B5F0B8C00A60B1CE1D7E819D7A431D7C90EA0E5F)

/-- Powers modulo m by the low `w` bits of the exponent, most significant first. -/
def powMod (m b e : Nat) (w : Nat := 384) : Nat :=
  (List.range w).foldl (fun a i =>
    let a2 := a * a % m
    if e.testBit (w - 1 - i) then a2 * b % m else a2) 1

/-- A point in Jacobian coordinates; z = 0 is the point at infinity. -/
structure EcPt where
  x : Nat
  y : Nat
  z : Nat
  deriving DecidableEq, Repr

/-- Difference modulo the prime. -/
def fsub (a b : Nat) : Nat := (a + p384 - b % p384) % p384

/-- Doubling. -/
def ecDbl (p : EcPt) : EcPt :=
  let d := p.z * p.z % p384
  let g := p.y * p.y % p384
  let bt := p.x * g % p384
  let al := 3 * (fsub p.x d * ((p.x + d) % p384) % p384) % p384
  let x3 := fsub (al * al % p384) (8 * bt)
  let yz := (p.y + p.z) % p384
  let z3 := fsub (fsub (yz * yz % p384) g) d
  let y3 := fsub (al * fsub (4 * bt % p384) x3 % p384) (8 * g * g)
  ⟨x3, y3, z3⟩

/-- Addition. -/
def ecAdd (p q : EcPt) : EcPt :=
  if p.z = 0 then q
  else if q.z = 0 then p
  else
    let z1 := p.z * p.z % p384
    let z2 := q.z * q.z % p384
    let u1 := p.x * z2 % p384
    let u2 := q.x * z1 % p384
    let s1 := p.y * q.z % p384 * z2 % p384
    let s2 := q.y * p.z % p384 * z1 % p384
    if u1 = u2 then (if s1 = s2 then ecDbl p else ⟨1, 1, 0⟩)
    else
      let h := fsub u2 u1
      let r := fsub s2 s1
      let h2 := h * h % p384
      let h3 := h * h2 % p384
      let v := u1 * h2 % p384
      let x3 := fsub (fsub (r * r % p384) h3) (2 * v)
      let y3 := fsub (r * fsub v x3 % p384) (s1 * h3)
      ⟨x3, y3, h * p.z % p384 * q.z % p384⟩

/-- k × P. -/
def ecMul (k : Nat) (p : EcPt) : EcPt :=
  (List.range 384).foldl (fun a i =>
    let a2 := ecDbl a
    if k.testBit (383 - i) then ecAdd a2 p else a2) ⟨1, 1, 0⟩

/-- The affine coordinates of a point. -/
def ecAffine (p : EcPt) : Nat × Nat :=
  let zi := powMod p384 p.z (p384 - 2)
  let z2 := zi * zi % p384
  (p.x * z2 % p384, p.y * (z2 * zi % p384) % p384)

/-- Is (x, y) a point of the curve? -/
def ecOnCurve (x y : Nat) : Bool :=
  decide (x < p384) && decide (y < p384) &&
    decide (y * y % p384 = (x * x * x + (p384 - 3) * x + p384b) % p384)

/-- ECDSA P-384 signature of a digest under a private key, with the per-signature number k: r and s. -/
def ecdsaSign (d : Nat) (dig : Digest) (k : Nat) : Nat × Nat :=
  let r := (ecAffine (ecMul k ⟨p384G.1, p384G.2, 1⟩)).1 % p384n
  (r, powMod p384n k (p384n - 2) * (dig.toNat + r * d) % p384n)

/-- ECDSA P-384 verification of (r, s) over a digest, with the public key's 96 bytes X then Y. -/
def ecdsaVerify (pub : List Byte) (dig : Digest) (r s : Nat) : Bool :=
  let x := beNat (slice pub 0 48)
  let y := beNat (slice pub 48 48)
  if !ecOnCurve x y || r = 0 || s = 0 || r ≥ p384n || s ≥ p384n then false
  else
    let w := powMod p384n s (p384n - 2)
    let u1 := dig.toNat * w % p384n
    let u2 := r * w % p384n
    let q := ecAdd (ecMul u1 ⟨p384G.1, p384G.2, 1⟩) (ecMul u2 ⟨x, y, 1⟩)
    decide (q.z ≠ 0) && decide ((ecAffine q).1 % p384n = r)

end Sys2Proof.Machine
end

