-- ==== Sys2Proof/Machine/StateCfg.lean ====
section
/-! DEFINITION. The plain data of chapter 2: parsed frames, structure settings, tile configurations,
slice sequences and configuration sets. -/

namespace Sys2Proof.Machine

/-- One frame of a bitstream file (R50). -/
structure Frame where
  typ : Nat
  level : Nat
  index : Nat
  plen : Nat
  hdr : List Byte
  payload : List Byte
  crc : Nat
  trailer : List Byte
  deriving DecidableEq, Repr

/-- A VXU micro-op (Table 2.14). -/
structure UOp where
  opcode : Nat
  dst : Nat
  src1 : Nat
  src2 : Nat
  src3 : Nat
  fmt : Nat
  imm : Nat
  deriving DecidableEq, Repr

/-- A tile configuration (Table 2.11). -/
structure TileCfg where
  id : Nat := 0
  cycles : Nat := 0
  mode : Nat := 0
  group : Nat := 0
  stash : Nat := 0
  spillEn : Bool := false
  m : Nat := 0
  n : Nat := 0
  k : Nat := 0
  aSrc : Nat := 0
  bSrc : Nat := 0
  outDst : Nat := 0
  accLen : Nat := 0
  outFormat : Nat := 0
  outlierEn : Bool := false
  escapeEn : Bool := false
  satEn : Bool := false
  tensor : Nat := 0
  satThreshold : Nat := 0
  satWindow : Nat := 0
  fused : Bool := false
  rank : Nat := 0
  mask : Nat := 0
  uops : List UOp := []
  deriving DecidableEq, Repr

/-- One step of a slice sequence (Table 2.23). -/
structure SeqStep where
  id : Nat
  rep : Nat
  deriving DecidableEq, Repr

/-- A slice sequence (R624). -/
structure SeqCfg where
  plan : Nat := 0
  rowGroup : Nat := 1
  mask : Nat := 0
  steps : List SeqStep := []
  deriving DecidableEq, Repr

/-- A parsed tile configuration file. -/
structure CfgFile where
  base : Digest := 0
  set : Nat := 0
  configCount : Nat := 0
  logicalTiles : Nat := 0
  tiles : List TileCfg := []
  seqs : List SeqCfg := []
  digest : Digest := 0
  deriving DecidableEq, Repr

/-- One JANUS port's structure entry (Table 2.7). -/
structure PortCfg where
  enable : Bool := true
  laneMap : Nat := 0xFAC688
  txInvert : Nat := 0
  rxInvert : Nat := 0
  deriving DecidableEq, Repr

/-- One privileged tensor (Table 2.9). -/
structure Privileged where
  pfx : Nat
  tensor : Nat
  sideLen : Nat
  deriving DecidableEq, Repr

/-- The structure settings, each at its frame's default (Tables 2.4 to 2.9). -/
structure StructCfg where
  quadEnable : Nat := 0
  waysDefault : Nat := 2
  pchDefault : Nat := 8
  vecDefault : Nat := 64
  creditDefault : Nat := 16
  domainsDefault : Nat := 16
  gr2Allowed : Bool := false
  reservedMax : Nat := 1
  role : Nat := 0
  selfPeer : Nat := 0
  groupSize : Nat := 1
  ports : List PortCfg := List.replicate 16 {}
  baseGib : Nat := 48
  adapterGib : Nat := 8
  stashGib : Nat := 4
  cfgStoreMib : Nat := 64
  hostTierGib : Nat := 0
  peerTier : Bool := false
  privileged : List Privileged := []
  build : Nat := 0
  digest : Digest := 0
  deriving DecidableEq, Repr

/-- GLB_BS_STATUS.STATE (R79). -/
inductive BsState where
  | notLoaded | loading | loaded | refused
  deriving DecidableEq, Repr

end Sys2Proof.Machine
end

