-- ==== Sys2Proof/Machine/Loader.lean ====
section
/-! DEFINITION. The loader of chapter 2: the five check passes of R67 over a file's bytes, in the order
the pass table states, and the settings and configurations that an accepted file gives. -/

namespace Sys2Proof.Machine

/-- One check: whether it holds, its reason on failure (Table 2.16), and the frame it reports. -/
structure Chk where
  ok : Bool
  reason : Nat
  frame : Nat
  deriving DecidableEq, Repr

/-- The first check that fails, as (reason, frame). -/
def firstFail : List Chk → Option (Nat × Nat)
  | [] => none
  | c :: cs => if c.ok then firstFail cs else some (c.reason, c.frame)

/-- FRAME of a header or whole-file check (R79). -/
def wholeFile : Nat := 0xFFFF

/-- The largest file of a kind (R57, R61). -/
def kindLimit (kind : Nat) : Nat := if kind = 1 then 65536 else 16777216

/-! ### Pass 1: framing -/

/-- The bytes of a frame, read at its offset. -/
def frameAt (bs : List Byte) : Frame :=
  let plen := fieldAt bs 4 4
  { typ := fieldAt bs 0 1, level := fieldAt bs 1 1, index := fieldAt bs 2 2, plen := plen
    hdr := slice bs 0 16, payload := slice bs 16 plen
    crc := fieldAt bs (16 + plen) 4, trailer := slice bs (20 + plen) 4 }

/-- The checks of one frame in pass 1, with `room` bytes left in the file. -/
def frameChecks (level room pos : Nat) (f : Frame) : List Chk :=
  [⟨decide (24 + f.plen ≤ room), 0x07, pos⟩,
   ⟨decide (f.plen % 8 = 0) && decide (f.plen ≤ 1048576), 0x07, pos⟩,
   ⟨decide ((crc32c (f.hdr ++ f.payload)).toNat = f.crc), 0x08, pos⟩,
   ⟨decide (f.index = pos), 0x09, pos⟩,
   ⟨decide (f.level = level), 0x04, pos⟩]

/-- Walk the frames: the first failure of a frame in pass 1, or the frames found. Bytes too few for a frame end the walk. -/
def walkFrames (level : Nat) : Nat → Nat → List Byte → Except (Nat × Nat) (List Frame)
  | 0, _, _ => .ok []
  | fuel + 1, pos, bs =>
    if bs.length < 24 then .ok []
    else
      let f := frameAt bs
      match firstFail (frameChecks level bs.length pos f) with
      | some e => .error e
      | none =>
        match walkFrames level fuel (pos + 1) (bs.drop (24 + f.plen)) with
        | .ok fs => .ok (f :: fs)
        | .error e => .error e

/-- The checks at the end of pass 1. DESIGN CHOICE (log entry 45): Table 2.16 names no reason for frames that do not exactly
fill FILE_LENGTH; the 8 or 16 bytes left after the last frame fail as a whole-file check with reason 0x07. -/
def fillChecks (bs : List Byte) (fs : List Frame) : List Chk :=
  [⟨decide (fieldAt bs 0x0C 2 = fs.length), 0x09, wholeFile⟩,
   ⟨decide (64 + (fs.map (fun f => 24 + f.plen)).sum = bs.length), 0x07, wholeFile⟩]

/-- The header checks of pass 1, in the order of Table 2.15. -/
def headerChecks (kind level : Nat) (bs : List Byte) : List Chk :=
  [⟨decide (fieldAt bs 0 4 = 0x53424C4A), 0x01, wholeFile⟩,
   ⟨decide (fieldAt bs 5 1 = kind), 0x02, wholeFile⟩,
   ⟨decide (fieldAt bs 7 1 = 1), 0x03, wholeFile⟩,
   ⟨decide (fieldAt bs 4 1 = level), 0x04, wholeFile⟩,
   ⟨decide ((crc32c (slice bs 0 0x3C)).toNat = fieldAt bs 0x3C 4), 0x05, wholeFile⟩,
   ⟨decide (fieldAt bs 8 4 = bs.length) && decide (bs.length ≤ kindLimit kind) &&
      decide (bs.length % 8 = 0), 0x06, wholeFile⟩]

/-! ### Pass 2: reserved fields -/

/-- Reserved bits of a micro-op's immediate (R166, R167, R178 to R181). -/
def uopReserved (u : UOp) : Nat :=
  match u.opcode with
  | 0x03 => bitsOf u.imm 6 2
  | 0x04 => bitsOf u.imm 10 22
  | 0x48 => bitsOf u.imm 6 26
  | 0x50 => bitsOf u.imm 6 26 + bitsOf u.imm 0 4
  | 0x51 => bitsOf u.imm 9 23 + bitsOf u.imm 5 3
  | 0xF0 => bitsOf u.imm 3 29
  | _ => 0

/-- A micro-op from its 8 bytes (Table 2.14). -/
def uopOf (w : Nat) : UOp :=
  { opcode := bitsOf w 56 8, dst := bitsOf w 51 5, src1 := bitsOf w 46 5, src2 := bitsOf w 41 5
    src3 := bitsOf w 36 5, fmt := bitsOf w 32 4, imm := bitsOf w 0 32 }

/-- The micro-ops of a TC_TILE payload. -/
def uopsOf (p : List Byte) : List UOp :=
  (List.range (fieldAt p 7 1)).map (fun i => uopOf (fieldAt p (0x60 + 8 * i) 8))

/-- Are the reserved fields of a payload zero? Extension payloads are not interpreted (R52). -/
def payloadReservedOk (f : Frame) : Bool :=
  let p := f.payload
  let z (off n : Nat) : Bool := fieldAt p off n == 0
  let hi (off w lo : Nat) : Bool := fieldAt p off w / 2 ^ lo == 0
  match f.typ with
  | 0x01 => z 1 7
  | 0x02 => z 0x0A 22
  | 0x03 => z 1 1 && hi 2 2 12 && z 6 2 &&
      (List.range 16).all (fun i => hi (8 + 8 * i) 1 1 && z (8 + 8 * i + 6) 2)
  | 0x04 => hi 0x0C 1 1 && z 0x0D 19
  | 0x05 => z 2 6 && (List.range (min (fieldAt p 0 2) ((p.length - 8) / 16))).all (fun e => z (0x16 + 16 * e) 2)
  | 0x0F => z 1 7
  | 0x10 => hi 0x30 1 2 && z 0x31 7 && z 0x3C 4
  | 0x11 => z 1 1 && hi 5 1 2 && hi 6 1 4 && bitsOf (fieldAt p 0x0E 2) 0 4 == 0 &&
      hi 0x14 1 6 && hi 0x15 1 3 && z 0x16 2 && hi 0x24 1 1 && z 0x26 2 && z 0x48 24 &&
      (uopsOf p).all (fun u => uopReserved u == 0)
  | 0x12 => z 1 1 && z 6 2 &&
      (List.range (fieldAt p 2 2)).all (fun i => z (0x28 + 4 * i + 1) 1) &&
      allZero ((p.drop (0x28 + 4 * fieldAt p 2 2)).take (4 * (fieldAt p 2 2 % 2)))
  | _ => true

/-! ### Pass 3: code points -/

/-- Is a frame type an extension? -/
def isExt (t : Nat) : Bool := decide (0x80 ≤ t) && decide (t ≤ 0xFE)

/-- Is a frame type defined for a kind (Table 2.3)? -/
def typeAllowed (kind t : Nat) : Bool :=
  isExt t || t == 0x0F ||
    (if kind = 1 then decide (1 ≤ t) && decide (t ≤ 5) else decide (0x10 ≤ t) && decide (t ≤ 0x12))

/-- The micro-op opcodes of Table 5.2. -/
def uopCodes : List Nat :=
  [0x00, 0x01, 0x02, 0x03, 0x04] ++ [0x10, 0x11, 0x12, 0x13, 0x14, 0x15, 0x16, 0x17] ++
  [0x18, 0x19, 0x1A, 0x1B, 0x1C, 0x1D] ++ [0x20, 0x21, 0x22, 0x23] ++
  [0x28, 0x29, 0x2A, 0x2B, 0x2C, 0x2D, 0x2E] ++ [0x30] ++
  [0x38, 0x39, 0x3A, 0x3B, 0x3C, 0x3D, 0x3E, 0x3F] ++ [0x40, 0x41, 0x42, 0x43, 0x44] ++
  [0x48, 0x50, 0x51, 0xF0]

/-- Route codes of an operand (Table 2.13). -/
def srcRouteOk (r : Nat) : Bool := decide (r ≤ 5) || r == 7
/-- Route codes of an output. -/
def dstRouteOk (r : Nat) : Bool := r == 0 || (decide (2 ≤ r) && decide (r ≤ 7))
/-- Route codes of a SIGNAL (R167). -/
def signalRouteOk (r : Nat) : Bool := (decide (2 ≤ r) && decide (r ≤ 5)) || r == 7

/-- Are a micro-op's code points defined? -/
def uopCodeOk (u : UOp) : Bool :=
  uopCodes.contains u.opcode && decide (u.fmt ≤ 9) &&
    (u.opcode != 0x04 || signalRouteOk (bitsOf u.imm 0 4)) &&
    (u.opcode != 0x30 || decide (bitsOf u.imm 0 4 ≤ 9))

/-- Do the coded fields of a payload hold defined values? -/
def payloadCodesOk (f : Frame) : Bool :=
  let p := f.payload
  let b (off : Nat) : Nat := fieldAt p off 1
  match f.typ with
  | 0x03 => decide (b 0 ≤ 2)
  | 0x0F => decide (b 0 ≤ 7) || b 0 == 0xFF
  | 0x11 =>
    let r := fieldAt p 0x0E 2
    decide (b 4 ≤ 8) && decide (b 5 % 4 ≠ 3) && decide (b 6 % 8 ≤ 4) &&
      srcRouteOk (bitsOf r 12 4) && srcRouteOk (bitsOf r 8 4) && dstRouteOk (bitsOf r 4 4) &&
      decide (b 0x14 % 16 ≤ 8) && (uopsOf p).all uopCodeOk
  | _ => true

/-- Does a frame stand where R53 and Table 2.3 allow, after the frames before it? DESIGN CHOICE (log entry 47): a second
structure frame of one TYPE breaks the ascending order at that frame, before the type counts are checked. -/
def placementOk (kind pos : Nat) (before : List Frame) (f : Frame) : Bool :=
  !(before.any (fun g => g.typ == 0x0F)) &&
    (if kind = 1 then
      isExt f.typ || f.typ == 0x0F || before.all (fun g => isExt g.typ || decide (g.typ < f.typ))
    else decide (f.typ = 0x10 ↔ pos = 0))

/-- How often a type may stand in a file. -/
def countsOk (kind : Nat) (fs : List Frame) : Bool :=
  let n (t : Nat) : Nat := (fs.filter (fun f => f.typ == t)).length
  n 0x0F == 1 &&
    (if kind = 1 then n 1 == 1 && decide (n 2 ≤ 1) && decide (n 3 ≤ 1) && decide (n 4 ≤ 1) &&
      decide (n 5 ≤ 1)
    else n 0x10 == 1 && decide (1 ≤ n 0x11) && decide (1 ≤ n 0x12))

/-! ### Pass 4: values of structure frames -/

/-- The payload length a type has (Table 2.3). -/
def lengthOk (f : Frame) : Bool :=
  let p := f.payload
  match f.typ with
  | 0x01 => f.plen == 8
  | 0x02 => f.plen == 32
  | 0x03 => f.plen == 136
  | 0x04 => f.plen == 32
  | 0x05 => f.plen == 8 + 16 * fieldAt p 0 2
  | 0x0F => f.plen == 104
  | 0x10 => f.plen == 64
  | 0x11 => f.plen == 96 + 8 * fieldAt p 7 1
  | 0x12 => f.plen == ceilDiv (40 + 4 * fieldAt p 2 2) 8 * 8
  | _ => true

/-- `lo ≤ n ≤ hi`. -/
def inRange (lo hi n : Nat) : Bool := decide (lo ≤ n) && decide (n ≤ hi)

/-- The eight wavelengths of a LANE_MAP. -/
def laneMap (v : Nat) : List Nat := (List.range 8).map (fun i => bitsOf v (3 * i) 3)

/-- The structure settings after one structure frame (Tables 2.4 to 2.9). -/
def applyStruct (c : StructCfg) (f : Frame) : StructCfg :=
  let p := f.payload
  match f.typ with
  | 0x01 => { c with quadEnable := fieldAt p 0 1 }
  | 0x02 => { c with
      waysDefault := fieldAt p 0 1, pchDefault := fieldAt p 1 1, vecDefault := fieldAt p 2 2
      creditDefault := fieldAt p 4 2, domainsDefault := fieldAt p 6 2
      gr2Allowed := fieldAt p 8 1 == 1, reservedMax := fieldAt p 9 1 }
  | 0x03 => { c with
      role := fieldAt p 0 1, selfPeer := fieldAt p 2 2 % 4096, groupSize := fieldAt p 4 2
      ports := (List.range 16).map (fun i =>
        { enable := fieldAt p (8 + 8 * i) 1 == 1, laneMap := fieldAt p (9 + 8 * i) 3
          txInvert := fieldAt p (12 + 8 * i) 1, rxInvert := fieldAt p (13 + 8 * i) 1 }) }
  | 0x04 => { c with
      baseGib := fieldAt p 0 2, adapterGib := fieldAt p 2 2, stashGib := fieldAt p 4 2
      cfgStoreMib := fieldAt p 6 2, hostTierGib := fieldAt p 8 4
      peerTier := bitOf (fieldAt p 0x0C 1) 0 }
  | 0x05 => { c with
      privileged := (List.range (fieldAt p 0 2)).map (fun e =>
        { pfx := beNat (slice p (8 + 16 * e) 8), tensor := fieldAt p (0x10 + 16 * e) 4
          sideLen := fieldAt p (0x14 + 16 * e) 2 }) }
  | _ => c

/-- R59: the regions fit in a stack. -/
def tiersFit (c : StructCfg) : Bool :=
  decide (c.baseGib + c.adapterGib + c.stashGib + ceilDiv c.cfgStoreMib 1024 ≤ 72)

/-- R60: at most 16 entries share a prefix, and no pair appears twice. -/
def privilegedOk (l : List Privileged) : Bool :=
  l.all (fun e => decide ((l.filter (fun g => g.pfx == e.pfx)).length ≤ 16) &&
    decide ((l.filter (fun g => g.pfx == e.pfx && g.tensor == e.tensor)).length ≤ 1))

/-- The value checks of a structure frame. -/
def structValues (pos : Nat) (f : Frame) : List Chk :=
  let c := applyStruct {} f
  let rng : Bool := match f.typ with
    | 0x01 => c.quadEnable != 0
    | 0x02 => inRange 1 16 c.waysDefault && inRange 1 64 c.pchDefault && inRange 1 2048 c.vecDefault &&
        decide (c.creditDefault ≤ 4096) && inRange 1 4096 c.domainsDefault &&
        decide (fieldAt f.payload 8 1 ≤ 1) && decide (c.reservedMax ≤ 8)
    | 0x03 => inRange 1 4096 c.groupSize &&
        (if c.role = 0 then c.groupSize == 1 else decide (2 ≤ c.groupSize)) &&
        c.ports.all (fun q => (List.range 8).all (fun w => (laneMap q.laneMap).contains w))
    | 0x04 => inRange 1 1024 c.cfgStoreMib && tiersFit c
    | 0x05 => inRange 1 64 c.privileged.length &&
        c.privileged.all (fun e => inRange 1 4096 e.sideLen) && privilegedOk c.privileged
    | _ => true
  [⟨lengthOk f, 0x0C, pos⟩, ⟨rng, 0x0D, pos⟩]

/-! ### Pass 4: values of tile configuration frames -/

/-- A TC_TILE payload as a configuration (Table 2.11). -/
def tileCfgOf (p : List Byte) : TileCfg :=
  let r := fieldAt p 0x0E 2
  let qf := fieldAt p 0x15 1
  { id := fieldAt p 0 1, cycles := fieldAt p 2 2, mode := fieldAt p 4 1, group := fieldAt p 5 1 % 4
    stash := fieldAt p 6 1 % 8, spillEn := bitOf (fieldAt p 6 1) 3
    m := fieldAt p 8 2, n := fieldAt p 0xA 2, k := fieldAt p 0xC 2
    aSrc := bitsOf r 12 4, bSrc := bitsOf r 8 4, outDst := bitsOf r 4 4
    accLen := fieldAt p 0x10 4, outFormat := fieldAt p 0x14 1
    outlierEn := bitOf qf 0, escapeEn := bitOf qf 1, satEn := bitOf qf 2
    tensor := fieldAt p 0x18 4, satThreshold := fieldAt p 0x1C 4, satWindow := fieldAt p 0x20 4
    fused := bitOf (fieldAt p 0x24 1) 0, rank := fieldAt p 0x25 1, mask := fieldAt p 0x28 32
    uops := uopsOf p }

/-- A TC_SEQ payload as a slice sequence (Table 2.23). -/
def seqCfgOf (p : List Byte) : SeqCfg :=
  { plan := fieldAt p 0 1, rowGroup := fieldAt p 4 2, mask := fieldAt p 8 32
    steps := (List.range (fieldAt p 2 2)).map (fun i =>
      { id := fieldAt p (0x28 + 4 * i) 1, rep := fieldAt p (0x28 + 4 * i + 2) 2 }) }

/-- ACC_LEN limit of a mode (Table 2.12). -/
def accLimit (mode : Nat) : Nat :=
  if mode = 0 then 0 else if mode = 1 then 256 else if mode = 5 || mode = 6 then 1024 else 65536

/-- ceil(K / MACs per cell per CCLK), the compute phase C (R64, R130). -/
def computeLen (mode k : Nat) : Nat :=
  match mode with
  | 1 => ceilDiv k 4
  | 2 => ceilDiv k 2
  | 3 => ceilDiv k 2
  | 7 => 2 * k
  | 8 => 2 * k
  | 0 => 0
  | _ => k

/-- Is a mode one of the integer modes? -/
def intMode (m : Nat) : Bool := decide (1 ≤ m) && decide (m ≤ 4)

/-- The correction phase Cf (R130). -/
def corrLen (c : TileCfg) : Nat := if c.fused && intMode c.mode && c.outDst != 6 then 2 * c.rank else 0

/-- The drain phase D (R130). -/
def drainLen (c : TileCfg) : Nat := ceilDiv c.m 8

/-- The adder-tree group size g (Table 2.11). -/
def groupSize (c : TileCfg) : Nat := if c.group = 0 then 4 else if c.group = 1 then 8 else 16

/-- A window that a WSET has named: format, rows, first byte and row distance (R160). -/
structure Window where
  fmt : Nat
  rows : Nat
  base : Nat
  stride : Nat
  deriving DecidableEq, Repr

/-- Bytes of one window row (R160). -/
def rowBytes (fmt : Nat) : Nat := 8 * fmtBits fmt

/-- The window of a WSET (Table 5.1). -/
def wsetWindow (u : UOp) : Window :=
  let st := bitsOf u.imm 24 8
  { fmt := u.fmt, rows := bitsOf u.imm 16 8 + 1, base := bitsOf u.imm 0 16 * 32
    stride := if st = 0 then rowBytes u.fmt else st * 32 }

/-- One past the last byte of a window. -/
def Window.limit (w : Window) : Nat := w.base + (w.rows - 1) * w.stride + rowBytes w.fmt

/-- Is a format a float format? -/
def isF (f : Nat) : Bool := f == 4 || f == 5 || f == 8
/-- Is a format an integer format? -/
def isI (f : Nat) : Bool := f == 6 || f == 7

/-- How many element sources an opcode reads. -/
def uopSources (op : Nat) : Nat :=
  if op = 0x14 || op = 0x1C then 3
  else if [0x11, 0x12, 0x13, 0x15, 0x16, 0x20, 0x21, 0x22, 0x23, 0x28, 0x29, 0x2A, 0x39].contains op then 2
  else if op ≤ 0x04 || op = 0x1B || op = 0xF0 then 0
  else 1

/-- Is the opcode a row reduction? -/
def isRed (op : Nat) : Bool := inRange 0x40 0x44 op

/-- May SRC3 name a mask (Table 5.2)? -/
def isMasked (op : Nat) : Bool :=
  inRange 0x10 0x48 op && op != 0x14 && op != 0x1C

/-- The formats Table 5.2 allows an opcode. -/
def uopFmtOk (op f : Nat) : Bool :=
  if op = 0x00 || op = 0x02 then true
  else if op = 0x01 then inRange 1 9 f
  else if op = 0x03 || op = 0x04 || inRange 0x28 0x2D op then f == 7
  else if op = 0x14 || op = 0x23 || inRange 0x38 0x3F op || op = 0x48 then isF f
  else if op = 0x50 then inRange 1 3 f
  else if op = 0x51 then inRange 1 3 f || f == 9
  else if op = 0xF0 then f == 8 || f == 7
  else isF f || isI f

/-- Rows of a source against the rows of DST: equal, or exactly one. -/
def rowsOk (src dst : Window) : Bool := src.rows == dst.rows || src.rows == 1

/-- Do the windows of one micro-op obey §5.3 (R161, R169, R179 to R181)? `side` is the SIDE_LEN that a
side-list window must hold, none where the frame decodes no escapes. -/
def uopWindowsOk (wins : Map Window) (side : Option Nat) (u : UOp) : Bool :=
  let w (i : Nat) : Window := mget ⟨0, 0, 0, 0⟩ wins i
  let named (i : Nat) : Bool := wins.any (fun p => p.1 == i)
  let d := w u.dst
  let maskOk (rows : Nat) : Bool :=
    !isMasked u.opcode || u.src3 == 0 ||
      (named u.src3 && (w u.src3).fmt == 7 && ((w u.src3).rows == rows || (w u.src3).rows == 1))
  uopFmtOk u.opcode u.fmt &&
  (if u.opcode ≤ 0x02 then true
   else if u.opcode = 0x03 then named u.src1 && (w u.src1).fmt == 7
   else if u.opcode = 0x04 then named u.dst && d.fmt == 7
   else if u.opcode = 0xF0 then
     named u.dst && d.fmt == u.fmt && (bitsOf u.imm 1 2 != 3 || u.fmt == 7)
   else if u.opcode = 0x50 then
     named u.dst && named u.src1 && named u.src2 && d.fmt == u.fmt && (w u.src1).fmt == 8 &&
       (w u.src1).rows == d.rows && (w u.src2).fmt == 7 && decide (ceilDiv d.rows 32 ≤ (w u.src2).rows) &&
       (!bitOf u.imm 5 || u.fmt == 3)
   else if u.opcode = 0x51 then
     named u.dst && named u.src1 && named u.src2 && d.fmt == 8 && (w u.src1).fmt == u.fmt &&
       (w u.src1).rows == d.rows && (w u.src2).fmt == 7 &&
       decide (ceilDiv (w u.src1).rows 32 ≤ (w u.src2).rows) &&
       (!bitOf u.imm 8 || u.fmt != 1 ||
         (match side with
          | some n => named (u.imm % 32) && (w (u.imm % 32)).fmt == 4 && decide (n ≤ 64 * (w (u.imm % 32)).rows)
          | none => true))
   else if u.opcode = 0x48 then
     named u.dst && named u.src1 && d.fmt == u.fmt && (w u.src1).fmt == u.fmt &&
       (w u.src1).rows == d.rows && d.rows % (bitsOf u.imm 0 6 + 1) == 0 && maskOk d.rows
   else if isRed u.opcode then
     named u.dst && named u.src1 && (w u.src1).fmt == u.fmt &&
       d.fmt == (if u.opcode = 0x44 then 7 else u.fmt) && d.rows == (w u.src1).rows && maskOk d.rows
   else
     let n := uopSources u.opcode
     let dfmt := if inRange 0x20 0x23 u.opcode then 7 else u.fmt
     let sfmt := if u.opcode = 0x30 then bitsOf u.imm 0 4 else u.fmt
     let src (i : Nat) (f : Nat) : Bool := named i && (w i).fmt == f && rowsOk (w i) d
     named u.dst && d.fmt == dfmt && (u.opcode != 0x30 || isF sfmt || isI sfmt) &&
       (decide (n < 1) || src u.src1 sfmt) && (decide (n < 2) || src u.src2 u.fmt) &&
       (decide (n < 3) || src u.src3 (if u.opcode = 0x1C then 7 else u.fmt)) && maskOk d.rows)

/-- Duration of a micro-op over R rows (Table 5.2). -/
def uopCycles (op r : Nat) : Nat :=
  if op = 0x00 || op = 0x01 || op = 0x03 || op = 0x04 then 1
  else if op = 0x02 then 0
  else if inRange 0x38 0x3F op then (if op = 0x39 then 2 + 4 * r else 2 + 2 * r)
  else if isRed op then 8 + r
  else if op = 0x48 then 14 + 3 * r
  else if op = 0x50 then 2 + 2 * r
  else if op = 0xF0 then 66
  else 2 + r

/-- The rows R that a micro-op's duration counts (R168). -/
def uopRows (wins : Map Window) (u : UOp) : Nat := (mget ⟨0, 0, 0, 0⟩ wins u.dst).rows

/-- Check a chain in order: every window set before its use, and the cycles of the pre-part and the
post-part. -/
def chainScan (side : Option Nat) : List UOp → Map Window → Bool × Nat × Nat → Bool × Nat × Nat
  | [], _, acc => acc
  | u :: us, wins, (ok, pre, post) =>
    let wins' := if u.opcode = 0x01 then mput u.dst (wsetWindow u) wins else wins
    let ok' := ok && uopWindowsOk wins side u && u.opcode != 0xF0
    let cyc := uopCycles u.opcode (uopRows wins' u)
    if u.opcode = 0x02 then chainScan side us wins' (ok', post, 0)
    else chainScan side us wins' (ok', pre, post + cyc)

/-- Does a chain fit its slice (R165)? With SYNC the part before it is the pre-part. -/
def chainFits (c : TileCfg) (pre post : Nat) : Bool :=
  if c.mode = 0 then decide (4 + pre + post ≤ c.cycles)
  else decide (pre ≤ computeLen c.mode c.k + corrLen c) &&
    decide (4 + computeLen c.mode c.k + corrLen c + drainLen c + post ≤ c.cycles)

/-- Field ranges and the rules of R131, reason 0x0D. -/
def tileRanges (c : TileCfg) (outByte : Nat) : Bool :=
  decide (1 ≤ c.cycles) && (outByte % 16 == 3 || !bitOf outByte 5) &&
  (if c.mode = 0 then
    c.m == 0 && c.n == 0 && c.k == 0 && c.accLen == 0 && c.rank == 0 && c.aSrc == 0 && c.bSrc == 0 &&
      c.outDst == 0 && !c.fused && !c.outlierEn && !c.escapeEn && !c.satEn
   else
    inRange 1 64 c.m && inRange 1 64 c.n && decide (1 ≤ c.k) &&
      (if c.fused then inRange 1 64 c.rank else c.rank == 0) &&
      (!intMode c.mode || (c.k % 32 == 0 && c.accLen % 32 == 0)) &&
      (intMode c.mode || c.outDst != 6 || c.k % groupSize c == 0) &&
      (!c.escapeEn || decide (c.mode ≤ 3)) && (!c.outlierEn || (decide (c.mode ≤ 4) && c.bSrc != 1)) &&
      (!c.fused || intMode c.mode || c.n == c.rank))

/-- The value checks of a TC_TILE frame against the model frame and the TC_TILE frames before it. DESIGN CHOICE (log entry
46): SLICE_CYCLES over 480 is checked before the frame's other ranges, as its field stands before theirs. -/
def tcTileValues (logical : Nat) (privLen : Nat → Option Nat) (pos : Nat) (before : List TileCfg)
    (f : Frame) : List Chk :=
  let c := tileCfgOf f.payload
  let side := if c.escapeEn then some ((privLen c.tensor).getD 0) else none
  let sc := chainScan side c.uops [] (true, 0, 0)
  let syncs := (c.uops.filter (fun u => u.opcode == 0x02)).length
  [⟨lengthOk f, 0x0C, pos⟩,
   ⟨decide (c.cycles ≤ 480), 0x0E, pos⟩,
   ⟨tileRanges c (fieldAt f.payload 0x14 1), 0x0D, pos⟩,
   ⟨sc.1 && decide (syncs ≤ 1) && (c.mode != 0 || syncs == 0), 0x0D, pos⟩,
   ⟨decide (computeLen c.mode c.k ≤ c.cycles) &&
      (c.mode == 0 || decide (4 + computeLen c.mode c.k + corrLen c + drainLen c ≤ c.cycles)) &&
      chainFits c sc.2.1 sc.2.2, 0x0E, pos⟩,
   ⟨before.all (fun b => b.id != c.id || (b.mask &&& c.mask) == 0), 0x0D, pos⟩,
   ⟨decide (c.accLen ≤ accLimit c.mode), 0x0F, pos⟩,
   ⟨c.mask != 0, 0x0D, pos⟩,
   ⟨decide (c.mask < 2 ^ logical), 0x10, pos⟩]

/-- The value checks of a TC_SEQ frame (R625). -/
def tcSeqValues (logical pos : Nat) (before : List SeqCfg) (f : Frame) : List Chk :=
  let c := seqCfgOf f.payload
  [⟨lengthOk f, 0x0C, pos⟩,
   ⟨decide (c.plan ≤ 15) && decide (1 ≤ c.steps.length) && inRange 1 16384 c.rowGroup &&
      c.steps.all (fun st => decide (1 ≤ st.rep)), 0x0D, pos⟩,
   ⟨before.all (fun b => b.plan != c.plan || (b.mask &&& c.mask) == 0), 0x0D, pos⟩,
   ⟨c.mask != 0 && decide (c.mask < 2 ^ logical), 0x0D, pos⟩]

/-- The value checks of a TC_MODEL frame. -/
def tcModelValues (partTiles pos : Nat) (f : Frame) : List Chk :=
  [⟨lengthOk f, 0x0C, pos⟩,
   ⟨inRange 1 256 (fieldAt f.payload 0x38 2) && inRange 1 256 (fieldAt f.payload 0x3A 2), 0x0D, pos⟩,
   ⟨decide (fieldAt f.payload 0x3A 2 ≤ partTiles), 0x10, pos⟩]

/-- Fold over frames with the frames before each. -/
def withBefore {α : Type} (g : Nat → List Frame → Frame → List α) :
    Nat → List Frame → List Frame → List α
  | _, _, [] => []
  | pos, before, f :: fs => g pos before f ++ withBefore g (pos + 1) (before ++ [f]) fs

/-- The configurations of the TC_TILE frames. -/
def tilesOf (fs : List Frame) : List TileCfg :=
  (fs.filter (fun f => f.typ == 0x11)).map (fun f => tileCfgOf f.payload)
/-- The sequences of the TC_SEQ frames. -/
def seqsOf (fs : List Frame) : List SeqCfg :=
  (fs.filter (fun f => f.typ == 0x12)).map (fun f => seqCfgOf f.payload)

/-- Every step's configuration is defined for every tile of its sequence (R625). -/
def seqDefined (tiles : List TileCfg) (c : SeqCfg) : Bool :=
  c.steps.all (fun st =>
    let cover := (tiles.filter (fun t => t.id == st.id)).foldl (fun a t => a ||| t.mask) 0
    (c.mask &&& cover) == c.mask)

/-- What a signature check answers: whether the slot may sign the file, and whether it verifies. -/
structure Signer where
  /-- The public key of an enrolled slot that may sign this kind (R411, R412). -/
  key : Nat → Option (List Byte)
  /-- Unsigned files are taken: MANUFACTURE or RMA_DEBUG (R71). -/
  unsignedOk : Bool

/-- The signed span of a file and its digest (R70): through byte 0x07 of the signature payload. -/
def fileDigest (bs : List Byte) (sigLen : Nat) : Digest := sha384 (bs.take (bs.length - sigLen))

/-- Pass 5: the signature (R70, R71). -/
def signatureChecks (sg : Signer) (bs : List Byte) (f : Frame) (pos : Nat) : List Chk :=
  let slot := fieldAt f.payload 0 1
  let r := beNat (slice f.payload 8 48)
  let s := beNat (slice f.payload 0x38 48)
  -- 96 bytes of signature and the 8-byte trailer follow the span
  let dig := fileDigest bs 104
  if slot = 0xFF then
    [⟨sg.unsignedOk, 0x11, pos⟩, ⟨decide (r = 0) && decide (s = 0), 0x12, pos⟩]
  else match sg.key slot with
    | none => [⟨false, 0x11, pos⟩]
    | some k => [⟨ecdsaVerify k dig r s, 0x12, pos⟩]

/-- The checks of passes 2 to 5 over the frames found. -/
def laterPasses (kind partTiles : Nat) (privLen : Nat → Option Nat) (sg : Signer) (bs : List Byte)
    (fs : List Frame) : List Chk :=
  let idx := fs.zipIdx
  let logical := match fs.find? (fun f => f.typ == 0x10) with
    | some f => fieldAt f.payload 0x3A 2
    | none => 0
  -- pass 2
  [⟨fieldAt bs 0x0E 2 == 0 && allZero (slice bs 0x18 36), 0x0A, wholeFile⟩] ++
  idx.map (fun p => ⟨allZero (slice p.1.hdr 8 8) && allZero p.1.trailer && payloadReservedOk p.1,
    0x0A, p.2⟩) ++
  -- pass 3
  withBefore (fun pos before f =>
    [⟨typeAllowed kind f.typ && placementOk kind pos before f && payloadCodesOk f, 0x0B, pos⟩]) 0 [] fs ++
  [⟨countsOk kind fs, 0x0B, wholeFile⟩] ++
  -- pass 4
  withBefore (fun pos before f =>
    match f.typ with
    | 0x0F => [⟨lengthOk f, 0x0C, pos⟩]
    | 0x10 => tcModelValues partTiles pos f
    | 0x11 => tcTileValues logical privLen pos (tilesOf before) f
    | 0x12 => tcSeqValues logical pos (seqsOf before) f
    | _ => structValues pos f) 0 [] fs ++
  (if kind = 2 then
    [⟨(seqsOf fs).all (seqDefined (tilesOf fs)), 0x0D, wholeFile⟩,
     ⟨decide (((tilesOf fs).map (·.id)).dedup.length =
        (match fs.head? with
         | some f => fieldAt f.payload 0x38 2
         | none => 0)), 0x0D, wholeFile⟩]
   else []) ++
  -- pass 5
  idx.flatMap (fun p => if p.1.typ = 0x0F then signatureChecks sg bs p.1 p.2 else [])

/-- The five passes of R67: the frames of an accepted file, or the first failure as
(reason, frame). -/
def checkFile (kind level partTiles : Nat) (privLen : Nat → Option Nat) (sg : Signer)
    (bs : List Byte) : Except (Nat × Nat) (List Frame) :=
  match firstFail (headerChecks kind level bs) with
  | some e => .error e
  | none =>
    match walkFrames level (bs.length / 24 + 1) 0 (bs.drop 64) with
    | .error e => .error e
    | .ok fs =>
      match firstFail (fillChecks bs fs ++ laterPasses kind partTiles privLen sg bs fs) with
      | some e => .error e
      | none => .ok fs

/-- The structure settings of an accepted structure bitstream. -/
def structOf (bs : List Byte) (fs : List Frame) : StructCfg :=
  { fs.foldl applyStruct {} with build := fieldAt bs 0x10 8, digest := fileDigest bs 104 }

/-- The configuration set of an accepted tile configuration file. -/
def cfgFileOf (bs : List Byte) (fs : List Frame) : CfgFile :=
  let m := match fs.head? with
    | some f => f.payload
    | none => []
  { base := digestOf (slice m 0 48), set := fieldAt m 0x30 1 % 4, configCount := fieldAt m 0x38 2
    logicalTiles := fieldAt m 0x3A 2, tiles := tilesOf fs, seqs := seqsOf fs
    digest := fileDigest bs 104 }

/-- The SIDE_LEN that makes a tensor of a base privileged (§3.6.2). -/
def privLenOf (c : StructCfg) (base : Digest) (tensor : Nat) : Option Nat :=
  let pfx := base.toNat / 2 ^ 320
  (c.privileged.find? (fun e => e.pfx == pfx && e.tensor == tensor)).map (·.sideLen)

/-- The status of a loader reason (Table 2.16). -/
def reasonStatus (r : Nat) : Nat :=
  if r = 0x03 || r = 0x04 || r = 0x0B then 0x04
  else if r = 0x0A then 0x03
  else if r = 0x13 then 0x0A
  else if r = 0x14 then 0x06
  else 0x02

end Sys2Proof.Machine
end

