-- ==== Sys2Proof/Machine/Ecc.lean ====
section
/-! DEFINITION. The (72,64) code of every word (R205 to R207). -/

namespace Sys2Proof.Machine

/-- The column codes h(0) to h(63): the integers from 3 to 71 that are not powers of two (R205). -/
def eccCols : List Nat := (List.range 72).filter (fun n => n ≥ 3 && n != 2 ^ n.log2)

/-- The parity of a number's bits below `w`. -/
def parity (w v : Nat) : Bool := (List.range w).foldl (fun a i => a != v.testBit i) false

/-- The xor of the column codes of the set data bits: c[6:0]. -/
def eccLow (d : Nat) : Nat :=
  (eccCols.zipIdx).foldl (fun a p => if d.testBit p.2 then a ^^^ p.1 else a) 0

/-- The eight check bits of a 64-bit word (R205). -/
def eccCheck (d : Nat) : Nat :=
  let c := eccLow d
  c + 128 * b2n (parity 64 d != parity 7 c)

/-- What a reader finds (Table 6.5). -/
inductive EccResult where
  | clean (d : Nat)
  | corrected (d : Nat)
  | uncorrectable (d : Nat)
  deriving DecidableEq, Repr

/-- Classify a stored word: its data and its check byte (R206). -/
def eccDecode (d c : Nat) : EccResult :=
  let s := eccLow d ^^^ (c % 128)
  let p := parity 64 d != parity 8 c
  if s = 0 then (if p then .corrected d else .clean d)
  else if !p then .uncorrectable d
  else if s = 2 ^ s.log2 then .corrected d
  else match eccCols.idxOf? s with
    | some i => .corrected (d ^^^ 2 ^ i)
    | none => .uncorrectable d

/-- The check byte of a poison marker: the code of its data xor 0x03 (R207). -/
def eccPoison (d : Nat) : Nat := eccCheck d ^^^ 0x03

/-- A stored word read back with some of its 72 bits upset: bits [63:0] of the mask fall on the data
and bits [71:64] on the check byte. A marked word is stored as a poison marker. -/
def eccRead (d : Nat) (marked : Bool) (mask : Nat) : EccResult :=
  let c := if marked then eccPoison d else eccCheck d
  eccDecode (d ^^^ (mask % 2 ^ 64)) (c ^^^ (mask / 2 ^ 64 % 256))

end Sys2Proof.Machine
end

