-- ==== Sys2Proof/Config.lean ====
section
/-! DEFINITION. What an implementation fixes, and the free values: constants of the part (Table 1.1)
and one opaque source for every value the manual leaves open or has the device draw at random. -/

namespace Sys2Proof

/-- FREE VALUE. The n-th value of `w` bits that the device draws or that the manual leaves open
(keys drawn by the DRBG of R408, signature values, nonces, transcript hashes). It has no body, so
no proof can see what it is; the step reads `State.fresh` as `n` and advances it. -/
opaque Config.free : (w : Nat) → Nat → BitVec w

/-- FREE VALUE. The Tostiulo vendor key of signer slot 0, X then Y, whose SHA-384 digest the fuses hold (R406,
R411). -/
opaque Config.vendorKey : List Byte

/-- FREE VALUE. The part of the slot 0 chain that outlives a start, in the SPDM format: the root's hash, then
the root, product CA and DevID certificates (R416). The manual gives the certificates no bytes. -/
opaque Config.devidChain : List Byte

/-- FREE VALUE. The certificate that TRITON issues at a start for an attestation key, by the key's private number
(R416). -/
opaque Config.akCertificate : Nat → List Byte

/-- FREE VALUE. The tile of a quadrant that lies next to tile `t` on route `r` of Table 2.13 (0x2 north,
0x3 east, 0x4 south, 0x5 west); 32 or more for none. The manual gives the 4 × 8 mesh no numbering. -/
opaque Config.meshNeighbour : (t r : Nat) → Nat

/-- Quadrants of the device (Table 1.1). -/
def Config.quadrants : Nat := 8
/-- Tiles of one quadrant (Table 1.1). -/
def Config.tilesPerQuadrant : Nat := 32
/-- Pseudo-channels of one stack (R218). -/
def Config.pchPerStack : Nat := 64
/-- 2 MiB pages of one pseudo-channel (R218). -/
def Config.pagesPerPch : Nat := 576
/-- Bytes of a 2 MiB page. -/
def Config.pageBytes : Nat := 2097152
/-- JANUS ports (Table 1.1). -/
def Config.ports : Nat := 16
/-- Work queues of one function (Table 1.5). -/
def Config.queues : Nat := 64
/-- Entries of a completion collector (R524). -/
def Config.collectorEntries : Nat := 512
/-- Records of SHEEPDOG's reorder buffer (R512). -/
def Config.reorderEntries : Nat := 512
/-- MSI-X vectors of the PF (R532). -/
def Config.pfVectors : Nat := 2048
/-- MSI-X vectors of the VF pool (R532). -/
def Config.vfVectorPool : Nat := 65536
/-- Credits of the JANUS pool (R454). -/
def Config.janusPool : Nat := 4096
/-- Configuration slots of a tile (R73). -/
def Config.cfgSlots : Nat := 8

end Sys2Proof
end

