-- ==== Sys2Proof/Syntax.lean ====
section
/-! DEFINITION. The commands of the block: one constructor of `Instr` per row of the opcode table,
with the operands each row's event carries. -/

namespace Sys2Proof

/-- A PCIe function: the PF or VF `v` (R476). -/
inductive Fn where
  | pf
  | vf (v : Nat)
  deriving DecidableEq, Repr

/-- A fetched command, named by its function and JOB_ID (R484). -/
structure JobRef where
  fn : Fn
  job : Nat
  deriving DecidableEq, Repr

/-- Tile `t` of quadrant `q`. -/
structure TileId where
  q : Nat
  t : Nat
  deriving DecidableEq, Repr

/-- One post offered to a completion collector (R524). -/
structure Post where
  stamp : Nat
  source : Nat
  job : JobRef
  status : Nat
  vflags : Nat
  stall : Nat
  deriving DecidableEq, Repr

/-- Where a plane of elements lies in the context's share space: the byte of its element plane and of
its scale plane, the elements of one line, and the line and position at which the slice starts. -/
structure PlaneRef where
  off : Nat := 0
  scaleOff : Nat := 0
  pitch : Nat := 0
  line0 : Nat := 0
  at0 : Nat := 0
  deriving DecidableEq, Repr

/-- A piece of a row's input or output block: `len` bytes from `off` of the block of row `row` of the row
group, at byte `at_` of the context's share space. -/
structure RowMove where
  row : Nat
  off : Nat
  at_ : Nat
  len : Nat
  deriving DecidableEq, Repr

/-- Where the gate input of an extra-expert position lies for a row of the row group (R292, log entry 75): the element of
format `fmt` at byte `at_` of the share space, for expert `expert` of layer `layer`. -/
structure GateRef where
  row : Nat
  at_ : Nat
  fmt : Nat
  layer : Nat
  expert : Nat
  deriving DecidableEq, Repr

/-- Where a slice's operands and results lie (log entry 20): TC_TILE names no addresses, so the event
that starts a slice carries them. -/
structure SliceLayout where
  /-- Job row, within the row group, of the slice's first row. -/
  rowBase : Nat := 0
  /-- Contraction index, within the tensor, of the slice's first product. -/
  k0 : Nat := 0
  /-- Output column, within the tensor, of the slice's first column. -/
  n0 : Nat := 0
  a : PlaneRef := {}
  b : PlaneRef := {}
  out : PlaneRef := {}
  /-- Outlier planes: A (H16, one per row and outlier channel), B (H16, one per channel and column). -/
  aOutlier : Nat := 0
  bOutlier : Nat := 0
  /-- Side list of a privileged tensor. -/
  side : Nat := 0
  /-- Columns of the output that are outlier channels of the activation, and their H16 plane. -/
  outCols : List Nat := []
  outOutlier : Nat := 0
  /-- Low-rank vectors t of the rows (B16). -/
  lowRank : Nat := 0
  /-- Byte of the destination of a network or Quadrant Buffer route. -/
  dest : Nat := 0
  /-- Bit w: the rows of window w serve the slice's rows. -/
  serve : Nat := 0
  /-- Row inputs laid into the share before the slice reads, and row outputs that it completes. -/
  inRows : List RowMove := []
  outRows : List RowMove := []
  /-- Gate inputs of extra-expert positions among what the slice reads. -/
  gates : List GateRef := []
  deriving DecidableEq, Repr

/-- Where a base tensor's weights lie for the seeding kernel (log entry 20): the logical quadrant, the element format of
its main plane, the plane from the set's base offset, whether a line of it is an input channel, and the outlier plane and
the side list, as bytes from the base offset. -/
structure BaseLayout where
  lq : Nat := 0
  fmt : Nat := 1
  plane : PlaneRef := {}
  transposed : Bool := false
  outlier : Nat := 0
  side : Nat := 0
  deriving DecidableEq, Repr

/-- An upset found when a word is read: line, word of the line and the 72-bit error mask (R205, R206).
The manual gives an upset no cause inside the device, so the reading event carries it. -/
structure Upset where
  line : Nat
  word : Nat
  mask : Nat
  deriving DecidableEq, Repr

/-- A commit message (Table 9.8): its fields after TYPE. -/
structure CommitMsg where
  sender : Nat
  step : Nat
  members : Nat
  cause : Nat := 0
  check : Nat := 0
  deriving DecidableEq, Repr

/-- A BIND_OFFER (Table 12.5). -/
structure Offer where
  kind : Nat
  binding : Nat
  part : Nat
  remotePart : Nat
  domain : Nat
  remoteDomain : Nat
  keyDigest : Nat
  linkSeed : Nat
  deriving DecidableEq, Repr

/-- HELLO (Table 12.4). -/
structure HelloMsg where
  level : Nat
  role : Nat
  peer : Nat
  groupSize : Nat
  uid : Nat
  nonce : Nat
  key : List Byte
  /-- A reserved field is set. -/
  reserved : Bool := false
  deriving DecidableEq, Repr

/-- What PROOF carries and what its signature checks find (R449). -/
structure ProofMsg where
  chainOk : Bool
  sigOk : Bool
  level : Nat
  lifecycle : Nat
  debug : Nat
  tritonSvn : Nat
  seqSvn : Nat
  bytes : List Byte := []
  /-- A reserved field is set, in the message or in its header and FIRMWARE section. -/
  reserved : Bool := false
  deriving DecidableEq, Repr

/-- A message of a binding or a session (Table 12.8), as its bytes read. `bad` is a message whose
LEVEL, reserved fields or code points fail R5. -/
inductive JMsg where
  | commit (typ : Nat) (m : CommitMsg)
  | gatherReq (tag len prefix_ patch lq off : Nat)
  | gatherHold (tag : Nat)
  | gatherRefuse (tag reason : Nat)
  | release (cls slots : Nat)
  | close
  | keepalive
  | offer (o : Offer)
  | gatherData (tag target : Nat) (data : List Byte) (poison : List Nat)
  | exchPart (line : Nat) (elems : List Nat) (bad : Bool)
  | exchSum (line : Nat) (elems : List Nat) (bad : Bool)
  /-- Handshake messages (Table 12.4). -/
  | hello (m : HelloMsg)
  | proof (m : ProofMsg)
  | finish
  | bad
  deriving DecidableEq, Repr

/-- A ROUTED or HANDSHAKE frame's header (Table 12.2). -/
structure FrameHdr where
  typ : Nat := 2
  hop : Nat := 0
  cls : Nat := 0
  demand : Bool := false
  keyGen : Nat := 0
  local_ : Bool := false
  units : Nat := 0
  level : Nat := 1
  dst : Nat := 0
  src : Nat := 0
  vc : Nat := 0
  creturn : Nat := 0
  seq : Nat := 0
  deriving DecidableEq, Repr

/-- A frame as it arrives on a port: its header, its HSEQ, the messages it carries, and what the
receiver's checks of R440, R442 and R444 find of its bits. -/
structure RxFrame where
  hdr : FrameHdr := {}
  hseq : Nat := 0
  msgs : List JMsg := []
  damaged : Bool := false
  /-- RS symbols corrected, and codewords reported uncorrectable, in the codewords that end with the frame. -/
  fecSyms : Nat := 0
  fecUncorr : Nat := 0
  crcOk : Bool := true
  tagOk : Bool := true
  formatOk : Bool := true
  deriving DecidableEq, Repr

/-- The LINK unit (Table 12.11). -/
structure LinkUnit where
  ack : Nat := 0
  nak : Bool := false
  credits : List Nat := [0, 0, 0, 0]
  dist : Nat := 0xFF
  synced : Bool := false
  tTx : Nat := 0
  tEcho : Nat := 0
  tHold : Nat := 0
  deriving DecidableEq, Repr

/-- A handshake's place: the adjacent device of a port, or a peer session (R448). -/
inductive HsAt where
  | port (p : Nat)
  | peer (n : Nat)
  deriving DecidableEq, Repr

/-- The path by which an SPDM message reaches TRITON (R418): a function's DOE, or the TRI mailbox. -/
inductive Carrier where
  | doe (fn : Fn)
  | mailbox
  deriving DecidableEq, Repr

/-- A vendor-defined request: carrier, session, and the LEVEL and reserved fields it carries. -/
structure VReq where
  carrier : Carrier
  session : Nat
  level : Nat
  reservedOk : Bool := true
  deriving DecidableEq, Repr

/-- What the checks of another device's chain and signature find (R498). -/
structure PeerCheck where
  chainOk : Bool
  sigOk : Bool
  deriving DecidableEq, Repr

/-- How a start stage ends (R601, R607): what the hardware of the stage finds. -/
structure StageOutcome where
  /-- DETAIL of Table 17.4, 0 for none, and LOCATION. -/
  detail : Nat := 0
  location : Nat := 0xFFFF
  /-- Microseconds spent in the stage. -/
  us : Nat := 0
  /-- Member of the group that ends, while WIPE, SELFTEST and OPTICS run. -/
  stage : Nat := 0
  /-- A fuse shadow fails its parity (warm start); a sealed table fails its tag. -/
  parityFail : Bool := false
  sealedFail : Bool := false
  /-- Laser banks whose calibration fails. -/
  banks : Nat := 0
  /-- 24 hours of ACLK time have passed since the reference calibration. -/
  aged : Bool := false
  /-- What FIRMWARE measures: ROM, TRITON and sequencer digests and SVNs. -/
  rom : Digest := 0
  tritonFw : Digest := 0
  seqFw : Digest := 0
  tritonSvn : Nat := 0
  seqSvn : Nat := 0
  deriving DecidableEq, Repr

/-- A sub-word, 32-bit or 64-bit register access. -/
inductive Space where
  | bar0
  | bar2
  | msixCtl
  deriving DecidableEq, Repr

/-- A request to a scratchpad bank or a Quadrant Buffer way: an access of one line (R204, R214). -/
structure LineReq where
  line : Nat
  write : Bool := true
  mask : Nat := 0
  data : BitVec 512 := 0
  /-- KIND code of Table 6.1. -/
  kind : Nat := 0
  tag : Nat := 0
  poison : Nat := 0
  /-- Operation of Table 6.4: 0 ADD.I32, 1 ADD.F32, 2 ADD.H16, 3 SWAP.64. -/
  atomic : Option Nat := none
  /-- Context and share-space byte to which a read returns its line. -/
  ret : Option (Nat × Nat) := none
  deriving DecidableEq, Repr

/-- A request to a stack controller (R219 to R226): of a partition, at a 64-bit partition memory address (Table 6.8). -/
structure StackReq where
  part : Nat
  job : Option JobRef
  pma : Nat
  write : Bool
  data : BitVec 512
  /-- Words of `data` that are uncorrectable as the controller consumes them (R228). -/
  marks : Nat := 0
  /-- An atomic of Table 6.4, under a byte mask. -/
  atomic : Option Nat := none
  mask : Nat := 0
  /-- The unit's identity: a tile 32q + t, or 256 load engine, 257 UPU, 258 MULE, 259 switch, 260 stash. -/
  unit : Nat
  /-- KIND code and tag of a written line (Table 6.1), and the row that writes it. -/
  kind : Nat
  tag : Nat
  row : Option Nat
  upsets : List Upset
  deriving DecidableEq, Repr

/-- Region, logical quadrant and offset of a request's address (Table 6.8). -/
def StackReq.region (r : StackReq) : Nat := r.pma / 2 ^ 52 % 16
def StackReq.lq (r : StackReq) : Nat := r.pma / 2 ^ 45 % 8
def StackReq.off (r : StackReq) : Nat := r.pma % 2 ^ 45

/-- The commands (opcode table). -/
inductive Instr where
  /-- SQ_DOORBELL (R484). -/
  | sqDoorbell (fn : Fn) (q value : Nat)
  /-- CQ_DOORBELL (R484). -/
  | cqDoorbell (fn : Fn) (q value : Nat)
  /-- DESCRIPTOR_FETCH (R484). -/
  | descriptorFetch (fn : Fn) (q : Nat)
  /-- QUEUE_ENABLE (R485). -/
  | queueEnable (fn : Fn) (q cfg : Nat)
  /-- QUEUE_DISABLE (R485). -/
  | queueDisable (fn : Fn) (q cfg : Nat)
  /-- JOB_DISPATCH (R146). -/
  | jobDispatch (j : JobRef)
  /-- RUN (R296). -/
  | run (j : JobRef)
  /-- TRAIN_STEP (R326). -/
  | trainStep (j : JobRef)
  /-- COMMIT_STEP_COMMIT (R355). -/
  | commitStepCommit (j : JobRef)
  /-- COMMIT_STEP_START (R329). -/
  | commitStepStart (j : JobRef)
  /-- COMMIT_STEP_DISCARD (R359). -/
  | commitStepDiscard (j : JobRef)
  /-- RESOLVE_COMMIT (R357). -/
  | resolveCommit (j : JobRef)
  /-- RESOLVE_ROLLBACK (R357). -/
  | resolveRollback (j : JobRef)
  /-- LOAD_BASE (R491). -/
  | loadBase (j : JobRef)
  /-- PATCH_LAYER (R267). -/
  | patchLayer (j : JobRef)
  /-- PATCH_PLACEMENT (R267). -/
  | patchPlacement (p : Nat)
  /-- PATCH_DRAIN_DONE (R267). -/
  | patchDrainDone (p : Nat)
  /-- PATCH_COPY_DONE (R267). -/
  | patchCopyDone (p : Nat) (badWords : List (Nat × Nat))
  /-- RETIRE_BASE (R77). -/
  | retireBase (j : JobRef)
  /-- ADAPTER_REGISTER (R290). -/
  | adapterRegister (j : JobRef)
  /-- ADAPTER_IMPORT_DONE (R293). -/
  | adapterImportDone (j : JobRef)
  /-- SEEDING_KERNEL_DONE (R185). -/
  | seedingKernelDone (j : JobRef) (lay : BaseLayout)
  /-- ADAPTER_BIND (R303). -/
  | adapterBind (j : JobRef)
  /-- ADAPTER_BIND_RELEASE (R303). -/
  | adapterBindRelease (j : JobRef)
  /-- ADAPTER_EVICT_OFFLOAD (R305). -/
  | adapterEvictOffload (j : JobRef)
  /-- ADAPTER_EVICT_REMOVE (R305). -/
  | adapterEvictRemove (j : JobRef)
  /-- EVICTION_DRAINED (R305). -/
  | evictionDrained (h : Nat)
  /-- OFFLOAD_COPY_DONE (R305). -/
  | offloadCopyDone (h : Nat)
  /-- ADAPTER_RELOAD_DONE (R304). -/
  | adapterReloadDone (h : Nat) (answers : List (Nat × List Byte))
  /-- HANDLE_RETIRED (R309). -/
  | handleRetired (h : Nat)
  /-- ABORT (R495). -/
  | abort (j : JobRef)
  /-- FENCE (R494). -/
  | fence (j : JobRef)
  /-- SCRUB_CONTEXT (R389). -/
  | scrubContext (j : JobRef)
  /-- SCRUB_ALLOC (R493). -/
  | scrubAlloc (j : JobRef)
  /-- SCRUB_FREE (R493). -/
  | scrubFree (j : JobRef)
  /-- QUERY_SEED (R493). -/
  | querySeed (j : JobRef)
  /-- QUERY_HANDLE (R493). -/
  | queryHandle (j : JobRef)
  /-- QUERY_PARTITION (R493). -/
  | queryPartition (j : JobRef)
  /-- EXPORT_START (R498). -/
  | exportStart (j : JobRef) (peer : PeerCheck)
  /-- EXPORT_ROUND (R501). -/
  | exportRound (j : JobRef)
  /-- EXPORT_FINAL (R501). -/
  | exportFinal (j : JobRef)
  /-- EXPORT_CANCEL (R501). -/
  | exportCancel (j : JobRef)
  /-- EXPORT_RELEASE (R501). -/
  | exportRelease (j : JobRef)
  /-- IMPORT_PREPARE (R497). -/
  | importPrepare (j : JobRef)
  /-- IMPORT_LOAD (R499). -/
  | importLoad (j : JobRef) (peer : PeerCheck)
  /-- IMPORT_FINISH (R501). -/
  | importFinish (j : JobRef)
  /-- IMPORT_CANCEL (R501). -/
  | importCancel (j : JobRef)
  /-- STORE_STRUCTURE (R614). -/
  | storeStructure (j : JobRef) (verifyOk : Bool)
  /-- STORE_SETTINGS (R614). -/
  | storeSettings (j : JobRef) (verifyOk : Bool)
  /-- COMMAND_COMPLETE (R486). -/
  | commandComplete (j : JobRef)
  /-- SLICE_START (R36). -/
  | sliceStart (tl : TileId) (lay : SliceLayout) (idle fillWait : Nat) (upsets : List Upset)
  /-- SLICE_BOUNDARY (R38). -/
  | sliceBoundary (tl : TileId)
  /-- SLOT_SWITCH_DONE (R76). -/
  | slotSwitchDone (tl : TileId)
  /-- SLOT_FILL_START (R75). -/
  | slotFillStart (tl : TileId) (set id : Nat)
  /-- SLOT_FILL_DONE (R74). -/
  | slotFillDone (tl : TileId)
  /-- STAGED_OUTPUT_SENT (R132). -/
  | stagedOutputSent (tl : TileId) (ctx : Nat)
  /-- SEGMENT_GATHER_DONE (R155). -/
  | segmentGatherDone (tl : TileId) (ctx : Nat) (word tensor col len : Nat) (upsets : List Upset)
  /-- BANK_ATOMIC (R204). -/
  | bankAtomic (tl : TileId) (port : Nat) (req : LineReq) (upsets : List Upset)
  /-- COLLIDE_RETRY (R200): the port, and whether the VXU writes the word again in the cycle of the retry. -/
  | collideRetry (tl : TileId) (port : Nat) (lose : Bool)
  /-- QB_WAY_REQUEST (R214). -/
  | qbWayRequest (q way part : Nat) (fromTile : Nat) (req : LineReq) (upsets : List Upset)
  /-- STACK_REQUEST (R219). -/
  | stackRequest (stack : Nat) (req : StackReq)
  /-- RING_FILL_START (R249). -/
  | ringFillStart (tl : TileId) (ctx : Nat)
  /-- RING_FILL_DONE (R253). -/
  | ringFillDone (tl : TileId) (ctx : Nat) (upsets : List Upset) (answers : List (Nat × List Byte))
  /-- GATHER_REQ (R262). -/
  | gatherReq (binding : Nat) (tag len pre patch lq off : Nat)
  /-- GATHER_HOLD (R263). -/
  | gatherHold (binding tag : Nat)
  /-- GATHER_RETRY_TIMER (R263). -/
  | gatherRetryTimer (tag : Nat)
  /-- GATHER_REFUSE (R457). -/
  | gatherRefuse (binding tag reason : Nat)
  /-- GATHER_DATA (R457). -/
  | gatherData (binding tag : Nat) (data : List Byte) (poison : List Nat)
  /-- GATHER_TIMEOUT (R264). -/
  | gatherTimeout (tag : Nat)
  /-- GAB_ZERO_DONE (R332). -/
  | gabZeroDone (p slot : Nat)
  /-- STASH_CAPTURE_DONE (R335). -/
  | stashCaptureDone (tl : TileId) (ctx layer : Nat) (rows : List (Option Nat))
  /-- STASH_RESTORE_DONE (R335). -/
  | stashRestoreDone (tl : TileId) (ctx layer : Nat)
  /-- EXCH_PART (R353). -/
  | exchPart (binding line : Nat) (elems : List Nat) (bad : Bool)
  /-- EXCHANGE_SUM_DONE (R353). -/
  | exchangeSumDone (p slot line : Nat)
  /-- EXCH_SUM (R353). -/
  | exchSum (binding line : Nat) (elems : List Nat) (bad : Bool)
  /-- UPU_UPDATE_START (R344). -/
  | upuUpdateStart (p slot : Nat)
  /-- UPU_UPDATE_DONE (R349). -/
  | upuUpdateDone (p slot : Nat) (uncorrectable : Bool)
  /-- READY (R355). -/
  | ready (p slot : Nat) (m : CommitMsg)
  /-- COMMIT (R355). -/
  | commit (p slot : Nat) (m : CommitMsg)
  /-- ACK (R355). -/
  | ack (p slot : Nat) (m : CommitMsg)
  /-- ACK_TIMEOUT (R355). -/
  | ackTimeout (p slot : Nat)
  /-- ROLLBACK_VOTE (R356). -/
  | rollbackVote (p slot : Nat) (m : CommitMsg)
  /-- ROLLBACK (R356). -/
  | rollback (p slot : Nat) (m : CommitMsg)
  /-- QUERY (R357). -/
  | query (p slot : Nat) (m : CommitMsg)
  /-- UNKNOWN (R357). -/
  | unknown (p slot : Nat) (m : CommitMsg)
  /-- COMMIT_QUERY_TIMER (R357). -/
  | commitQueryTimer (p slot : Nat)
  /-- COMMIT_TIMEOUT (R356). -/
  | commitTimeout (p slot : Nat)
  /-- EXCHANGE_PART_TIMEOUT (R356). -/
  | exchangePartTimeout (p slot : Nat)
  /-- IN_DOUBT_TIMEOUT (R357). -/
  | inDoubtTimeout (p slot : Nat)
  /-- SWAP_BLOCK_TIMER (R377). -/
  | swapBlockTimer (p : Nat)
  /-- SWITCH_START (R379). -/
  | switchStart (p : Nat)
  /-- CONTEXT_SAVE_DONE (R383). -/
  | contextSaveDone (p : Nat)
  /-- CONTEXT_RESTORE_DONE (R385). -/
  | contextRestoreDone (p : Nat)
  /-- PRIORITY_WRITE (R374). -/
  | priorityWrite (v i value : Nat)
  /-- SCRUB_DONE (R388). -/
  | scrubDone (tl : TileId) (ways : Bool)
  /-- PAR_CMD_CREATE (R391). -/
  | parCmdCreate (p : Nat)
  /-- PAR_CMD_DISABLE (R393). -/
  | parCmdDisable (p : Nat)
  /-- PAR_CMD_ENABLE (R393). -/
  | parCmdEnable (p : Nat)
  /-- PAR_CMD_DESTROY (R394). -/
  | parCmdDestroy (p : Nat)
  /-- PARTITION_DISABLED (R393). -/
  | partitionDisabled (p : Nat)
  /-- VF_FLR (R393). -/
  | vfFlr (v : Nat)
  /-- VF_FLR_DONE (R393). -/
  | vfFlrDone (v : Nat)
  /-- PF_FLR (R477). -/
  | pfFlr
  /-- VF_ENABLE_CLEAR (R393). -/
  | vfEnableClear
  /-- VF_ENABLE_SET (R393). -/
  | vfEnableSet (numVfs : Nat)
  /-- KEY_SLOT_ERASED (R229). -/
  | keySlotErased (d : Nat)
  /-- PAGE_ZERO_FILL_DONE (R229). -/
  | pageZeroFillDone (stack pch page : Nat)
  /-- PATROL_SCRUB_LINE (R230). -/
  | patrolScrubLine (stack pch line : Nat) (upsets : List Upset)
  /-- BANK_ZERO_FILL_DONE (R211). -/
  | bankZeroFillDone (tl : TileId) (bank : Nat)
  /-- SAT_WINDOW_START (R114). -/
  | satWindowStart (q e : Nat)
  /-- SAT_ENTRY_FREE (R116). -/
  | satEntryFree (q e value : Nat)
  /-- VXU_TEST_ENTER (R186). -/
  | vxuTestEnter (tl : TileId)
  /-- VXU_TEST_EXIT (R186). -/
  | vxuTestExit (tl : TileId)
  /-- VXU_TEST_GO (R190). -/
  | vxuTestGo (tl : TileId)
  /-- VXU_TEST_DONE (R190). -/
  | vxuTestDone (tl : TileId)
  /-- COLLECTOR_ACCEPT (R525). -/
  | collectorAccept (q : Nat) (posts : List Post)
  /-- COLLECTOR_DRAIN (R524). -/
  | collectorDrain (q : Nat)
  /-- EVENT_RING_WRITE (R512). -/
  | eventRingWrite
  /-- DELIVERY_DECISION (R519). -/
  | deliveryDecision
  /-- SDG_EOI (R531). -/
  | sdgEoi (value : Nat)
  /-- SDG_VF_EVR_EOI (R536). -/
  | sdgVfEvrEoi (fn : Fn)
  /-- SDG_VF_EVR_HEAD (R514). -/
  | sdgVfEvrHead (fn : Fn) (value : Nat)
  /-- EVENT_RING_ENABLE (R515). -/
  | eventRingEnable (fn : Fn) (cfg : Nat)
  /-- EVENT_RING_DISABLE (R515). -/
  | eventRingDisable (fn : Fn) (cfg : Nat)
  /-- GDIS_WRITE (R522). -/
  | gdisWrite (value : Nat)
  /-- SRC_CFG_WRITE (R534). -/
  | srcCfgWrite (n value : Nat)
  /-- ORBIT_SYNC_EDGE (R509). -/
  | orbitSyncEdge
  /-- LATCHED_READ (R21): a read, with its size in bytes. -/
  | latchedRead (fn : Fn) (sp : Space) (off size : Nat)
  /-- ADIR_ENTRY_READ (R320). -/
  | adirEntryRead
  /-- TRAIN_SLOT_READ (R362). -/
  | trainSlotRead
  /-- PAR_INFO_READ (R399). -/
  | parInfoRead
  /-- JAN_BIND_INFO_READ (R472). -/
  | janBindInfoRead
  /-- COUNTERS_CLEAR (R158). -/
  | countersClear (off : Nat)
  /-- ECC_COUNTERS_CLEAR (R246). -/
  | eccCountersClear (off : Nat)
  /-- CC_COUNTERS_CLEAR (R538). -/
  | ccCountersClear (q : Nat)
  /-- SDG_CLEAR (R530). -/
  | sdgClear
  /-- REGISTER_WRITE (R20). -/
  | registerWrite (fn : Fn) (sp : Space) (off value size : Nat)
  /-- ARCH_LEVEL_SELECT (R45). -/
  | archLevelSelect (value : Nat)
  /-- CLOCK_SWITCH (R573). -/
  | clockSwitch (n value : Nat)
  /-- CLOCK_STOP_POINT (R573). -/
  | clockStopPoint (n : Nat)
  /-- CLOCK_SWITCH_DONE (R573). -/
  | clockSwitchDone (n : Nat)
  /-- PSTATE_REQUEST (R577). -/
  | pstateRequest (value : Nat)
  /-- VDD_RAMP_UP_DONE (R578). -/
  | vddRampUpDone
  /-- CCLK_STOP_POINT (R580). -/
  | cclkStopPoint
  /-- CCLK_RESTART (R578). -/
  | cclkRestart
  /-- VDD_RAMP_DOWN_DONE (R579). -/
  | vddRampDownDone
  /-- REF_MONITOR_TICK (R569). -/
  | refMonitorTick (refOk : Bool)
  /-- ACLK_RETURN (R569). -/
  | aclkReturn
  /-- PLL_LOCK_LOSS (R571). -/
  | pllLockLoss
  /-- QGATE_WRITE (R596). -/
  | qgateWrite (value : Nat)
  /-- QGATE_ENTRY_START (R582). -/
  | qgateEntryStart (q : Nat)
  /-- QGATE_ENTRY_DONE (R582). -/
  | qgateEntryDone (q : Nat)
  /-- QGATE_EXIT_DONE (R582). -/
  | qgateExitDone (q : Nat)
  /-- PM_REQUEST_D0 (R594). -/
  | pmRequestD0
  /-- PM_REQUEST_L2 (R583). -/
  | pmRequestL2
  /-- PM_REQUEST_L3 (R585). -/
  | pmRequestL3
  /-- L2_ENTRY_DONE (R583). -/
  | l2EntryDone
  /-- L2_EXIT_DONE (R584). -/
  | l2ExitDone
  /-- L3_ARM_TIMEOUT (R585). -/
  | l3ArmTimeout
  /-- PERST_ASSERT (R598). -/
  | perstAssert
  /-- PERST_DEASSERT (R602). -/
  | perstDeassert
  /-- L3_WAKE (R526). -/
  | l3Wake (source : Nat)
  /-- ROO_TIMER_EXPIRY (R527). -/
  | rooTimerExpiry
  /-- INPUT_SAMPLE (R549). -/
  | inputSample (volts amps : Nat)
  /-- INPUT_UVLO_RISE (R549). -/
  | inputUvloRise
  /-- STANDBY_READY (R545). -/
  | standbyReady (idPins oscPins : Nat)
  /-- STANDBY_SHUTDOWN (R555). -/
  | standbyShutdown
  /-- PWR_EN_HIGH (R552). -/
  | pwrEnHigh
  /-- PWR_EN_LOW (R553). -/
  | pwrEnLow (ms : Nat)
  /-- PWRGD_RELEASE (R552). -/
  | pwrgdRelease
  /-- POWER_CAP_TICK (R551). -/
  | powerCapTick (volts amps p1s p10ms : Nat)
  /-- THERMAL_SAMPLE (R557). -/
  | thermalSample (readings : List (Nat × Nat))
  /-- THERMAL_CAP_STEP (R558). -/
  | thermalCapStep
  /-- CLK_FAULT_CLEAR (R566). -/
  | clkFaultClear (value : Nat)
  /-- SMB_STATUS (R546). -/
  | smbStatus
  /-- SMB_VIN (R546). -/
  | smbVin
  /-- SMB_IIN (R546). -/
  | smbIin
  /-- SMB_PIN (R546). -/
  | smbPin
  /-- SMB_THERMAL (R546). -/
  | smbThermal
  /-- SMB_COOLANT (R546). -/
  | smbCoolant
  /-- SMB_FAULT (R546). -/
  | smbFault
  /-- SMB_IDENT (R546). -/
  | smbIdent
  /-- SMB_ALERT_RESPONSE (R547). -/
  | smbAlertResponse (again : Bool)
  /-- GLB_RESET_COLD (R618). -/
  | glbResetCold (value : Nat)
  /-- GLB_RESET_WARM (R618). -/
  | glbResetWarm (value : Nat)
  /-- START_STAGE_END (R601). -/
  | startStageEnd (o : StageOutcome)
  /-- TRI_MBX_GO (R433). -/
  | triMbxGo (value : Nat)
  /-- TRI_MBX_ABORT (R433). -/
  | triMbxAbort (value : Nat)
  /-- GET_VERSION (R415). -/
  | getVersion (c : Carrier)
  /-- GET_CAPABILITIES (R415). -/
  | getCapabilities (c : Carrier)
  /-- NEGOTIATE_ALGORITHMS (R415). -/
  | negotiateAlgorithms (c : Carrier) (supported : Bool)
  /-- GET_DIGESTS (R415). -/
  | getDigests (c : Carrier)
  /-- GET_CERTIFICATE (R416). -/
  | getCertificate (c : Carrier) (slot off len : Nat)
  /-- CHALLENGE (R415). -/
  | challenge (c : Carrier) (slot : Nat)
  /-- GET_MEASUREMENTS (R416). -/
  | getMeasurements (c : Carrier) (slot index nonce : Nat)
  /-- KEY_EXCHANGE (R415). -/
  | keyExchange (c : Carrier) (slot : Nat) (needsMutual : Bool)
  /-- SPDM_FINISH (R415). -/
  | spdmFinish (c : Carrier) (session : Nat) (macOk : Bool)
  /-- HEARTBEAT (R415). -/
  | heartbeat (c : Carrier) (session : Nat)
  /-- KEY_UPDATE (R415). -/
  | keyUpdate (c : Carrier) (session : Nat)
  /-- END_SESSION (R415). -/
  | endSession (c : Carrier) (session : Nat)
  /-- RESPOND_IF_READY (R415). -/
  | respondIfReady (c : Carrier) (session : Nat)
  /-- DOMAIN_OPEN (R419). -/
  | domainOpen (r : VReq) (d flags : Nat) (key : List Byte) (seed : Nat)
  /-- DOMAIN_CLAIM (R419). -/
  | domainClaim (r : VReq) (d sigR sigS : Nat)
  /-- DOMAIN_CLOSE (R419). -/
  | domainClose (r : VReq) (d : Nat)
  /-- DOMAIN_CLOSE_DONE (R312). -/
  | domainCloseDone (d : Nat)
  /-- GET_IMPORT_KEY (R418). -/
  | getImportKey (r : VReq) (d : Nat)
  /-- SET_RULES (R346). -/
  | setRules (r : VReq) (d row : Nat) (rule : List Byte)
  /-- GET_REPORT (R424). -/
  | getReport (r : VReq) (scope id off len nonce : Nat)
  /-- SIGNER_SET (R412). -/
  | signerSet (r : VReq) (slot kinds : Nat) (key : List Byte)
  /-- TEST_OPEN (R425). -/
  | testOpen (r : VReq) (parts : Nat)
  /-- LC_REQUEST (R427). -/
  | lcRequest (value : Nat)
  /-- LC_FUSE_BLOWN (R427). -/
  | lcFuseBlown
  /-- PORT_CALIBRATION_DONE (R462). -/
  | portCalibrationDone (p : Nat) (ok : Bool)
  /-- LANE_TRAINING_DONE (R462). -/
  | laneTrainingDone (p rtt : Nat) (lanes : List (Nat × Nat)) (fibreM : Nat)
  /-- NO_PEER_TIMEOUT (R462). -/
  | noPeerTimeout (p : Nat)
  /-- NO_PEER_RETRY (R462). -/
  | noPeerRetry (p : Nat)
  /-- HELLO (R448). -/
  | hello (at_ : HsAt) (m : HelloMsg)
  /-- PROOF (R449). -/
  | proof (at_ : HsAt) (m : ProofMsg)
  /-- HANDSHAKE_FINISH (R449). -/
  | handshakeFinish (at_ : HsAt) (macOk : Bool)
  /-- HANDSHAKE_RETRY (R449). -/
  | handshakeRetry (at_ : HsAt)
  /-- LINK_FRAME_DUE (R444). -/
  | linkFrameDue (p : Nat)
  /-- FRAME_TRANSMIT (R447). -/
  | frameTransmit (p : Nat)
  /-- LINK_FRAME (R444). -/
  | linkFrame (p : Nat) (f : RxFrame) (u : LinkUnit)
  /-- ROUTED_FRAME (R458). -/
  | routedFrame (p : Nat) (f : RxFrame)
  /-- FORWARDED_FRAME (R445). -/
  | forwardedFrame (p : Nat) (f : RxFrame)
  /-- LANE_LOCK_LOST (R463). -/
  | laneLockLost (p lane : Nat)
  /-- PORT_RX_TIMEOUT (R463). -/
  | portRxTimeout (p : Nat)
  /-- RETRAIN (R466). -/
  | retrain (p : Nat)
  /-- KEEPALIVE_TIMER (R450). -/
  | keepaliveTimer (n : Nat)
  /-- KEEPALIVE (R450). -/
  | keepalive (n : Nat)
  /-- SESSION_TIMEOUT (R450). -/
  | sessionTimeout (n : Nat)
  /-- BIND_OPEN_PART (R470). -/
  | bindOpenPart
  /-- BIND_OPEN_DOMAIN (R470). -/
  | bindOpenDomain
  /-- BIND_CLOSE (R470). -/
  | bindClose
  /-- BIND_OFFER (R452). -/
  | bindOffer (n : Nat) (o : Offer)
  /-- BIND_OFFER_EXPIRY (R452). -/
  | bindOfferExpiry (n : Nat) (o : Offer)
  /-- CLOSE (R453). -/
  | close (binding : Nat)
  /-- CLOSING_TIMEOUT (R453). -/
  | closingTimeout (binding : Nat)
  /-- QUARANTINE_EXPIRY (R453). -/
  | quarantineExpiry (binding : Nat)
  /-- RELEASE (R456). -/
  | release (binding cls slots : Nat)
  /-- CREDIT_IDLE_TIMER (R456). -/
  | creditIdleTimer (binding : Nat)
  /-- SEQ_GAP_TIMEOUT (R458). -/
  | seqGapTimeout (binding : Nat)
  /-- ORBIT_SYNC_UPDATE (R461). -/
  | orbitSyncUpdate
  /-- MAIN_RAIL_OUT_OF_REGULATION (R554). -/
  | mainRailOutOfRegulation
  /-- SVN_FLOOR_RAISE (R414). -/
  | svnFloorRaise (which level : Nat) (sigOk : Bool)
  /-- SNAPSHOT_COPY_DONE (R424). -/
  | snapshotCopyDone
  /-- HOST_LINK_L0 (R526). -/
  | hostLinkL0
  /-- LIGHT_DETECT (R517). -/
  | lightDetect (p : Nat)
  /-- PE_RX_ACTIVITY (R517). -/
  | peRxActivity
  /-- LASER_ARRAY_SENSOR_SAMPLE (R603). -/
  | laserArraySensorSample (temp : Nat)
  /-- REGISTER_ACCESS_IN_L2 (R584). -/
  | registerAccessInL2 (sp : Space) (off : Nat)
  deriving DecidableEq, Repr

end Sys2Proof
end

