-- ==== Sys2Proof/Machine/StateMem.lean ====
section
/-! DEFINITION. The plain data of chapter 6: lines and their metadata, scratchpads, Quadrant Buffer
ways, stacks and the host tier. -/

namespace Sys2Proof.Machine

/-- Line metadata KIND (Table 6.1). -/
inductive LineKind where
  | clear | shared | domain | row
  deriving DecidableEq, Repr

/-- One line: 64 data bytes (byte i in bits [8i+7:8i]) with its metadata (R195), and the words, one
bit each, that stand as uncorrectable (poison markers, R207). -/
structure Line where
  data : BitVec 512 := 0
  marks : Nat := 0
  kind : LineKind := .clear
  poison : Nat := 0
  tag : Nat := 0
  deriving DecidableEq, Repr

/-- A bank's power mode (Table 6.6; the fourth code is a zero-fill in progress, R235). -/
inductive BankMode where
  | on | retention | off | zeroFill
  deriving DecidableEq, Repr

/-- The ports that write a scratchpad (R199), in ascending priority order of R200. -/
inductive Port where
  | network | dma | vxu
  deriving DecidableEq, Repr

/-- A write that lost a collision and is retried by its port (R200). -/
structure LostWrite where
  port : Port
  line : Nat
  mask : Nat
  data : BitVec 512
  kind : LineKind := .clear
  tag : Nat := 0
  poison : Nat := 0
  atomic : Option Nat
  deriving DecidableEq, Repr

/-- The scratchpad of one tile with its counters (R192 to R202, R235 to R239). -/
structure Scratch where
  lines : Map Line := []
  banks : Map BankMode := []
  lost : List LostWrite := []
  ce : Word32 := 0
  ue : Word32 := 0
  collides : Word32 := 0
  partialClear : Word32 := 0
  atomics : Word32 := 0
  rangeDrops : Word32 := 0
  freeze : Bool := false
  /-- TILE_SP_UE_LOC: VALID, and META, BANK and ROW of the first word. -/
  ueValid : Bool := false
  ueMeta : Bool := false
  ueBank : Nat := 0
  ueRow : Nat := 0
  /-- Corrections since the last clear (R208), and whether a COLLIDE came since TILE_SP_COLLIDES was cleared (R202). -/
  ceSince : Nat := 0
  collSeen : Bool := false
  deriving DecidableEq, Repr

/-- A line held in a CACHE way (R216). -/
structure CacheLine where
  way : Nat
  pch : Nat
  line : Nat
  dirty : Bool
  body : Line
  deriving DecidableEq, Repr

/-- The Quadrant Buffer of one quadrant (R213 to R217, R241, R242). -/
structure QuadBuf where
  /-- Lines of the ways, keyed way * 32,768 + line. -/
  lines : Map Line := []
  /-- Ways being scrubbed (QD_QB_WAYw.MODE 0b10). -/
  scrubbing : List Nat := []
  ce : Word32 := 0
  ue : Word32 := 0
  atomics : Word32 := 0
  hits : Word32 := 0
  misses : Word32 := 0
  freeze : Bool := false
  ceSince : Nat := 0
  deriving DecidableEq, Repr

/-- Page attributes (R223). -/
structure PageAttr where
  valid : Bool := false
  shared : Bool := false
  frozen : Bool := false
  domain : Nat := 0
  deriving DecidableEq, Repr

/-- One stored line of a stack (R227). `key` is the domain root or partition key under whose XTS pair it was encrypted,
and `data` the plaintext; without a key `data` is what the cells hold (a zero-fill writes under no key, R229). The marks
are the words that stand as poison markers (R207). -/
structure StackLine where
  data : BitVec 512 := 0
  marks : Nat := 0
  key : Option Key256 := none
  deriving DecidableEq, Repr

/-- HBM_STATUS.STATE (R243). -/
inductive HbmState where
  | notTrained | wiping | ready | failed
  deriving DecidableEq, Repr

/-- One stack and its controller (R218 to R232, R243 to R248). -/
structure Stack where
  state : HbmState := .notTrained
  temp : Nat := 0
  /-- Page attributes, keyed pch * 576 + page. -/
  pages : Map PageAttr := []
  /-- Lines, keyed pch * 2^25 + line. -/
  lines : Map StackLine := []
  /-- Dirty bitmap, keyed pch * 576 + page (R231). -/
  dirty : Map Bool := []
  /-- Pages pending zero-fill of each pseudo-channel, in order (R229). -/
  zeroFill : Map (List Nat) := []
  /-- Next line of the patrol scrub of each pseudo-channel (R230). -/
  patrol : Map Nat := []
  scrubEnable : Bool := true
  scrubPeriod : Nat := 0x18
  ce : Word32 := 0
  ue : Word32 := 0
  passes : Word32 := 0
  freeze : Bool := false
  ceSince : Nat := 0
  deriving DecidableEq, Repr

/-- A host-tier extent: the units written, the generation they carry, and the domain whose key they take, none for the
partition key (R233). -/
structure HostExtent where
  index : Nat
  units : Nat
  gen : Nat
  domain : Option Nat := none
  deriving DecidableEq, Repr

/-- One 4,160-byte unit of the host tier, as host memory holds it (R233): one that the device sealed from 4,096 bytes
under a root key, an index and a generation, its tag good or not; or any other bytes, where the host altered it. -/
inductive HostUnit where
  | sealed (key : Key256) (index gen : Nat) (data : List Byte) (tagOk : Bool)
  | raw (bytes : List Byte)
  deriving DecidableEq, Repr

end Sys2Proof.Machine
end

