-- ==== Sys2Proof/Machine/Lines.lean ====
section
/-! DEFINITION. Operations over one line and over a share space: metadata words (R195), partial and
poisoned writes (R197, R198), the share space's layout (R193, R194) and the tag comparison of
Table 8.8. -/

namespace Sys2Proof.Machine

/-- The code of a KIND (Table 6.1). -/
def LineKind.code : LineKind → Nat
  | .clear => 0
  | .shared => 1
  | .domain => 2
  | .row => 3

/-- A KIND from its code. -/
def LineKind.ofCode (n : Nat) : LineKind :=
  if n = 1 then .shared else if n = 2 then .domain else if n = 3 then .row else .clear

/-- The 36-bit metadata entry of a line (Table 6.1). -/
def Line.metaWord (l : Line) : Nat := l.kind.code * 2 ^ 34 + l.poison % 4 * 2 ^ 32 + l.tag % 2 ^ 32

/-- The domain a line's tag names. -/
def Line.domain (l : Line) : Nat := bitsOf l.tag 20 12

/-- A line's 64 bytes. -/
def Line.bytes (l : Line) : List Byte := leBytes 64 l.data.toNat

/-- 64 bytes as line data. -/
def lineData (bs : List Byte) : BitVec 512 := BitVec.ofNat 512 (leNat bs)

/-- The field of `w` bits at bit offset `o` of a line. -/
def Line.get (l : Line) (o w : Nat) : Nat := bitsOf l.data.toNat o w

/-- The byte mask of `n` bytes from byte `o`. -/
def byteMask (o n : Nat) : Nat := (2 ^ n - 1) * 2 ^ o

/-- The data mask that a byte mask selects. -/
def dataMask (mask : Nat) : BitVec 512 :=
  BitVec.ofNat 512 ((List.range 64).foldl (fun a i => if mask.testBit i then a + 255 * 2 ^ (8 * i) else a) 0)

/-- All 64 bytes. -/
def fullMask : Nat := 2 ^ 64 - 1

/-- The word marks left after a write under a byte mask: a word written whole loses its mark. -/
def marksAfter (marks mask : Nat) : Nat :=
  (List.range 8).foldl (fun a i =>
    if marks.testBit i && bitsOf mask (8 * i) 8 != 255 then a + 2 ^ i else a) 0

/-- What a write of a line leaves, and whether it was a clearing write (R197, R198). -/
structure LineWrite where
  line : Line
  cleared : Bool
  deriving DecidableEq, Repr

/-- Write `data` under a byte mask with the writer's metadata. A change of KIND or TAG that covers
fewer than 64 bytes clears the other bytes; a poisoned line stays poisoned until a whole write. -/
def Line.write (old : Line) (mask : Nat) (data : BitVec 512) (kind : LineKind) (tag poison : Nat) :
    LineWrite :=
  let full := mask % 2 ^ 64 == fullMask
  let change := old.kind != kind || old.tag != tag
  let dm := dataMask mask
  let base : BitVec 512 := if full || change then 0 else old.data
  { line :=
      { data := (base &&& ~~~dm) ||| (data &&& dm)
        marks := if full || change then 0 else marksAfter old.marks mask
        kind := kind
        poison := if full then poison else if old.poison ≠ 0 then old.poison else poison
        tag := tag }
    cleared := !full && change }

/-- A line with word `w` replaced by the word `d` that a reader decodes, no longer a poison marker; word 8 is the
metadata entry (R195, R206). -/
def Line.setWord (l : Line) (w d : Nat) : Line :=
  if w = 8 then { l with
    kind := LineKind.ofCode (d / 2 ^ 34 % 4), poison := d / 2 ^ 32 % 4, tag := d % 2 ^ 32 }
  else
    let dm : BitVec 512 := BitVec.ofNat 512 ((2 ^ 64 - 1) * 2 ^ (64 * w))
    { l with
      data := (l.data &&& ~~~dm) ||| BitVec.ofNat 512 (d % 2 ^ 64 * 2 ^ (64 * w))
      marks := if l.marks.testBit w then l.marks - 2 ^ w else l.marks }

/-- The line a scrub or zero-fill leaves (R388). -/
def clearLine : Line := {}

/-! ### Share space -/

/-- Bytes of one share (R193). -/
def shareBytes : Nat := 98304
/-- Lines of one share. -/
def shareLines : Nat := 1536

/-- The shares of resident slot k when a context owns s shares (R371). -/
def slotShares (s k : Nat) : List Nat := (List.range s).map (fun i => k * s + i)

/-- The physical line of byte x of a share space (R194); none beyond it. -/
def shareLine (shares : List Nat) (x : Nat) : Option Nat :=
  (shares[x / shareBytes]?).map (fun n => n * shareLines + x % shareBytes / 64)

/-- The line that stands at byte x of a share space. -/
def storedAt (m : Map Line) (shares : List Nat) (x : Nat) : Line :=
  match shareLine shares x with
  | some l => mget clearLine m l
  | none => clearLine

/-- A line as a read sees it: KIND CLEAR reads as zero (R196). -/
def Line.read (l : Line) : Line := if l.kind = .clear then clearLine else l

/-- The line that a read of byte x of a share space sees. -/
def lineAt (m : Map Line) (shares : List Nat) (x : Nat) : Line := (storedAt m shares x).read

/-- The element of `w` bits at bit `o` of byte x of a share space. -/
def elemAt (m : Map Line) (shares : List Nat) (x : Nat) (w : Nat) (o : Nat := 0) : Nat :=
  (lineAt m shares x).get (x % 64 * 8 + o) w

/-- The share-space bytes at which the lines of a byte range start. -/
def lineStarts (off len : Nat) : List Nat :=
  if len = 0 then [] else (List.range ((off + len - 1) / 64 - off / 64 + 1)).map (fun i => (off / 64 + i) * 64)

/-! ### The tag comparison (Table 8.8) -/

/-- A reader: a row with its tag word, a void row, or a window row that serves no row with the domain
it has taken (R300, R301). -/
inductive Reader where
  | row (w : Nat)
  | void
  | free (dom : Option Nat)
  deriving DecidableEq, Repr

/-- A line as its reader sees it: KIND CLEAR reads as zero (R196), and so do lines of KIND DOMAIN and ROW
for a void row (R298). -/
def Line.seenBy (l : Line) (rd : Reader) : Line :=
  match l.kind, rd with
  | .clear, _ => clearLine
  | .shared, _ => l
  | _, .void => clearLine
  | _, _ => l

/-- What one line read answers: the line seen, the reader after it, and the poison cause: 0 none,
1 a tag failure, 2 an uncorrectable error. -/
structure ReadResult where
  line : Line
  reader : Reader
  cause : Nat
  deriving DecidableEq, Repr

/-- Compare a line with its reader (R198, R209, R298, R300). `exact` asks for an equal tag word, as an
adapter segment and a chain do. -/
def readLine (rd : Reader) (exact : Bool) (l : Line) : ReadResult :=
  let ue := if l.marks ≠ 0 then 2 else 0
  let own := if l.poison ≠ 0 then l.poison else ue
  match l.kind with
  | .clear => ⟨clearLine, rd, 0⟩
  | .shared => ⟨l, rd, if rd = .void then 0 else own⟩
  | k =>
    match rd with
    | .void => ⟨clearLine, rd, 0⟩
    | .row w =>
      let pass := bitsOf w 20 12 == l.domain && (k == .domain || !exact || l.tag == w)
      ⟨l, rd, if !pass then 1 else own⟩
    | .free none => ⟨l, .free (some l.domain), own⟩
    | .free (some d) => ⟨l, rd, if d != l.domain then 1 else own⟩

/-- The stronger of two poison causes: a tag failure fixes ST_DOMAIN_FAULT (R198). -/
def joinCause (a b : Nat) : Nat := if a = 1 || b = 1 then 1 else if a = 2 || b = 2 then 2 else 0

/-- The metadata a reader's result carries (Table 6.2, R301). -/
def Reader.meta : Reader → LineKind × Nat
  | .row w => (.row, w)
  | .void => (.clear, 0)
  | .free none => (.shared, 0)
  | .free (some d) => (.domain, d * 2 ^ 20)

/-- Status of a poisoned row by its cause (R198). -/
def causeStatus (c : Nat) : Nat := if c = 1 then 0x0C else if c = 2 then 0x0E else 0

end Sys2Proof.Machine
end

