-- ==== Sys2Proof/Machine/StateEvents.lean ====
section
/-! DEFINITION. The plain data of chapter 14: sources, event records and rings, MSI-X tables,
SHEEPDOG, the completion collectors, ORBIT's capture and ROOSTER. -/

namespace Sys2Proof.Machine

/-- A bit whose past decides deliveries (R520): its value now, and its changes, newest first. -/
structure TBit where
  now : Bool := false
  hist : List (Nat × Bool) := []
  deriving DecidableEq, Repr

/-- The state of one source (R518). -/
inductive SrcPhase where
  | inactive | pending | active | activePending
  deriving DecidableEq, Repr

/-- One SHEEPDOG source: its state, COALESCED (R535) and the tick of its first fire (R519). -/
structure Source where
  phase : SrcPhase := .inactive
  coalesced : Nat := 0
  firstFire : Nat := 0
  deriving DecidableEq, Repr

/-- SDG_SRC_CFGn (R534). -/
structure SrcCfg where
  enable : Bool := false
  mask : TBit := {}
  vector : Nat := 0
  deriving DecidableEq, Repr

/-- An event held in the reorder buffer (R510, R512). -/
structure Event where
  orbit : Nat
  code : Nat
  level : Nat
  source : Nat
  synced : Bool
  part : Nat
  arg0 : Nat
  arg1 : Nat
  arg2 : Nat
  arg3 : Nat
  deriving DecidableEq, Repr

/-- SDG_VF_EVR_STAT.STATE (R536). -/
inductive RingState where
  | off | running | error
  deriving DecidableEq, Repr

/-- The event ring of one function (R514, R515, R536). -/
structure EventRing where
  addr : Nat := 0
  enable : Bool := false
  sizeLog2 : Nat := 0
  irqEn : Bool := false
  vector : Nat := 0
  codes : Word32 := 0x3FFE
  state : RingState := .off
  tail : Nat := 0
  head : Nat := 0
  phase : Bool := true
  lostFlag : Bool := false
  lost : Word32 := 0
  deriving DecidableEq, Repr

/-- One entry of an MSI-X table. -/
structure MsixEntry where
  addr : Nat := 0
  data : Nat := 0
  mask : TBit := { now := true }
  deriving DecidableEq, Repr

/-- SHEEPDOG (R512 to R535). -/
structure Sdg where
  gdis : TBit := {}
  freeze : Bool := false
  delivered : Word32 := 0
  coalesced : Word32 := 0
  window : Word32 := 0
  evLost : Word32 := 0
  src : Map Source := []
  cfg : Map SrcCfg := []
  reorder : List Event := []
  /-- Held completion messages, (function key, vector), ascending (R522, R523). -/
  held : List (Nat × Nat) := []
  /-- The last decision was a source decision, so a held message is due next (R522). -/
  turnMsg : Bool := false
  deriving DecidableEq, Repr

/-- One quadrant's completion collector (R524, R525, R537, R538). -/
structure Collector where
  entries : List Post := []
  /-- Posts held at their posters, in order of stamp and source. -/
  held : List Post := []
  bpCycles : Word32 := 0
  freeze : Bool := false
  /-- Tiles whose back-pressure source has fired since the last clear. -/
  fired : List Nat := []
  deriving DecidableEq, Repr

/-- ORBIT and its capture registers (R506 to R509, R528, R529). -/
structure Orbit where
  val : Nat := 0
  cap : Nat := 0
  capValid : Bool := false
  overrun : Bool := false
  /-- An edge arrived while MCLK was stopped and captures the restart value (R509). -/
  capAtRestart : Bool := false
  deriving DecidableEq, Repr

/-- ROOSTER (R526, R527, R539). -/
structure Roo where
  wakeNEn : Bool := true
  timer : Nat := 0
  /-- ACLK cycles still to count in L3 before source 0x393 fires; none: no timer runs. -/
  timerLeft : Option Nat := none
  wakeValid : Bool := false
  wakeSource : Nat := 0
  sleep : Nat := 0
  watch : Map (Bool × Nat) := []
  /-- ACLK cycles counted since MCLK stopped (R507). -/
  count : Nat := 0
  /-- WAKE_N is asserted (R526). -/
  wakeN : Bool := false
  deriving DecidableEq, Repr

end Sys2Proof.Machine
end

