-- ==== Sys2Proof/Machine/StateHost.lean ====
section
/-! DEFINITION. The plain data of chapters 8, 9 and 13 that the command processor keeps: queues,
commands in flight, the adapter directory, domains, training slots and migration. -/

namespace Sys2Proof.Machine

/-- PAR_VF_QSTATq.STATE. -/
inductive QState where
  | off | running | draining | error
  deriving DecidableEq, Repr

/-- One work queue (R483 to R485). -/
structure Queue where
  sq : Nat := 0
  cq : Nat := 0
  enable : Bool := false
  sizeLog2 : Nat := 0
  context : Nat := 0
  irqEn : Bool := false
  vector : Nat := 0
  state : QState := .off
  epoch : Nat := 1
  err : Nat := 0
  sqHead : Nat := 0
  tail : Nat := 0
  head : Nat := 0
  cqTail : Nat := 0
  phase : Bool := true
  outstanding : Nat := 0
  /-- JOB_IDs of the records written and not yet consumed, in completion order. -/
  done : List Nat := []
  deriving DecidableEq, Repr

/-- One resolved row of a RUN or TRAIN_STEP (R296 to R299). -/
structure Row where
  word : Nat
  void : Bool
  status : Nat
  /-- The accepted row has an adapter, and the copy it latched (R343). -/
  adapter : Bool := false
  copy : Nat := 0
  deriving DecidableEq, Repr

/-- Where a command stands: accepted, running, or with its final status fixed. -/
inductive CmdPhase where
  | accepted | running | final
  deriving DecidableEq, Repr

/-- What ADAPTER_REGISTER holds between its steps (R290 to R295). -/
structure RegWork where
  handle : Nat
  repin : Bool
  domain : Nat
  place : Nat
  manifest : List Byte
  digest : Digest
  experts : List (Nat × Nat)
  offs : List Nat
  hostIndex : Nat
  units : Nat
  trainable : Bool
  degenerate : Nat := 0
  seeds : List Nat := []
  /-- Factors of the tensors whose seeding kernel has completed, in entry order (R290). -/
  factors : List (List Byte × List Byte) := []
  imported : Bool := false
  /-- Step 8 claimed store pages or host-tier units that a failure gives back. -/
  placed : Bool := false
  deriving DecidableEq, Repr

/-- A fetched command until its completion record is written (R484 to R486). -/
structure Cmd where
  job : JobRef
  q : Nat
  index : Nat
  tag : Nat := 0
  op : Nat := 0
  flags : Nat := 0
  part : Nat := 0
  ctx : Nat := 0
  desc : List Byte := []
  order : Nat := 0
  phase : CmdPhase := .accepted
  status : Nat := 0
  detail : Nat := 0
  count : Nat := 0
  res0 : Nat := 0
  res1 : Nat := 0
  res2 : Nat := 0
  vflags : Nat := 0
  more : Bool := false
  rows : List Row := []
  /-- Decrypted row inputs, keyed by row, and row outputs as slices leave them (R490). -/
  inputs : Map (List Byte) := []
  outs : Map (List Byte) := []
  /-- Handles on which the job holds a reference, with the copy latched. -/
  refs : List (Nat × Nat) := []
  /-- Tiles (as source numbers) that run slices of the job, those that have posted, and the stamp of the
  last post. -/
  expect : List Nat := []
  dispatched : Bool := false
  posted : List Nat := []
  /-- (quadrant, row) of the poisoned rows for which EV_DOMAIN_FAULT was raised (R150). -/
  noted : List (Nat × Nat) := []
  lastPost : Nat := 0
  /-- The ABORT target whose record comes first (R495). -/
  after : Option JobRef := none
  aborted : Bool := false
  /-- Its slices leave the tiles with the failure recorded in `status` (R256, R264). -/
  stopped : Bool := false
  reg : Option RegWork := none
  /-- The record is dropped: an FLR of the PF, or a disable the function cannot see. -/
  mute : Bool := false
  /-- EV_STASH_OVERFLOW causes already raised (R340). -/
  stashEv : List Nat := []
  /-- An uncorrectable word has reached its results (R209). -/
  reached : Bool := false
  /-- Records spilled and dropped, and layers replayed, by a TRAIN_STEP (R340). -/
  spills : Nat := 0
  drops : Nat := 0
  replays : Nat := 0
  /-- The NV fields as they stood when a STORE was accepted (R614). -/
  nv : List Byte := []
  deriving DecidableEq, Repr

/-- Handle states (Table 8.1). -/
inductive HState where
  | free | registering | resident | offloaded | loading | evicting | retiring
  deriving DecidableEq, Repr

/-- What a registration that failed leaves behind until the pages it has written are zero-filled (R290): the pages, as
stack, pseudo-channel and page, the positions that a re-pin had claimed, and whether the handle then becomes FREE. -/
structure Await where
  pages : List (Nat × Nat × Nat)
  claims : List (Digest × Nat × Nat)
  frees : Bool
  deriving DecidableEq, Repr

/-- A directory entry (R283, R343). -/
structure DirEntry where
  state : HState := .free
  epoch : Nat := 1
  part : Nat := 0
  domain : Nat := 0
  base : Digest := 0
  manifest : Digest := 0
  manifestBytes : List Byte := []
  binds : Nat := 0
  jobs : Nat := 0
  baseRetired : Bool := false
  trainable : Bool := false
  offloadOk : Bool := false
  /-- Eviction in progress: FORCED, its mode (0 OFFLOAD, 1 REMOVE) and its waiting commands. -/
  forced : Bool := false
  mode : Nat := 0
  evicts : List JobRef := []
  /-- A domain close evicts it (R312). -/
  closing : Bool := false
  /-- Binds that wait on a reload. -/
  waiting : List JobRef := []
  /-- Adapter-region offset in each logical quadrant, and the host-tier extent. -/
  offs : List Nat := []
  hostIndex : Nat := 0
  hostUnits : Nat := 0
  experts : List (Nat × Nat) := []
  /-- Positions that re-pins of the handle have claimed and not yet published, with their base (R292, R315). -/
  claims : List (Digest × Nat × Nat) := []
  /-- Failed registrations whose claims wait for the zero-fill (R290). -/
  awaits : List Await := []
  seeds : List Nat := []
  live : Nat := 0
  step : Nat := 0
  slot : Option Nat := none
  deriving DecidableEq, Repr

/-- One domain ID (R282, R419). The open generation survives a close. -/
structure Domain where
  open_ : Bool := false
  closing : Bool := false
  gen : Nat := 1
  exhausted : Bool := false
  opened : Bool := false
  kd : Key256 := 0
  importKey : Key256 := 0
  manifestKey : List Byte := []
  seed : Nat := 0
  rules : List Byte := []
  outCtr : Nat := 0
  slotKey : Bool := false
  /-- The sessions that own the domain: they opened or claimed it. -/
  owners : List Nat := []
  deriving DecidableEq, Repr

/-- The adapter directory with its registers (R283, R318 to R323). -/
structure Dir where
  entries : Map DirEntry := []
  domains : Map Domain := []
  sel : Nat := 0
  /-- The snapshot of R320: ENTRY, BINDS, STEP, TRAIN. -/
  snap : List Nat := [0x01000000, 0, 0, 0]
  freeze : Bool := false
  registered : Word32 := 0
  evicted : Word32 := 0
  reissued : Word32 := 0
  slotBusy : Word32 := 0
  staleDrop : Word32 := 0
  rowsAccepted : Word32 := 0
  rowsVoid : Word32 := 0
  /-- Stale drops since the counter was last cleared (R310). -/
  dropsSince : Nat := 0
  deriving DecidableEq, Repr

/-- Training slot states (Table 9.1). -/
inductive TrState where
  | clean | accumulating | committing | inDoubt
  deriving DecidableEq, Repr

/-- The phase of a commit (R351, R355). -/
inductive CommitPhase where
  | exchange | update | voted | decided
  deriving DecidableEq, Repr

/-- A COMMIT in progress (R351 to R358). -/
structure Commit where
  job : JobRef
  phase : CommitPhase
  members : List Nat
  rank : Nat
  coord : Bool
  coordPeer : Nat
  step : Nat
  check : Nat
  start : Nat
  readyAt : Nat := 0
  /-- ORBIT at the last QUERY (R357). -/
  askedAt : Nat := 0
  /-- Members whose READY, and whose ACK, have arrived. -/
  ready : List Nat := []
  acks : List Nat := []
  /-- Parts received: (rank, line, elements), and sums received or made: (line, elements). -/
  parts : List (Nat × Nat × List Nat) := []
  sums : List (Nat × List Nat) := []
  nonfinite : Nat := 0
  sat : Nat := 0
  /-- Flags of the update, for its record (R111). -/
  vflags : Nat := 0
  updating : Bool := false
  /-- The step list's rule rows at the start of the update (R419). -/
  rules : List Byte := []
  deriving DecidableEq, Repr

/-- A job's stash record of a layer (R335 to R339). On chip (`place` 0) its lines lie in the stash area, as record `ix` of
it; spilled, they lie from stripe `place` - 1 of the spill region; a dropped one has only what a recompute of it yields. -/
structure StashRec where
  job : JobRef
  layer : Nat
  place : Nat := 0
  ix : Nat := 0
  /-- The logical tiles captured so far, with the job row that each line belongs to, none for no row (R338). -/
  rows : Map (List (Option Nat)) := []
  /-- The lines of a dropped record, keyed by logical tile: the bits of its capture (R119, R339). -/
  lines : Map (List Line) := []
  deriving DecidableEq, Repr

/-- One training slot (R324 to R329). -/
structure TrSlot where
  state : TrState := .clean
  list : List Nat := []
  gradFmt : Nat := 0
  gabOff : Nat := 0
  stashOff : Nat := 0
  stashBytes : Nat := 0
  qbOff : Nat := 0
  qbLines : Nat := 0
  partialG : Bool := false
  micro : Nat := 0
  seq : Word32 := 0
  group : Nat := 0
  domain : Nat := 0
  /-- The GAB is being zeroed for this job (R332). -/
  zeroing : Option JobRef := none
  commit : Option Commit := none
  /-- The last 16 decisions: (GROUP_STEP_ID, 0 for COMMIT or the rollback cause) (R355). -/
  decisions : List (Nat × Nat) := []
  /-- Decided commits that still collect ACKs. -/
  acking : List Commit := []
  /-- References of an IN_DOUBT slot: (handle, copy latched) (R344). -/
  held : List (Nat × Nat) := []
  /-- The RESOLVE_COMMIT that a deferred commit point completes. -/
  resolver : Option JobRef := none
  /-- Records of the running TRAIN_STEPs, those that were dropped, and the layers dropped and not replayed yet. -/
  stash : List StashRec := []
  replayable : List StashRec := []
  dropped : List (JobRef × Nat) := []
  deriving DecidableEq, Repr

/-- Training registers (R360 to R366). -/
structure TrainRegs where
  slots : Map TrSlot := []
  timeout : Nat := 50000
  sel : Nat := 0
  snap : List Nat := [0, 0, 0]
  freeze : Bool := false
  commits : Word32 := 0
  rollbacks : Word32 := 0
  inDoubt : Word32 := 0
  frozen : Word32 := 0
  spills : Word32 := 0
  drops : Word32 := 0
  replays : Word32 := 0
  deriving DecidableEq, Repr

/-- One item still to be sent by an export (R499 to R501). -/
inductive MigItem where
  | page (lq rank page : Nat)
  | way (lq rank first n : Nat)
  | context (lq tile share ctx : Nat)
  | domain (d : Nat)
  | directory (handles : List Nat)
  | partition
  | host (index units owner : Nat)
  | fin
  deriving DecidableEq, Repr

/-- The export (R498, R501, R504). `phase` is the EXPORT code of GLB_MIG_STATUS: 1 copying, 2 suspended, 3 released;
a released export stays shown until the next START. -/
structure Export where
  part : Nat
  phase : Nat
  key : List Byte
  prk : List Byte
  nonce : List Byte
  seq : Nat
  endSeq : Nat := 0
  hello : List Byte := []
  todo : List MigItem := []
  ordinals : Map Nat := []
  moreOp : Option Nat := none
  deriving DecidableEq, Repr

/-- The import; `phase` is the IMPORT code of GLB_MIG_STATUS: 1 prepared or loading, 2 END received (R497, R499, R501, R504). -/
structure Import where
  part : Nat
  phase : Nat
  nonce : List Byte
  priv : Nat
  key : List Byte := []
  prk : List Byte := []
  helloDone : Bool := false
  seq : Nat := 1
  endSeq : Nat := 0
  ordinals : Map Nat := []
  /-- (domain, source generation, new generation) of the DOMAIN records received. -/
  gens : List (Nat × Nat × Nat) := []
  /-- Contexts whose records came with RESIDENT set: (context, slot). -/
  resident : List (Nat × Nat) := []
  /-- What CANCEL gives back: the configuration measurement and each context's buffer window at PREPARE. -/
  meas : Digest := 0
  bufs : List (Nat × Nat) := []
  deriving DecidableEq, Repr

/-- The host interface (chapter 13) and the MSI-X tables and event rings of every function. -/
structure HostIf where
  mem : Mem := []
  /-- Ranges (start, length) of host memory at which an access fails. -/
  fails : List (Nat × Nat) := []
  queues : Map Queue := []
  cmds : List Cmd := []
  nextOrder : Nat := 0
  rings : Map EventRing := []
  msix : Map MsixEntry := []
  fmask : Map TBit := []
  vfEnable : Bool := false
  numVfs : Nat := 0
  flr : List Nat := []
  speed : Nat := 0
  width : Nat := 0
  flit : Bool := false
  ide : Bool := false
  /-- Latched upper halves of 64-bit pairs (R21), keyed by function, BAR and offset. -/
  latch : Map Nat := []
  freeze : Bool := false
  subword : Word32 := 0
  accepted : Word32 := 0
  refused : Word32 := 0
  abortLate : Word32 := 0
  exp : Option Export := none
  imp : Option Import := none
  deriving DecidableEq, Repr

end Sys2Proof.Machine
end

