-- ==== Sys2Proof/Machine/StateTile.lean ====
section
/-! DEFINITION. The plain data of a tile: configuration slots, chains, segment tables, rings, staged
outputs, job positions, the running slice, the test state and the counters (chapters 1 to 5, 7). -/

namespace Sys2Proof.Machine

/-- One configuration slot (R73, R84). -/
structure CfgSlot where
  set : Nat := 0
  id : Nat := 0
  valid : Bool := false
  filling : Bool := false
  /-- Start order of the last slice that ran from it (R75). -/
  lastUse : Nat := 0
  deriving DecidableEq, Repr

/-- An open chain in a context's tile register part (R143), with the job whose slices form it (R145) and where its
next slice goes on: first row, first contraction index, first column. -/
structure Chain where
  job : JobRef
  m : Nat
  n : Nat
  mode : Nat
  group : Nat
  outlier : Bool
  escape : Bool
  fused : Bool
  rowBase : Nat
  nextK : Nat
  n0 : Nat
  /-- Rows of the chain that are poisoned, with their causes. -/
  poisoned : Map Nat := []
  deriving DecidableEq, Repr

/-- The block that a segment holds (R153): the row tag word, the adapter tensor, the range of contraction indices
or output columns it covers, and the copy of the training state. -/
structure SegKey where
  word : Nat
  tensor : Nat
  col : Nat
  len : Nat
  copy : Nat
  deriving DecidableEq, Repr

/-- One gathered adapter segment (R153 to R155). -/
structure Segment where
  key : SegKey
  lines : List Line
  /-- A fused slice has read it since its gather. -/
  used : Bool := false
  /-- Open generation of its row's domain at the gather (R382). -/
  gen : Nat := 0
  deriving DecidableEq, Repr

/-- One line of a staged output, with the job row it belongs to, or a SIGNAL add (R132, R167). -/
structure StagedLine where
  line : Nat
  mask : Nat
  body : Line
  atomic : Option Nat
  row : Option Nat := none
  deriving DecidableEq, Repr

/-- The staged outputs of a slice: the route, the job and the lines (R132). -/
structure Staged where
  route : Nat
  job : JobRef
  lines : List StagedLine
  deriving DecidableEq, Repr

/-- One fill of a ring (R249, R259): its plan entry and index, and how far it has come. -/
structure Fill where
  num : Nat
  entry : Nat
  index : Nat
  started : Bool := false
  done : Bool := false
  barrier : Bool := false
  /-- The parts that it reads from the own stack have been delivered, its peer parts perhaps not yet (R262, R267). -/
  ownDone : Bool := false
  /-- Order of its request among the device's fills (R253). -/
  req : Nat := 0
  deriving DecidableEq, Repr

/-- A stream ring of a job in one tile (R249, R250). -/
structure Ring where
  job : JobRef
  set : Nat
  nbuf : Nat
  bufLines : Nat
  base : Nat
  /-- Fills not yet released, oldest first; the first is the head. -/
  fills : List Fill
  /-- Fills not yet requested of the running plan. -/
  next : List Fill
  /-- Slices of the head's CONSUMER that have retired on it. -/
  used : Nat := 0
  deriving DecidableEq, Repr

/-- A job's position in one tile (R624): row group, step of the sequence and repetition. -/
structure TJob where
  job : JobRef
  set : Nat
  plan : Nat
  backward : Bool := false
  rowGroup : Nat := 0
  step : Nat := 0
  rep : Nat := 0
  /-- Row groups of the job in this tile. -/
  groups : Nat := 1
  done : Bool := false
  status : Nat := 0
  vflags : Nat := 0
  stall : Nat := 0
  /-- Layers whose stash window waits for its capture, is restored, or whose backward slices are done. -/
  captures : List Nat := []
  restored : List Nat := []
  bwdDone : List Nat := []
  deriving DecidableEq, Repr

/-- A context's state in one tile. -/
structure TCtx where
  vflags : Nat := 0
  chain : Option Chain := none
  segs : List Segment := []
  staged : List Staged := []
  jobs : List TJob := []
  ring : Option Ring := none
  /-- Rings of jobs that have left the tile, with the fills that were in progress (R256). -/
  dying : List Ring := []
  lastStart : Option Nat := none
  deriving DecidableEq, Repr

/-- The running slice of a tile (R36 to R38). -/
structure Running where
  ctx : Nat
  job : JobRef
  slot : Nat
  cfg : TileCfg
  lay : SliceLayout
  /-- Row poison causes found when the operands were read. -/
  poison : Map Nat := []
  ues : Nat := 0
  redirect : Option (Nat × Nat × Nat) := none
  consumer : Bool := false
  /-- Upsets that its operand reads meet, and its layer (R335). -/
  upsets : List Upset := []
  layer : Option Nat := none
  /-- It continues the context's chain. -/
  chained : Bool := false
  deriving DecidableEq, Repr

/-- A slice selected and waiting for its slot switch (R76). -/
structure Switching where
  slot : Nat
  next : Running
  deriving DecidableEq, Repr

/-- VXU counters and test registers (chapter 5). -/
structure Vxu where
  test : Bool := false
  scrubbing : Bool := false
  freeze : Bool := false
  uops : Word32 := 0
  busy : Word32 := 0
  invalid : Word32 := 0
  sat : Word32 := 0
  flags : Nat := 0
  uopLo : Word32 := 0
  uopHi : Word32 := 0
  goBusy : Bool := false
  /-- The test micro-op that holds BUSY, and whether GO refused it. -/
  op : Nat := 0
  refused : Bool := false
  done : Bool := false
  error : Bool := false
  wins : Map (Nat × Nat × Nat × Nat) := []
  deriving DecidableEq, Repr

/-- Matrix-engine counters (R156, R158). -/
structure MxCounters where
  slices : Word32 := 0
  busy : Word32 := 0
  compute : Word32 := 0
  idle : Word32 := 0
  poison : Word32 := 0
  sideDrop : Word32 := 0
  gathers : Word32 := 0
  coalesced : Word32 := 0
  chainBreak : Word32 := 0
  freeze : Bool := false
  deriving DecidableEq, Repr

/-- One tile. -/
structure Tile where
  slots : List CfgSlot := List.replicate 8 {}
  current : Option Nat := none
  running : Option Running := none
  switching : Option Switching := none
  /-- Contexts of the tile's partition, keyed by local number. -/
  ctxs : Map TCtx := []
  scratch : Scratch := {}
  treg : Map Word32 := []
  /-- Row tag words with KIND, keyed 64 * part + row: (kind code, word). -/
  tags : Map (Nat × Nat) := []
  mx : MxCounters := {}
  vxu : Vxu := {}
  escFaults : Word32 := 0
  mulStall : Word32 := 0
  /-- A run of stall cycles goes on, with the root clock periods of its last, unfinished CCLK cycle (R266). -/
  stalled : Bool := false
  stallRem : Nat := 0
  switches : Word32 := 0
  fills : Word32 := 0
  fillWait : Word32 := 0
  starts : Nat := 0
  /-- Closed domains whose scrub waits for the next slice boundary (R389). -/
  toScrub : List Nat := []
  deriving DecidableEq, Repr

/-- One saturation entry (R113, R122 to R125). -/
structure SatEntry where
  valid : Bool := false
  tensor : Nat := 0
  part : Nat := 0
  threshold : Nat := 0
  window : Nat := 0
  count : Nat := 0
  total : Nat := 0
  drift : Bool := false
  /-- ORBIT at which the current window began. -/
  winStart : Nat := 0
  deriving DecidableEq, Repr

/-- UPU counters and status (R367 to R369). -/
structure Upu where
  freeze : Bool := false
  part : Nat := 0
  elements : Word32 := 0
  busy : Word32 := 0
  adds : Word32 := 0
  nonfinite : Word32 := 0
  sat : Word32 := 0
  rsqrtZero : Word32 := 0
  deriving DecidableEq, Repr

/-- MULE's counters of one quadrant (R279). -/
structure MulQ where
  stack : Word32 := 0
  peer : Word32 := 0
  host : Word32 := 0
  stallCycles : Word32 := 0
  stalls : Word32 := 0
  gatherFail : Word32 := 0
  barrierWaits : Word32 := 0
  deriving DecidableEq, Repr

end Sys2Proof.Machine
end

