-- ==== Sys2Proof/Machine/StatePart.lean ====
section
/-! DEFINITION. The plain data of chapters 7 and 10: partitions, contexts, images, configuration sets
with their stream plans, layer patches, gathers and the PAR and MUL registers. -/

namespace Sys2Proof.Machine

/-- A stream plan entry (Table 7.2). -/
structure PlanEntry where
  plan : Nat
  source : Nat
  layer : Nat
  nbuf : Nat
  consumer : Nat
  perBuf : Nat
  bufLines : Nat
  shards : Nat
  peer : Nat
  ring : Nat
  src : Nat
  tileBytes : Nat
  mask : Nat
  deriving DecidableEq, Repr

/-- A base tensor (R491). -/
structure BaseTensor where
  id : Nat
  layer : Nat
  expert : Nat
  k : Nat
  n : Nat
  deriving DecidableEq, Repr

/-- A loaded configuration set with its base and plan (R69, R77, R258, R271). -/
structure CfgSet where
  num : Nat
  file : CfgFile
  layers : Nat
  plans : Nat
  entries : List PlanEntry
  tensors : List BaseTensor
  outliers : Map (List Nat)
  lqBytes : Nat
  baseOff : Nat
  hostIndex : Nat := 0
  hostUnits : Nat := 0
  retired : Bool := false
  patchCount : Nat := 0
  patchMeas : Digest := 0
  /-- Where its record lies in the configuration store: offset and bytes (R258). -/
  cfgOff : Nat := 0
  cfgLen : Nat := 0
  deriving DecidableEq, Repr

/-- The quadrant of a carve (R390 to R392): physical quadrant, tiles, ways and pseudo-channels. -/
structure PQuad where
  pq : Nat
  tiles : List Nat
  waysAddr : List Nat
  waysCache : List Nat
  pchs : List Nat
  /-- Lines held in CACHE ways, least recently used first (R216). -/
  cache : List CacheLine := []
  deriving DecidableEq, Repr

/-- RES (Table 10.1). -/
inductive Res where
  | resident | swapped | saving | restoring
  deriving DecidableEq, Repr

/-- One share of an image in one tile (R380). -/
structure ShareImg where
  lines : Map Line := []
  /-- Open generation of each record's domain. -/
  gens : Map Nat := []
  treg : Map Word32 := []
  tags : Map (Nat × Nat) := []
  tagGens : Map Nat := []
  deriving DecidableEq, Repr

/-- A context's image: shares keyed 16 * logical tile + share, and the state in each tile. -/
structure Image where
  shares : Map ShareImg := []
  tctx : Map TCtx := []
  /-- Live configurations of a GR2-compatible save by logical tile: set and CONFIG_ID (R387). -/
  live : Map (List (Nat × Nat)) := []
  deriving DecidableEq, Repr

/-- One context (R370 to R375). -/
structure Ctx where
  res : Res := .swapped
  slot : Nat := 0
  prio : Nat := 0
  /-- A priority written during a switch, which applies after it (R385). -/
  prioNext : Option Nat := none
  bufBase : Nat := 0
  bufLines : Nat := 0
  /-- ORBIT at which its run of IDLE or BLOCKED cycles began; none while RUNNABLE. -/
  since : Option Nat := some 0
  /-- ORBIT at which it became RUNNABLE. -/
  runSince : Nat := 0
  image : Option Image := none
  deriving DecidableEq, Repr

/-- The step a switch has reached (R379, R383). -/
inductive SwPhase where
  | quiescing | saving | restoring
  deriving DecidableEq, Repr

/-- A switch in progress. -/
structure Switch where
  cand : Nat
  victim : Option Nat
  slot : Nat
  phase : SwPhase
  deriving DecidableEq, Repr

/-- The phase of a layer patch (Table 7.5). -/
inductive PatchPhase where
  | staging | drain | copy | released
  deriving DecidableEq, Repr

/-- A layer patch: its ranges are (logical quadrant, offset, bytes), and the general-region stripes that hold the staged
bytes of each logical quadrant, one range after another, are (first stripe, count) (R267). -/
structure Patch where
  job : JobRef
  /-- Order in which the command processor accepted it (R270). -/
  order : Nat
  set : Nat
  layer : Nat
  digest : Digest
  ranges : List (Nat × Nat × Nat)
  staged : List (Nat × Nat)
  phase : PatchPhase := .staging
  /-- A RETIRE_BASE accepted while the patch runs waits for its release (R270). -/
  retire : List JobRef := []
  deriving DecidableEq, Repr

/-- PAR_INFO.STATE. -/
inductive PState where
  | free | active | disabling | disabled | destroying
  deriving DecidableEq, Repr

/-- One partition (chapter 10). -/
structure Part where
  state : PState := .free
  mode : Nat := 0
  s : Nat := 0
  resv : Nat := 0
  prioMax : Nat := 0
  vf : Option Nat := none
  domBase : Nat := 0
  domCount : Nat := 0
  ctxBase : Nat := 0
  ctxCount : Nat := 0
  vectors : Nat := 0
  credits : Nat := 0
  quads : List PQuad := []
  ctxs : List Ctx := []
  key : Key256 := 0
  meas : Digest := 0
  sets : List CfgSet := []
  /-- Set numbers that a RETIRE_BASE took away, with its order of acceptance, until a LOAD_BASE takes them again (R77). -/
  retiredAt : Map Nat := []
  switch : Option Switch := none
  patches : List Patch := []
  hostGen : Nat := 0
  hosts : List HostExtent := []
  /-- Dirty logging is on (R231), fetching is suspended by FINAL, an import is prepared. -/
  logging : Bool := false
  suspended : Bool := false
  importing : Bool := false
  /-- A return whose trigger came before DISABLED (R393). -/
  returns : Bool := false
  /-- The disable came from an FLR (1) or from VF Enable (2); 0 for DISABLE. -/
  cause : Nat := 0
  /-- DESTROY follows the disable (R394). -/
  destroy : Bool := false
  deriving DecidableEq, Repr

/-- A gather of a fill part from a peer (R262 to R264). -/
structure Gather where
  tag : Nat
  part : Nat
  set : Nat
  tile : TileId
  ctx : Nat
  fill : Nat
  shard : Nat
  binding : Nat
  length : Nat
  lq : Nat
  src : Nat
  job : JobRef
  /-- ORBIT at the first request, and at the HOLD answer that `hold` says is outstanding. -/
  since : Nat
  hold : Bool := false
  heldAt : Nat := 0
  deriving DecidableEq, Repr

/-- MUL registers (R275 to R278). -/
structure MulRegs where
  freeze : Bool := false
  timeout : Nat := 10000
  patchActive : Bool := false
  patchPhase : Nat := 0
  patchSet : Nat := 0
  patchLayer : Nat := 0
  patchPart : Nat := 0
  /-- The order of acceptance of the patch that these fields describe (R278). -/
  patchOrder : Option Nat := none
  gathers : List Gather := []
  nextTag : Nat := 0
  nextReq : Nat := 0
  deriving DecidableEq, Repr

/-- PAR registers (R395 to R403). -/
structure ParRegs where
  op : Nat := 0
  part : Nat := 0
  /-- The op that runs: (op, partition). -/
  busy : Option (Nat × Nat) := none
  done : Bool := false
  lq : Nat := 0xFF
  result : Nat := 0
  addr : Nat := 0
  sel : Nat := 0
  snap : List Nat := [0, 0]
  block : Nat := 20
  freeze : Bool := false
  swapFree : Word32 := 0
  swapPrio : Word32 := 0
  swapBlocked : Word32 := 0
  scrubs : Word32 := 0
  disables : Word32 := 0
  disabledJobs : Word32 := 0
  deriving DecidableEq, Repr

/-- One quadrant. -/
structure Quad where
  tiles : Map Tile := []
  qb : QuadBuf := {}
  sat : Map SatEntry := []
  untracked : Nat := 0
  seedRuns : Word32 := 0
  seedDegenerate : Word32 := 0
  upu : Upu := {}
  cc : Collector := {}
  mul : MulQ := {}
  deriving DecidableEq, Repr

end Sys2Proof.Machine
end

