-- ==== Sys2Proof/Machine/StatePlat.lean ====
section
/-! DEFINITION. The plain data of chapters 15 to 17: the 72 V input, the standby domain, the pins,
clocks, P-states, power states, the start sequence, the fuses and the NVM. -/

namespace Sys2Proof.Machine

/-- One thermal sensor: its level (Table 15.9) and TEMP, 0x8000 for no reading (R557, R567). -/
structure Sensor where
  level : Nat := 0
  temp : Nat := 0x8000
  deriving DecidableEq, Repr

/-- A fault record: CLK_FAULT's fields (R554, R566). -/
structure FaultRec where
  valid : Bool := false
  first : Nat := 0
  sensor : Nat := 0
  causes : Nat := 0
  deriving DecidableEq, Repr

/-- The standby domain's state (R552, R555). -/
inductive Standby where
  | off | starting | ready
  deriving DecidableEq, Repr

/-- The main conversion (R552 to R554): off, held off after a fault, ramping, in regulation. -/
inductive MainRail where
  | off | faulted | ramping | on
  deriving DecidableEq, Repr

/-- The 72 V input, the standby domain, the caps and the pins (chapter 15). -/
structure Power where
  standby : Standby := .ready
  main : MainRail := .on
  /-- PWR_EN pin. -/
  pwrEn : Bool := true
  /-- PWR_EN has been low for at least 10 ms since the last fault (R554). -/
  lowSeen : Bool := false
  /-- PERST_N pin: true while asserted (low). -/
  perst : Bool := true
  /-- ALERT_N and THERM_TRIP_N: true while asserted. -/
  alert : Bool := false
  thermTrip : Bool := false
  strapId : Nat := 0xF
  strapOsc : Nat := 7
  /-- Microseconds below the falling lockout, above overvoltage, above 40 A (R549). -/
  underUs : Nat := 0
  overUs : Nat := 0
  ocUs : Nat := 0
  inWarn : Bool := false
  volts : Nat := 0
  amps : Nat := 0
  p1s : Nat := 0
  p10ms : Nat := 0
  /-- The input's last sample, 10 mV (R549). -/
  lastMv : Nat := 7200
  limit : Nat := 1500
  powerCap : Nat := 0
  thermalCap : Nat := 0
  /-- Consecutive 10 ms ticks with the average below 0.95 x LIMIT (R551). -/
  lowTicks : Nat := 0
  /-- The last fault was a thermal trip: the conversion stays off while a sensor is at CRITICAL (R554). -/
  tripHold : Bool := false
  sensors : Map Sensor := []
  record : FaultRec := {}
  clkFault : FaultRec := {}
  deriving DecidableEq, Repr

/-- One clock domain (R572, R573, R590, R591). SRC codes: 0 ROOT, 1 REF, 2 RC. -/
structure Dom where
  src : Nat := 0
  cur : Nat := 0
  /-- RUNNING and BUSY of CLK_DOMn_STATUS. -/
  running : Bool := true
  busy : Bool := false
  /-- The switch has gated the clock and the mux has acted (Table 16.2, steps 2 and 3). -/
  gated : Bool := false
  result : Nat := 0
  want : Nat := 0
  /-- Result the mux left, written when the gate opens. -/
  outcome : Nat := 0
  deriving DecidableEq, Repr

/-- A domain of the root PLL before stage HOST_LINK: its clock is stopped, and it will run from REF (R602). -/
def stoppedDom : Dom := { cur := 1, running := false }

/-- The phase of the P-state sequencer (R578, R579). -/
inductive PPhase where
  | idle | rampUp | hold | stopped | rampDown
  deriving DecidableEq, Repr

/-- The module power state (R581 to R587). -/
inductive PmPhase where
  | d0 | entering | l2 | exiting | armed | l3
  deriving DecidableEq, Repr

/-- Clocks, P-states, power states and Q-gate (chapter 16). -/
structure Clk where
  locked : Bool := true
  refOk : Bool := true
  aclkRc : Bool := false
  /-- Consecutive 100 µs monitor periods with REF ready while ACLK runs from RC (R569). -/
  refTicks : Nat := 0
  settleN : Nat := 128
  /-- The settle interval has ended since standby power became ready (R569). -/
  settled : Bool := false
  dom : List Dom := [{}, {}, {}, {}, { src := 1, cur := 1, want := 1 }]
  req : Nat := 0
  cur : Nat := 0
  goal : Nat := 0
  phase : PPhase := .idle
  vdd : Nat := 780
  changes : Word32 := 0
  pm : PmPhase := .d0
  pmTarget : Nat := 0
  pmDone : Bool := false
  pmResult : Nat := 0
  /-- An accepted L2 request waits for a P-state transition (R583). -/
  l2Waiting : Bool := false
  /-- A trigger of R584 came while the entry ran. -/
  wakePending : Bool := false
  /-- ORBIT at which L3 was armed (R585). -/
  armedAt : Nat := 0
  gate : Nat := 0
  gated : Nat := 0
  entering : Nat := 0
  exiting : Nat := 0
  deriving DecidableEq, Repr

/-- The reference calibration (R603). -/
structure LaserCal where
  /-- Every enabled bank was calibrated. -/
  complete : Bool
  /-- TEMP of sensor 0x23 at its end. -/
  temp : Nat
  /-- SEQ of the structure copy its start loaded. -/
  seq : Nat
  /-- A sample has left the ±3 K window. -/
  drifted : Bool
  deriving DecidableEq, Repr

/-- The start (chapter 17). STAGE codes are those of Table 17.3. -/
structure Start where
  result : Nat := 0
  cause : Nat := 0
  detail : Nat := 0
  stage : Nat := 0
  /-- The stage that runs or waits to begin (0x0F: none). -/
  at_ : Nat := 0x01
  /-- A stage of SETTLE, POWER or HOST_LINK waits for PERST_N's deassertion (R602). -/
  waitPerst : Bool := false
  cold : Bool := true
  /-- Stage FUSE has finished in this start (R599). -/
  fused : Bool := false
  /-- The fuse shadows are held (R600). -/
  fuseHeld : Bool := false
  /-- WIPE, SELFTEST and OPTICS have ended (R601). -/
  groupDone : List Nat := []
  skipOptics : Bool := false
  us : Nat := 0
  /-- Microseconds of the group WIPE, SELFTEST and OPTICS counted so far. -/
  groupUs : Nat := 0
  count : Nat := 0
  stageUs : List Nat := List.replicate 16 0
  bankFail : Nat := 0
  location : Nat := 0xFFFF
  settleStrap : Bool := false
  sealedReplaced : Bool := false
  fieldReset : Bool := false
  fuseWarm : Bool := false
  structSrc : Nat := 0
  settingsSrc : Nat := 0
  /-- SEQ of the structure copy that this start selected. -/
  structSeq : Nat := 0
  logSel : Nat := 0
  cal : Option LaserCal := none
  /-- TEMP of sensor 0x23 at the last 100 ms sample. -/
  laserTemp : Nat := 0x8000
  deriving DecidableEq, Repr

/-- The NVM (R611) with the WRITES registers (R620). -/
structure Nvm where
  bytes : Mem := []
  writes : List Nat := [0, 0, 0, 0]
  deriving DecidableEq, Repr

/-- The fuses (R406, R212). DESIGN CHOICE (log entry 43): the stepping, whose reset Table 1.9 gives 'per stepping', is A0 (0). -/
structure Fuses where
  uid : Nat := 0
  drs : Nat := 0
  vendorHash : Digest := 0
  lcCount : Nat := 0
  tritonFloor : Nat := 0
  seqFloor : Nat := 0
  /-- TILE_SP_REPAIR of each tile (key 32q + t). -/
  repair : Map Nat := []
  stepping : Nat := 0
  deriving DecidableEq, Repr

end Sys2Proof.Machine
end

