-- ==== Sys2Proof/Machine/StateSec.lean ====
section
/-! DEFINITION. The plain data of chapters 11 and 12: TRITON, its sessions and registers; JANUS ports,
sessions, bindings, routes and registers. -/

namespace Sys2Proof.Machine

/-- One signer slot (R411). -/
structure SignerSlot where
  key : List Byte := []
  kinds : Nat := 0
  deriving DecidableEq, Repr

/-- The table that holds slot 0 alone, with KINDS 0x07 (R411, R412). -/
def slot0Only : List SignerSlot := { key := Config.vendorKey, kinds := 7 } :: List.replicate 7 {}

/-- One SPDM session (R415, R418). -/
structure Session where
  id : Nat
  carrier : Carrier
  /-- VF field of the carrier, 0xFF for none (R418). -/
  vf : Nat
  established : Bool := false
  th2 : Digest := 0
  deriving DecidableEq, Repr

/-- A report snapshot (R424). -/
structure Snapshot where
  session : Nat
  nonce : Nat
  bytes : List Byte
  deriving DecidableEq, Repr

/-- A commit point that waits while a snapshot is copied (R424). -/
inductive Deferred where
  | register (j : JobRef)
  | step (part slot : Nat)
  | patch (part : Nat)
  deriving DecidableEq, Repr

/-- What TRITON last answered (the model's own record of a reply). -/
inductive Answer where
  | none
  /-- Data of a register, SMBus or event read. -/
  | data (v : Nat)
  | bytes (bs : List Byte)
  /-- A line read, with the words delivered as uncorrectable. -/
  | line (bs : List Byte) (marks : Nat)
  /-- An SPDM response named by its code, with its content. -/
  | spdm (code : Nat) (bs : List Byte)
  /-- A vendor response: RESULT and fields. -/
  | vendor (result : Nat) (bs : List Byte)
  /-- SPDM ERROR with its error code. -/
  | error (code : Nat)
  /-- No reply: the access is not answered. -/
  | nack
  deriving DecidableEq, Repr

/-- TRITON (chapter 11). -/
structure Triton where
  ready : Bool := false
  /-- LC is shown once the fuse shadows are held. -/
  lcShown : Bool := false
  lcBusy : Bool := false
  debug : Nat := 0
  toState : Nat := 0
  /-- The state an accepted transition leads to. -/
  lcTarget : Nat := 0
  lcDone : Bool := false
  lcResult : Nat := 0
  token : Nat := 0
  mbxVf : Nat := 0xFF
  /-- VF field of the request that BUSY stands for. -/
  mbxReqVf : Nat := 0xFF
  mbxLen : Nat := 0
  mbxBusy : Bool := false
  mbxDone : Bool := false
  mbxResp : Nat := 0
  mbxIn : Mem := []
  mbxOut : Mem := []
  freeze : Bool := false
  sessionsCtr : Word32 := 0
  opens : Word32 := 0
  closes : Word32 := 0
  sigFails : Word32 := 0
  reports : Word32 := 0
  refusedCtr : Word32 := 0
  deriving DecidableEq, Repr

/-- TRITON's keys, measurements, tables and sessions. -/
structure TritonVault where
  rom : Digest := 0
  tritonFw : Digest := 0
  seqFw : Digest := 0
  tritonSvn : Nat := 0
  seqSvn : Nat := 0
  /-- The signer table as loaded at this start, and as sealed in NVM. -/
  signers : List SignerSlot := slot0Only
  sealed : List SignerSlot := slot0Only
  /-- The slot 0 certificate chain in the SPDM format (R416). -/
  chain : List Byte := []
  /-- The private key of AK, while it is held (Table 11.2, R409). -/
  ak : Option Nat := none
  /-- Keys of Table 11.2 stand erased in the current start. -/
  erased : Bool := true
  conn : Map Nat := []
  sessions : List Session := []
  nextSession : Nat := 1
  /-- (session, domain, the key slot is erased) of a DOMAIN_CLOSE whose response is not collected. -/
  closes : List (Nat × Nat × Bool) := []
  snap : Option Snapshot := none
  copying : Bool := false
  deferred : List Deferred := []
  /-- TDI state of each VF: 0 unlocked, 1 LOCKED, 2 RUN, 3 ERROR (R417). -/
  tdi : Map Nat := []
  deriving DecidableEq, Repr

/-! ### JANUS -/

/-- A port's STATE (Table 12.14). -/
inductive PortState where
  | off | calibrating | training | noPeer | attesting | keys | up | attestFailed
  deriving DecidableEq, Repr

/-- A handshake in progress (R448, R449). -/
structure Handshake where
  ours : HelloMsg
  theirs : Option HelloMsg := none
  proofOk : Bool := false
  /-- Given up, and the ORBIT at which it was (R449). -/
  failed : Bool := false
  failedAt : Nat := 0
  deriving DecidableEq, Repr

/-- A frame held for sending (R447). -/
structure TxFrame where
  hdr : FrameHdr
  msgs : List JMsg
  binding : Nat
  part : Nat
  fwd : Bool
  order : Nat
  hseq : Nat := 0
  replays : Nat := 0
  /-- A LINK frame's unit, and the port whose hop buffer holds a forwarded frame. -/
  link : Option LinkUnit := none
  inp : Option Nat := none
  deriving DecidableEq, Repr

/-- One JANUS port (R444 to R447, R460 to R468). -/
structure JPort where
  state : PortState := .off
  synced : Bool := false
  lastCause : Nat := 0
  peer : Nat := 0
  uid : Nat := 0
  rtt : Nat := 0
  lanes : Map (Bool × Nat × Nat) := []
  hs : Option Handshake := none
  hopKey : Bool := false
  /-- SEQ of the next LINK frame, and the key's replacements (R443). -/
  linkSeq : Nat := 0
  hopKeys : Nat := 0
  /-- HSEQ of the next frame sent, and of the next frame expected. -/
  txHseq : Nat := 0
  rxHseq : Nat := 0
  replay : List TxFrame := []
  /-- Frames of the replay buffer due again from the front. -/
  replaying : Nat := 0
  nakDue : Bool := false
  nakSeen : Bool := false
  linkDue : Bool := false
  /-- Hop credits held towards the peer: reserved per class, shared, and shared drawn per class. -/
  credits : List Nat := [32, 32, 32, 32]
  shared : Nat := 896
  drawn : List Nat := [0, 0, 0, 0]
  /-- Credits to return, per class. -/
  returns : List Nat := [0, 0, 0, 0]
  queue : List TxFrame := []
  altFwd : Bool := false
  lastPart : Nat := 0
  lastBinding : Nat := 0
  /-- The last LINK frame received: DIST, SYNCED, T_TX, T_ECHO, T_HOLD and t_rx. -/
  link : Option (LinkUnit × Nat) := none
  freeze : Bool := false
  ctr : List Word32 := List.replicate 9 0
  deriving DecidableEq, Repr

/-- A peer session (R450, R475). STATE: 0 none, 1 handshaking, 2 UP, 3 down. -/
structure PeerSession where
  state : Nat := 0
  uid : Nat := 0
  /-- ROLE of the peer's HELLO (R448). -/
  role : Nat := 0
  hs : Option Handshake := none
  /-- Opened as the side with the lower peer ID. -/
  lo : Bool := false
  txSeq : Nat := 0
  rxSeq : Nat := 0
  lastTx : Nat := 0
  lastRx : Nat := 0
  /-- Frames that wait for a gap: (SEQ, messages). -/
  early : List (Nat × List JMsg) := []
  prk : Key256 := 0
  deriving DecidableEq, Repr

/-- Binding states (Table 12.7). -/
inductive BState where
  | free | waiting | open_ | down | refused | closing | quarantine
  deriving DecidableEq, Repr

/-- One class of a binding: SEQ, grant and credit (R443, R456). -/
structure BClass where
  txSeq : Nat := 0
  rxSeq : Nat := 0
  /-- Grant given to the sender, and the slots it has used of it. -/
  grant : Nat := 0
  used : Nat := 0
  /-- Credit held as a sender, and the credit at open. -/
  credit : Nat := 0
  /-- Messages to send, each with its order, and the units of the first that are already sent. -/
  queued : List (Nat × JMsg) := []
  sentUnits : Nat := 0
  /-- Next port of the round robin (R445). -/
  rr : Nat := 0
  /-- ORBIT at which nothing was left queued, and at which the oldest gap opened. -/
  idleSince : Nat := 0
  gapSince : Nat := 0
  demandRx : Bool := false
  demandTx : Bool := false
  toReturn : Nat := 0
  /-- Frames that wait for a gap: (SEQ, messages, units). -/
  early : List (Nat × List JMsg × Nat) := []
  txKeys : Nat := 0
  rxKeys : Nat := 0
  deriving DecidableEq, Repr

/-- One binding (R451 to R456). -/
structure Binding where
  state : BState := .free
  kind : Nat := 0
  keyGen : Nat := 0
  part : Nat := 0
  peer : Nat := 0
  remotePart : Nat := 0
  domain : Nat := 0
  remoteDomain : Nat := 0
  remote : Nat := 0
  minSlots : Nat := 0
  maxSlots : Nat := 0
  data : BClass := {}
  ctrl : BClass := {}
  /-- ORBIT at which CLOSING or QUARANTINE began. -/
  since : Nat := 0
  deriving DecidableEq, Repr

/-- A route entry (R475). -/
structure Route where
  valid : Bool := false
  mask : Nat := 0
  deriving DecidableEq, Repr

/-- JANUS (chapter 12). -/
structure Janus where
  ports : List JPort := List.replicate 16 {}
  sessions : Map PeerSession := []
  bindings : Map Binding := []
  /-- Offers that mirror no request: peer, offer, arrival (R452). -/
  offers : List (Nat × Offer × Nat) := []
  routes : Map Route := []
  freeze : Bool := false
  arg0 : Nat := 0
  arg1 : Nat := 0
  arg2 : Nat := 0
  op : Nat := 0
  bindingArg : Nat := 0
  done : Bool := false
  result : Nat := 0
  number : Nat := 0
  sel : Nat := 0
  /-- ORBIT synchronisation: SYNCED, parent port, DIST, last offset, run of good results. -/
  synced : Bool := false
  parent : Nat := 0
  dist : Nat := 0xFF
  offset : Int := 0
  good : Nat := 0
  /-- MCLK cycles still to run at half rate, the slew still to make, and the cycles counted towards its next
  tick (R461). -/
  half : Nat := 0
  slew : Int := 0
  slewCnt : Nat := 0
  order : Nat := 0
  ctr : List Word32 := List.replicate 8 0
  deriving DecidableEq, Repr

end Sys2Proof.Machine
end

