-- ==== Sys2Proof/Machine/State.lean ====
section
/-! DEFINITION. The state of the JL4096-M72 as plain data: every register, buffer, counter, mode and pin
the manual gives the device, the queue of waiting commands, and the state after reset. -/

namespace Sys2Proof.Machine

/-- Architecture level, structure settings and the identity registers of the GLB block. -/
structure Global where
  level : Nat := 0
  locked : Bool := false
  bsState : BsState := .notLoaded
  bsReason : Nat := 0
  bsFrame : Nat := 0
  cfg : StructCfg := {}
  deriving DecidableEq, Repr

/-- The device. -/
structure State where
  /-- Waiting commands, first in, first out. -/
  pending : List Instr
  glb : Global
  start : Start
  nvm : Nvm
  fuses : Fuses
  lc : Nat
  pwr : Power
  clk : Clk
  orbit : Orbit
  roo : Roo
  sdg : Sdg
  host : HostIf
  dir : Dir
  train : TrainRegs
  par : ParRegs
  parts : Map Part
  mul : MulRegs
  quads : List Quad
  hbm : List Stack
  /-- Host-tier units, as host memory holds them, keyed by unit index (R233). -/
  hostTier : Map HostUnit
  tri : Triton
  vault : TritonVault
  jan : Janus
  /-- Draws made of the free values (the model's own counter). -/
  fresh : Nat
  /-- What the last read or request answered (the model's own record). -/
  reply : Answer
  deriving DecidableEq, Repr

/-- Why the device's step stops with a fault: no command of this model stops so. -/
inductive Fault where
  /-- Never raised: the manual names no condition that stops the device (safe). -/
  | none
  deriving DecidableEq, Repr

/-- Why a step has no meaning. -/
inductive Refusal where
  /-- Raised by exec for a command with no meaning yet (safe: no next state is claimed). -/
  | notModelled (mnemonic : String)
  deriving DecidableEq, Repr

/-- The device at the trigger of the POWER_ON cold reset: PWRGD released, PERST_N asserted, every
register at its Reset value, every memory empty (R598, R600, R616). -/
def State.reset : State :=
  { pending := []
    glb := {}
    start := { cause := 0x01 }
    nvm := {}
    fuses := {}
    lc := 1
    pwr := {}
    clk := { locked := false, cur := 3, vdd := 620, dom := List.replicate 4 stoppedDom ++ [{ src := 1, cur := 1, want := 1 }] }
    orbit := {}
    roo := {}
    sdg := {}
    host := {}
    dir := {}
    train := {}
    par := {}
    parts := []
    mul := {}
    quads := List.replicate 8 {}
    hbm := List.replicate 8 {}
    hostTier := []
    tri := {}
    vault := {}
    jan := {}
    fresh := 0
    reply := .none }

end Sys2Proof.Machine
end

