-- ==== Sys2Proof/Machine/Ops.lean ====
section
/-! DEFINITION. Named operations over the state: access to units, free values, firing a source and
raising an event (chapter 14), host memory, and a command's final status (chapter 13). -/

namespace Sys2Proof.Machine

/-! ### Access to units -/

/-- Quadrant `q`. -/
def State.quad (s : State) (q : Nat) : Quad := s.quads.getD q {}
/-- Change quadrant `q`. -/
def State.modQuad (s : State) (q : Nat) (f : Quad → Quad) : State := { s with quads := s.quads.modify q f }
/-- A tile. -/
def State.tile (s : State) (t : TileId) : Tile := mget {} (s.quad t.q).tiles t.t
/-- Change a tile. -/
def State.modTile (s : State) (t : TileId) (f : Tile → Tile) : State :=
  s.modQuad t.q (fun q => { q with tiles := mmod {} q.tiles t.t f })
/-- Stack `k`. -/
def State.stack (s : State) (k : Nat) : Stack := s.hbm.getD k {}
/-- Change stack `k`. -/
def State.modStack (s : State) (k : Nat) (f : Stack → Stack) : State := { s with hbm := s.hbm.modify k f }
/-- Partition `p`. -/
def State.part (s : State) (p : Nat) : Part := mget {} s.parts p
/-- Change partition `p`. -/
def State.modPart (s : State) (p : Nat) (f : Part → Part) : State := { s with parts := mmod {} s.parts p f }
/-- The directory entry of handle `h`. -/
def State.entry (s : State) (h : Nat) : DirEntry := mget {} s.dir.entries h
/-- Change a directory entry. -/
def State.modEntry (s : State) (h : Nat) (f : DirEntry → DirEntry) : State :=
  { s with dir := { s.dir with entries := mmod {} s.dir.entries h f } }
/-- Domain `d`. -/
def State.dom (s : State) (d : Nat) : Domain := mget {} s.dir.domains d
/-- Change a domain. -/
def State.modDom (s : State) (d : Nat) (f : Domain → Domain) : State :=
  { s with dir := { s.dir with domains := mmod {} s.dir.domains d f } }
/-- Training slot `k` of partition `p`. -/
def State.slot (s : State) (p k : Nat) : TrSlot := mget {} s.train.slots (p * 16 + k)
/-- Change a training slot. -/
def State.modSlot (s : State) (p k : Nat) (f : TrSlot → TrSlot) : State :=
  { s with train := { s.train with slots := mmod {} s.train.slots (p * 16 + k) f } }
/-- ORBIT now. -/
def State.now (s : State) : Nat := s.orbit.val

/-- Key of a function in the maps: 0 for the PF, v + 1 for VF v. -/
def fnKey : Fn → Nat
  | .pf => 0
  | .vf v => v + 1

/-- The function of a key. -/
def fnOf : Nat → Fn
  | 0 => .pf
  | v + 1 => .vf v

/-- Queue `q` of a function. -/
def State.queue (s : State) (fn : Fn) (q : Nat) : Queue := mget {} s.host.queues (fnKey fn * 64 + q)
/-- Change a queue. -/
def State.modQueue (s : State) (fn : Fn) (q : Nat) (f : Queue → Queue) : State :=
  { s with host := { s.host with queues := mmod {} s.host.queues (fnKey fn * 64 + q) f } }
/-- The event ring of a function. -/
def State.ring (s : State) (fn : Fn) : EventRing := mget {} s.host.rings (fnKey fn)
/-- Change an event ring. -/
def State.modRing (s : State) (fn : Fn) (f : EventRing → EventRing) : State :=
  { s with host := { s.host with rings := mmod {} s.host.rings (fnKey fn) f } }

/-- Draw a free value of `w` bits (log entry 4). -/
def State.draw (s : State) (w : Nat) : BitVec w × State := (Config.free w s.fresh, { s with fresh := s.fresh + 1 })

/-- The partition bound to VF `v`. -/
def State.partOfVf (s : State) (v : Nat) : Option Nat :=
  (s.parts.find? (fun kp => kp.2.vf == some v)).map Prod.fst

/-- The function a partition's VF is. -/
def State.fnOfPart (s : State) (p : Nat) : Option Fn := (s.part p).vf.map Fn.vf

/-- The level that records carry (R486, R510): the selected one, or the lowest supported, 1. -/
def State.recLevel (s : State) : Nat := if s.glb.level = 0 then 1 else s.glb.level

/-! ### Timed bits (R520) -/

/-- Changes that a decision can still look back to. -/
def pruneHist (t : Nat) (h : List (Nat × Bool)) : List (Nat × Bool) :=
  h.takeWhile (fun p => t < p.1 + 16) ++ (h.dropWhile (fun p => t < p.1 + 16)).take 1

/-- Write a bit at tick `t`. -/
def TBit.write (b : TBit) (t : Nat) (v : Bool) : TBit :=
  if v = b.now then b else { now := v, hist := (t, v) :: pruneHist t b.hist }

/-- The bit as it stood at tick `t`. -/
def TBit.at_ (b : TBit) (t : Nat) : Bool :=
  match b.hist.find? (fun p => decide (p.1 ≤ t)) with
  | some (_, v) => v
  | none => match b.hist.getLast? with
    | some (_, v) => !v
    | none => b.now

/-! ### Sources (R517, R518) -/

/-- Sources delivered to the PF on SDG_SRC_CFGn (R517). -/
def pfSource (n : Nat) : Bool := decide (n < 0x180) || (decide (0x380 ≤ n) && decide (n < 0x3C0))
/-- Sources delivered to TRITON. -/
def triSource (n : Nat) : Bool := n == 0x180 || n == 0x181
/-- Ring sources. -/
def ringSource (n : Nat) : Bool := decide (0x200 ≤ n) && decide (n ≤ 0x300)
/-- Reserved sources never fire. -/
def reservedSource (n : Nat) : Bool :=
  (decide (0x12A ≤ n) && decide (n < 0x180)) || (decide (0x182 ≤ n) && decide (n < 0x200)) ||
  (decide (0x301 ≤ n) && decide (n < 0x380)) || decide (0x395 ≤ n)

/-- The function whose ring fires source `n`. -/
def State.ringFn (s : State) (n : Nat) : Option Fn :=
  if n = 0x300 then some .pf else s.fnOfPart (n - 0x200)

/-- Is a source's ENABLE set (R516 to R518)? -/
def State.srcEnabled (s : State) (n : Nat) : Bool :=
  if triSource n then true
  else if ringSource n then
    match s.ringFn n with
    | some fn => (s.ring fn).irqEn && (s.ring fn).state != .off
    | none => false
  else pfSource n && (mget {} s.sdg.cfg n).enable

/-- Table 14.4, column Fire; the second part says whether the fire coalesced. -/
def Source.fire (t : Nat) (c : Source) : Source × Bool :=
  match c.phase with
  | .inactive => ({ c with phase := .pending, firstFire := t }, false)
  | .pending => ({ c with coalesced := min 0xFFFF (c.coalesced + 1) }, true)
  | .active => ({ c with phase := .activePending, firstFire := t }, false)
  | .activePending => ({ c with coalesced := min 0xFFFF (c.coalesced + 1) }, true)

/-- Table 14.4, column EOI. -/
def Source.eoi (c : Source) : Source :=
  match c.phase with
  | .active => { c with phase := .inactive }
  | .activePending => { c with phase := .pending }
  | _ => c

/-- Clearing ENABLE: a PENDING source returns to INACTIVE, an ACTIVE_PENDING one to ACTIVE (R518). -/
def Source.withdraw (c : Source) : Source :=
  match c.phase with
  | .pending => { c with phase := .inactive }
  | .activePending => { c with phase := .active }
  | _ => c

/-- Source `n` fires (R518). COALESCED and SDG_COALESCED hold while FREEZE is 1 (R530). -/
def State.fire (s : State) (n : Nat) : State :=
  if reservedSource n || !s.srcEnabled n then s
  else
    let c := mget {} s.sdg.src n
    let r := c.fire s.now
    let c' := if r.2 && s.sdg.freeze then c else r.1
    { s with sdg := { s.sdg with
        src := mset {} s.sdg.src n c',
        coalesced := if r.2 then bump s.sdg.freeze s.sdg.coalesced else s.sdg.coalesced } }

/-! ### Events (R510 to R512) -/

/-- Order of the reorder buffer: ascending ORBIT, then ascending SOURCE. -/
def Event.le (a b : Event) : Bool := decide (a.orbit < b.orbit) || (a.orbit == b.orbit && decide (a.source ≤ b.source))

/-- Mark every running ring so that its next record carries LOST (R512). -/
def lostAll (m : Map EventRing) : Map EventRing :=
  m.map (fun p => if p.2.state = .running then (p.1, { p.2 with lostFlag := true }) else p)

/-- Raise an event and fire its source. A full reorder buffer drops the event (R512). -/
def State.raise (s : State) (code source part : Nat) (a0 : Nat := 0) (a1 : Nat := 0)
    (a2 : Nat := 0) (a3 : Nat := 0) : State :=
  let e : Event := ⟨s.now, code, s.recLevel, source, s.jan.synced, part, a0, a1, a2, a3⟩
  let s1 :=
    if s.sdg.reorder.length ≥ Config.reorderEntries then
      { s with
        sdg := { s.sdg with evLost := bump s.sdg.freeze s.sdg.evLost },
        host := { s.host with rings := lostAll s.host.rings } }
    else { s with sdg := { s.sdg with reorder := insertBy Event.le e s.sdg.reorder } }
  s1.fire source

/-- The source number of tile `t` of quadrant `q` (Table 14.3). -/
def tileSource (t : TileId) : Nat := 32 * t.q + t.t

/-! ### Host memory (R482) -/

/-- Does every byte of the range answer? -/
def State.hostOk (s : State) (a n : Nat) : Bool :=
  s.host.fails.all (fun r => decide (a + n ≤ r.1) || decide (r.1 + r.2 ≤ a))

/-- Read host memory; none where a read fails. -/
def State.hostRead (s : State) (a n : Nat) : Option (List Byte) :=
  if s.hostOk a n then some (Mem.readN s.host.mem a n) else none

/-- Write host memory. -/
def State.hostWrite (s : State) (a : Nat) (bs : List Byte) : State :=
  { s with host := { s.host with mem := Mem.writeN s.host.mem a bs } }

/-! ### MSI-X (R519 to R523, R532) -/

/-- Table entries of a function (R532): 2,048 for the PF, VECTORS for a bound VF, one otherwise. -/
def State.vectorsOf (s : State) (fn : Fn) : Nat :=
  match fn with
  | .pf => Config.pfVectors
  | .vf v => match s.partOfVf v with
    | some p => (s.part p).vectors
    | none => 1

/-- The table entry of a vector. -/
def State.msixEntry (s : State) (fn : Fn) (v : Nat) : MsixEntry := mget {} s.host.msix (fnKey fn * 2048 + v)

/-- Is a vector masked at tick `t` (vector mask or Function Mask)? -/
def State.vecMasked (s : State) (fn : Fn) (v t : Nat) : Bool :=
  (s.msixEntry fn v).mask.at_ t || (mget {} s.host.fmask (fnKey fn)).at_ t

/-- Send one MSI-X memory write. -/
def State.sendMsix (s : State) (fn : Fn) (v : Nat) : State :=
  let e := s.msixEntry fn v
  s.hostWrite e.addr (leBytes 4 e.data)

/-- Order of held completion messages: function, then vector (R522). -/
def heldLe (a b : Nat × Nat) : Bool := decide (a.1 < b.1) || (a.1 == b.1 && decide (a.2 ≤ b.2))

/-- A completion message: discarded, sent, or held with one pending bit per vector (R522, R523, R532). -/
def State.completionMsg (s : State) (fn : Fn) (v : Nat) : State :=
  if s.vectorsOf fn ≤ v then s.fire 0x124
  else
    let t := s.now - 16
    if s.sdg.gdis.at_ t || s.vecMasked fn v t then
      if s.sdg.held.contains (fnKey fn, v) then s
      else { s with sdg := { s.sdg with held := insertBy heldLe (fnKey fn, v) s.sdg.held } }
    else s.sendMsix fn v

/-! ### NV fields -/

/-- The live NV fields, as bytes 0x10 to 0x33 of a settings page (Table 17.7). -/
def State.nvFields (s : State) : List Byte :=
  let n := s.clk.settleN
  let hbm := (List.range 8).flatMap (fun k => leBytes 1 (s.stack k).scrubPeriod ++ leBytes 1 (b2n (s.stack k).scrubEnable))
  leBytes 1 n ++ leBytes 1 (255 - n) ++ [byte 0x5A, byte 0xA5] ++ leBytes 2 s.pwr.limit ++
    leBytes 1 (b2n s.roo.wakeNEn) ++ leBytes 1 0 ++ leBytes 4 s.mul.timeout ++ leBytes 4 s.train.timeout ++
    leBytes 2 s.par.block ++ leBytes 2 0 ++ hbm

/-! ### Commands in flight -/

/-- The command a reference names. -/
def State.cmd (s : State) (j : JobRef) : Option Cmd := s.host.cmds.find? (fun c => c.job == j)

/-- Change a command. -/
def State.modCmd (s : State) (j : JobRef) (f : Cmd → Cmd) : State :=
  { s with host := { s.host with cmds := s.host.cmds.map (fun c => if c.job = j then f c else c) } }

/-- Fix a command's final status (R495); a status fixed earlier stands. -/
def Cmd.finish (c : Cmd) (status : Nat) (detail : Nat := 0) : Cmd :=
  if c.phase = .final then c else { c with phase := .final, status := status, detail := detail }

/-- Fix the final status of command `j`. -/
def State.finish (s : State) (j : JobRef) (status : Nat) (detail : Nat := 0) : State :=
  s.modCmd j (fun c => c.finish status detail)

/-- An accepted command of an opcode that has not taken effect. -/
def State.fresh? (s : State) (j : JobRef) (op : Nat) : Option Cmd :=
  match s.cmd j with
  | some c => if c.op = op && c.phase == .accepted then some c else none
  | none => none

/-- WAIT_PREV holds a command until the one accepted before it from its queue has completed (R494). -/
def State.waitOk (s : State) (c : Cmd) : Bool :=
  !(bitOf c.flags 0 && s.host.cmds.any (fun d => d.job.fn == c.job.fn && d.q == c.q && decide (d.order < c.order)
    && d.phase != .final))

/-- Is an accepted command due: not yet in effect and not held by WAIT_PREV (R494)? -/
def State.due (s : State) (j : JobRef) (op : Nat) : Option Cmd :=
  match s.fresh? j op with
  | some c => if s.waitOk c then some c else none
  | none => none

/-- A parameter of the descriptor (Table 13.8). -/
def Cmd.param (c : Cmd) (off n : Nat) : Nat := fieldAt c.desc off n

/-- Status codes (Table 13.7). -/
def stOk : Nat := 0x00
def stAlreadyDone : Nat := 0x01
def stAborted : Nat := 0x02
def stReserved : Nat := 0x03
def stVersion : Nat := 0x04
def stFrozen : Nat := 0x05
def stSlotBusy : Nat := 0x06
def stStale : Nat := 0x07
def stEvicted : Nat := 0x08
def stBaseRetired : Nat := 0x09
def stBaseMismatch : Nat := 0x0A
def stFnDisabled : Nat := 0x0B
def stDomainFault : Nat := 0x0C
def stRolledBack : Nat := 0x0D
def stEcc : Nat := 0x0E

/-! ### References (R297, R344) -/

/-- Release every reference a command holds. -/
def State.dropRefs (s : State) (c : Cmd) : State :=
  (c.refs.foldl (fun s h => s.modEntry h.1 (fun e => { e with jobs := e.jobs - 1 })) s).modCmd c.job
    (fun c => { c with refs := [] })

/-! ### Closing a binding (R453) -/

/-- CLOSING begins: CLOSE is queued where the binding is OPEN. A FREE, CLOSING or QUARANTINE binding is left. -/
def State.closeBinding (s : State) (b : Nat) : State :=
  let x := mget {} s.jan.bindings b
  match x.state with
  | .free => s
  | .closing => s
  | .quarantine => s
  | _ =>
    let n := s.jan.order
    let q := if x.state = .open_ then x.ctrl.queued ++ [(n, .close)] else []
    State.fire (n := 0x120) { s with jan := { s.jan with
      order := n + 1
      bindings := mset {} s.jan.bindings b { x with state := .closing, since := s.now, ctrl := { x.ctrl with queued := q } } } }

/-- The device is past the start (R604), or halted where the PF is served (R608). -/
def State.isReady (s : State) : Bool := s.start.result == 1
/-- Halted at NVM, STRUCTURE, WIPE, SELFTEST or ATTEST (R608). -/
def State.haltServed (s : State) : Bool := s.start.result == 2 && decide (8 ≤ s.start.stage)

/-! ### Who is served (R476, R604, R608) -/

/-- Do PF BAR0's early blocks answer: HOST_LINK has begun, and the dies are powered (R601, R604)? -/
def State.hostUp (s : State) : Bool :=
  s.pwr.main == .on && !s.pwr.perst && s.clk.pm != .l3 && (s.start.result != 0 || decide (3 ≤ s.start.at_))

/-- Does a function exist on the link (R476)? -/
def State.fnLive (s : State) : Fn → Bool
  | .pf => true
  | .vf v => s.host.vfEnable && decide (v < s.host.numVfs) && !s.host.flr.contains v

/-- Do the function's queue registers and doorbells act (R604, R608)? -/
def State.served (s : State) (fn : Fn) : Bool :=
  s.fnLive fn && (s.isReady || (s.haltServed && fn == .pf))

/-- Leaving L2 begins at its first trigger (R584); one that comes during the entry counts when L2 is reached. -/
def State.l2Wake (s : State) : State :=
  match s.clk.pm with
  | .l2 => { s with clk := { s.clk with pm := .exiting } }
  | .entering => { s with clk := { s.clk with wakePending := true } }
  | _ => s

end Sys2Proof.Machine
end

