-- ==== Sys2Proof/Machine/Errors.lean ====
section
/-! DEFINITION. What a corrected and an uncorrectable word raise where they are read: the counters of the
unit and its events (R208, R209). -/

namespace Sys2Proof.Machine

/-! ### Error counters (R208, R209) -/

/-- A unit that reads words. -/
inductive EccUnit where
  | tile (t : TileId)
  | buf (q : Nat)
  | stack (k : Nat)
  deriving DecidableEq, Repr

/-- The source of a unit (Table 14.3). -/
def EccUnit.source : EccUnit → Nat
  | .tile t => tileSource t
  | .buf q => 0x100 + q
  | .stack k => 0x108 + k

/-- EV_ECC_CE is due for the first correction since the last clear and at each multiple of 1,024. -/
def ceDue (n : Nat) : Bool := n == 1 || n % 1024 == 0

/-- Count one corrected error of a location class: the counter, and the corrections since its last clear. A tile
register word (class 3) is no scratchpad word, so TILE_SP_CE does not count it (R237). -/
def State.countCe (s : State) (cls : Nat) : EccUnit → State × Nat × Nat
  | .tile t =>
    let s1 := s.modTile t (fun x => { x with scratch := { x.scratch with
      ce := bump (x.scratch.freeze || cls == 3) x.scratch.ce, ceSince := x.scratch.ceSince + 1 } })
    (s1, (s1.tile t).scratch.ce.toNat, (s1.tile t).scratch.ceSince)
  | .buf q =>
    let s1 := s.modQuad q (fun x => { x with qb := { x.qb with ce := bump x.qb.freeze x.qb.ce, ceSince := x.qb.ceSince + 1 } })
    (s1, (s1.quad q).qb.ce.toNat, (s1.quad q).qb.ceSince)
  | .stack k =>
    let s1 := s.modStack k (fun x => { x with ce := bump x.freeze x.ce, ceSince := x.ceSince + 1 })
    (s1, (s1.stack k).ce.toNat, (s1.stack k).ceSince)

/-- A corrected error of a location class (Table 14.2). -/
def State.noteCe (s : State) (u : EccUnit) (cls part : Nat) : State :=
  let r := s.countCe cls u
  if ceDue r.2.2 then r.1.raise 0x08 u.source part r.2.1 cls else r.1

/-- An uncorrectable word: counted where the unit has a counter, and EV_ECC_UE. -/
def State.noteUe (s : State) (u : EccUnit) (cls part job loc : Nat) : State :=
  let s1 := match u with
    | .tile t => if cls = 3 then s else s.modTile t (fun x => { x with scratch := { x.scratch with ue := bump x.scratch.freeze x.scratch.ue } })
    | .buf q => s.modQuad q (fun x => { x with qb := { x.qb with ue := bump x.qb.freeze x.qb.ue } })
    | .stack k => s.modStack k (fun x => { x with ue := bump x.freeze x.ue })
  s1.raise 0x09 u.source part job cls loc

end Sys2Proof.Machine
end

