-- ==== Sys2Proof/Machine/StackOps.lean ====
section
/-! DEFINITION. Operations over a partition's stacked memory and host tier: regions and the partition
memory address (R220 to R222), page attributes and zero-fill (R223, R229), inline encryption (R227, R228),
dirty logging (R231), placement of data by commands, and the units of the host tier (R233, R234). -/

namespace Sys2Proof.Machine

/-! ### Shape of a partition -/

/-- Tiles of a partition in logical order (R61, R392). -/
def Part.tiles (p : Part) : List TileId := p.quads.flatMap (fun k => k.tiles.map (fun t => ⟨k.pq, t⟩))
/-- Logical number of a tile. -/
def Part.logical (p : Part) (t : TileId) : Option Nat := p.tiles.idxOf? t
/-- Logical quadrant of a physical quadrant. -/
def Part.lqOf (p : Part) (q : Nat) : Option Nat := p.quads.findIdx? (fun k => k.pq == q)
/-- Logical quadrant `lq`. -/
def Part.quadAt (p : Part) (lq : Nat) : PQuad := p.quads.getD lq ⟨0, [], [], [], [], []⟩
/-- Pinned contexts (R372). -/
def Part.pinned (p : Part) : Nat := p.resv / p.s
/-- Resident capacity (R371). -/
def Part.cRes (p : Part) : Nat := min 8 (16 / p.s)
/-- A loaded set, retired or not. -/
def Part.set? (p : Part) (n : Nat) : Option CfgSet := p.sets.find? (fun c => c.num == n)
/-- Change set `n`. -/
def Part.modSet (p : Part) (n : Nat) (f : CfgSet → CfgSet) : Part :=
  { p with sets := p.sets.map (fun c => if c.num = n then f c else c) }
/-- The partition that owns a tile. -/
def State.ownerOf (s : State) (t : TileId) : Option Nat :=
  (s.parts.find? (fun kp => kp.2.tiles.contains t)).map Prod.fst
/-- Is `d` in the partition's domain range? -/
def Part.hasDomain (p : Part) (d : Nat) : Bool := decide (p.domBase ≤ d) && decide (d < p.domBase + p.domCount)
/-- The partition of a domain. -/
def State.partOfDomain (s : State) (d : Nat) : Option Nat :=
  (s.parts.find? (fun kp => kp.2.hasDomain d)).map Prod.fst
/-- In range and open (R282). -/
def State.domainOk (s : State) (p d : Nat) : Bool :=
  (s.part p).hasDomain d && (s.dom d).open_ && !(s.dom d).closing

/-! ### Regions (Table 6.7) -/

/-- First page and pages of a region in each pseudo-channel. -/
def regionPages (c : StructCfg) (r : Nat) : Nat × Nat :=
  let b := 8 * c.baseGib
  let a := 8 * c.adapterGib
  let st := 8 * c.stashGib
  let cf := ceilDiv c.cfgStoreMib 128
  match r with
  | 0 => (0, b)
  | 1 => (b, a)
  | 2 => (b + a, st)
  | 3 => (b + a + st, cf)
  | 4 => (b + a + st + cf, 576 - (b + a + st + cf))
  | _ => (0, 0)

/-- Bytes of a partition's part of a region in a logical quadrant. -/
def State.regionBytes (s : State) (p lq r : Nat) : Nat :=
  (regionPages s.glb.cfg r).2 * Config.pageBytes * ((s.part p).quadAt lq).pchs.length

/-- Where a line of stacked memory lies. -/
structure LineLoc where
  stack : Nat
  pch : Nat
  page : Nat
  line : Nat
  deriving DecidableEq, Repr

/-- The mapping of R222; none where R221 refuses. -/
def State.pma (s : State) (p lq r off : Nat) : Option LineLoc :=
  let part := s.part p
  let k := part.quadAt lq
  let n := k.pchs.length
  if part.quads.length ≤ lq || 5 ≤ r || s.regionBytes p lq r ≤ off || n = 0 then none
  else
    let u := off / 256
    let byte := (regionPages s.glb.cfg r).1 * Config.pageBytes + u / n * 256 + off % 256
    some ⟨k.pq, k.pchs.getD (u % n) 0, byte / Config.pageBytes, byte / 64⟩

/-- The line that a 64-bit partition memory address names (Table 6.8); none where R221 refuses it. -/
def State.pmaWord (s : State) (p w : Nat) : Option LineLoc :=
  if bitsOf w 56 8 != 0 || bitsOf w 48 4 != 0 then none else s.pma p (bitsOf w 45 3) (bitsOf w 52 4) (bitsOf w 0 45)

/-- Key of a page, and of a line, in a stack's maps. -/
def LineLoc.pageKey (l : LineLoc) : Nat := l.pch * 576 + l.page
def LineLoc.lineKey (l : LineLoc) : Nat := l.pch * 2 ^ 25 + l.line

/-- The XTS tweak of a line (R227). -/
def LineLoc.tweak (l : LineLoc) : Nat := l.line + l.pch * 2 ^ 25 + l.stack * 2 ^ 31

/-- The attributes of page `page` of a pseudo-channel. Base region pages are always FROZEN (R223). -/
def State.pageAttr (s : State) (k pch page : Nat) : PageAttr :=
  let a := mget {} (s.stack k).pages (pch * 576 + page)
  { a with frozen := a.frozen || decide (page < 8 * s.glb.cfg.baseGib) }

/-- The page attributes of a line's page. -/
def State.attr (s : State) (l : LineLoc) : PageAttr := s.pageAttr l.stack l.pch l.page

/-- The partition that owns a pseudo-channel. -/
def State.pchOwner (s : State) (k pch : Nat) : Option Nat :=
  (s.parts.find? (fun kp => kp.2.quads.any (fun q => q.pq == k && q.pchs.contains pch))).map Prod.fst

/-- Is dirty logging on for the owner of a pseudo-channel (R231)? -/
def State.logs (s : State) (k pch : Nat) : Bool :=
  match s.pchOwner k pch with
  | some p => (s.part p).logging
  | none => false

/-- Store one line as the cells hold it, setting the page's dirty bit while logging is on. -/
def State.storeRaw (s : State) (l : LineLoc) (v : StackLine) : State :=
  let log := s.logs l.stack l.pch
  s.modStack l.stack (fun k => { k with
    lines := mset {} k.lines l.lineKey v,
    dirty := if log then mset false k.dirty l.pageKey true else k.dirty })

/-- An access is logged (R231): set the page's dirty bit. -/
def State.logPage (s : State) (k pch page : Nat) : State :=
  if s.logs k pch then s.modStack k (fun st => { st with dirty := mset false st.dirty (pch * 576 + page) true }) else s

/-- The line stored. -/
def State.getLine (s : State) (l : LineLoc) : StackLine := mget {} (s.stack l.stack).lines l.lineKey

/-- The root of the key that encrypts a line's page (R223, R227): the domain root, or the partition key where SHARED is 1. -/
def State.pageKey (s : State) (l : LineLoc) : Key256 :=
  if (s.attr l).shared then
    match s.pchOwner l.stack l.pch with
    | some p => (s.part p).key
    | none => 0
  else (s.dom (s.attr l).domain).kd

/-- The 512-bit XTS pair of a root key (Table 11.2; of the partition key, log entry 57). -/
def xtsPair (k : Key256) : List Byte := kdf (leBytes 32 k.toNat) "XTS" [] 512

/-- What the cells hold of a stored line: its ciphertext (R227). -/
def StackLine.cipher (v : StackLine) (tweak : Nat) : BitVec 512 :=
  match v.key with
  | none => v.data
  | some k => lineData (xtsLine (xtsPair k) tweak (leBytes 64 v.data.toNat))

/-- A ciphertext under a key. -/
def openCipher (k : Key256) (tweak : Nat) (c : BitVec 512) : BitVec 512 := lineData (xtsOpen (xtsPair k) tweak (leBytes 64 c.toNat))

/-- A stored line as the engine decrypts it under a key: its plaintext where that key encrypted it. -/
def StackLine.plain (v : StackLine) (k : Key256) (tweak : Nat) : BitVec 512 :=
  if v.key = some k then v.data else openCipher k tweak (v.cipher tweak)

/-- Write one line through the encryption engine: under its page's key where the page is VALID (R227). -/
def State.putLine (s : State) (l : LineLoc) (v : StackLine) : State :=
  s.storeRaw l { v with key := if (s.attr l).valid then some (s.pageKey l) else none }

/-- A line as a reader of its page sees it (R224, R228): CLEAR zeros where the page is not VALID. -/
def State.pageLine (s : State) (l : LineLoc) : Line :=
  let a := s.attr l
  if !a.valid then clearLine
  else
    let v := s.getLine l
    { data := v.plain (s.pageKey l) l.tweak, marks := v.marks, poison := 0, kind := if a.shared then .shared else .domain
      tag := if a.shared then 0 else a.domain * 2 ^ 20 }

/-! ### Reads (R206 to R209, R228) -/

/-- Marked words of a stored line, each an uncorrectable read. -/
def State.stackMarks (s : State) (l : LineLoc) (part job : Nat) : State :=
  ((List.range 8).filter (fun w => (s.getLine l).marks.testBit w)).foldl (fun (s : State) _ =>
    s.noteUe (.stack l.stack) 5 part job (l.pch * 576 + l.page)) s

/-- What the reads of a line's ciphertext words find: the words newly uncorrectable, and the ciphertext as decoded. -/
structure CipherRead where
  bad : Nat := 0
  data : BitVec 512
  deriving DecidableEq, Repr

/-- One upset met by a read of a stack line: its ciphertext word is checked (R206, R228). -/
def State.stackUpset (a : State × CipherRead) (l : LineLoc) (part job : Nat) (u : Upset) : State × CipherRead :=
  let c := a.2.data.toNat / 2 ^ (64 * u.word) % 2 ^ 64
  let put (d : Nat) : CipherRead := { a.2 with data := BitVec.ofNat 512 (a.2.data.toNat - c * 2 ^ (64 * u.word) + d * 2 ^ (64 * u.word)) }
  match eccRead c ((a.1.getLine l).marks.testBit u.word) u.mask with
  | .clean d => (a.1, put d)
  | .corrected d => (a.1.noteCe (.stack l.stack) 5 part, put d)
  | .uncorrectable _ =>
    if (a.1.getLine l).marks.testBit u.word then a
    else (a.1.noteUe (.stack l.stack) 5 part job (l.pch * 576 + l.page), { a.2 with bad := a.2.bad ||| 2 ^ u.word })

/-- The upsets met by a read of a stack line. -/
def State.stackUpsets (s : State) (l : LineLoc) (part job : Nat) (us : List Upset) : State × CipherRead :=
  us.foldl (fun a u => State.stackUpset a l part job u) (s, ⟨0, (s.getLine l).cipher l.tweak⟩)

/-- Read a line of a stack for a unit: the state with what its words raise, and the line delivered, its uncorrectable
words marked (R228). Without an upset that changes a word, the line is that of its page. -/
def State.stackRead (s : State) (l : LineLoc) (part job : Nat) (us : List Upset) : State × Line :=
  let v := s.pageLine l
  if !(s.attr l).valid then (s, v)
  else
    let s1 := s.stackMarks l part job
    if us.isEmpty then (s1, v)
    else
      let r := s1.stackUpsets l part job us
      (r.1, { v with marks := v.marks ||| r.2.bad, data := if r.2.data = (s.getLine l).cipher l.tweak then v.data else openCipher (s.pageKey l) l.tweak r.2.data })

/-! ### Pages (R223, R229) -/

/-- Set a page's attributes. -/
def State.setPage (s : State) (k pch page : Nat) (a : PageAttr) : State :=
  s.modStack k (fun st => { st with pages := mset {} st.pages (pch * 576 + page) a })

/-- Does a page wait for its zero-fill? -/
def State.zfPending (s : State) (k pch page : Nat) : Bool := (mget [] (s.stack k).zeroFill pch).contains page

/-- Set a page VALID 0 and queue its zero-fill (R229). -/
def State.dropPage (s : State) (k pch page : Nat) : State :=
  (s.setPage k pch page {}).modStack k (fun st => { st with
    zeroFill := mmod [] st.zeroFill pch (fun l => if l.contains page then l else l ++ [page]) })

/-- The pages of pseudo-channel stripes `[a, a + n)` of a region in one logical quadrant. -/
def State.stripePages (s : State) (p lq r a n : Nat) : List (Nat × Nat × Nat) :=
  let k := (s.part p).quadAt lq
  (List.range n).flatMap (fun i => k.pchs.map (fun c => (k.pq, c, (regionPages s.glb.cfg r).1 + a + i)))

/-- Set attributes over stripes. -/
def State.setStripes (s : State) (p lq r a n : Nat) (at_ : PageAttr) : State :=
  (s.stripePages p lq r a n).foldl (fun s x => s.setPage x.1 x.2.1 x.2.2 at_) s

/-- Drop stripes to the zero-fill. -/
def State.dropStripes (s : State) (p lq r a n : Nat) : State :=
  (s.stripePages p lq r a n).foldl (fun s x => s.dropPage x.1 x.2.1 x.2.2) s

/-- Bytes of one stripe of a logical quadrant. -/
def State.stripeBytes (s : State) (p lq : Nat) : Nat := ((s.part p).quadAt lq).pchs.length * Config.pageBytes

/-- Is a stripe free: no page VALID, none waiting for its zero-fill (R493)? -/
def State.stripeFree (s : State) (p lq r a : Nat) : Bool :=
  (s.stripePages p lq r a 1).all (fun x =>
    !(s.pageAttr x.1 x.2.1 x.2.2).valid && !s.zfPending x.1 x.2.1 x.2.2)

/-- Write lines into a region, from a multiple of 64. -/
def State.placeLines (s : State) (p lq r off : Nat) : List StackLine → State
  | [] => s
  | v :: vs =>
    let s1 := match s.pma p lq r off with
      | some a => s.putLine a v
      | none => s
    State.placeLines s1 p lq r (off + 64) vs

/-- Lines of data without uncorrectable words. -/
def cleanLines (ls : List (List Byte)) : List StackLine := ls.map (fun l => { data := lineData l })

/-- Write a byte string into a region, line by line, from a multiple of 64. -/
def State.placeBytes (s : State) (p lq r off : Nat) (ls : List (List Byte)) : State := s.placeLines p lq r off (cleanLines ls)

/-- A byte string cut into 64-byte lines. -/
def linesOf (bs : List Byte) : List (List Byte) := pieces 64 (bs.length + 1) bs

/-- A line of a region as its reader sees it. -/
def State.regionLine (s : State) (p lq r off : Nat) : Line :=
  match s.pma p lq r off with
  | some a => s.pageLine a
  | none => clearLine

/-- The lines of `n` bytes of a region. -/
def State.regionLines (s : State) (p lq r off n : Nat) : List Line :=
  (List.range (ceilDiv n 64)).map (fun i => s.regionLine p lq r (off + 64 * i))

/-- The bytes of lines. -/
def bytesOf (ls : List Line) : List Byte := ls.flatMap Line.bytes

/-- Bytes of a region. -/
def State.regionRead (s : State) (p lq r off n : Nat) : List Byte := (bytesOf (s.regionLines p lq r off n)).take n

/-- A line as it goes back into a stack: an uncorrectable word as a poison marker (R207). -/
def Line.toStack (l : Line) : StackLine := { data := l.data, marks := l.marks }

/-- What the uncorrectable words of `n` bytes of a region raise as a unit reads them (R209, R245). -/
def State.regionMarks (s : State) (p job lq r off n : Nat) : State :=
  (List.range (ceilDiv n 64)).foldl (fun (s : State) i => match s.pma p lq r (off + 64 * i) with
    | some a => if (s.attr a).valid then s.stackMarks a p job else s
    | none => s) s

/-- Bytes of one context's records in a logical quadrant: 114,688 for each share of each tile (R381). -/
def Part.recordBytes (x : Part) (lq : Nat) : Nat := (x.quadAt lq).tiles.length * x.s * 114688

/-- Bytes of the save area at the top of the general region (R381), in one logical quadrant. -/
def State.saveBytes (s : State) (p lq : Nat) : Nat :=
  let part := s.part p
  part.recordBytes lq * (if part.ctxCount ≤ part.cRes then 0 else part.ctxCount - part.pinned)

/-- The pages of a swappable context's place in the save area, as (pseudo-channel, page): the places stand in local-number
order, and 256-byte units go round the partition's pseudo-channels (R222, R381). -/
def State.savePages (s : State) (p lq ctx : Nat) : List (Nat × Nat) :=
  let part := s.part p
  let k := part.quadAt lq
  let n := k.pchs.length
  let u0 := (s.regionBytes p lq 4 - s.saveBytes p lq + part.recordBytes lq * (ctx - part.pinned)) / 256
  let u1 := u0 + part.recordBytes lq / 256
  let pageOf (u : Nat) : Nat := (regionPages s.glb.cfg 4).1 + u / n * 256 / Config.pageBytes
  k.pchs.zipIdx.flatMap (fun c =>
    let a := ceilDiv (u0 - c.2) n * n + c.2
    let z := (u1 - 1 - c.2) / n * n + c.2
    (List.range (pageOf z + 1 - pageOf a)).map (fun i => (c.1, pageOf a + i)))

/-- A context's save is logged as the writes of its records are (R231). -/
def State.logSave (s : State) (p ctx : Nat) : State :=
  let part := s.part p
  if part.logging && decide (part.pinned ≤ ctx) then
    part.quads.zipIdx.foldl (fun (s : State) k =>
      (s.savePages p k.2 ctx).foldl (fun (s : State) g => s.logPage k.1.pq g.1 g.2) s) s
  else s

/-- Stripes of a region in one pseudo-channel. -/
def State.regionStripes (s : State) (r : Nat) : Nat := (regionPages s.glb.cfg r).2

/-- Stripes of the general region outside the save area. -/
def State.generalStripes (s : State) (p lq : Nat) : Nat :=
  (s.regionBytes p lq 4 - s.saveBytes p lq) / max 1 (s.stripeBytes p lq)

/-- The lowest run of `n` free stripes of a region in a logical quadrant. -/
def State.findStripes (s : State) (p lq r n : Nat) : Option Nat :=
  (List.range (s.regionStripes r + 1 - n)).find? (fun a =>
    (List.range n).all (fun i => s.stripeFree p lq r (a + i)))

/-! ### Host tier (R233) -/

/-- The host tier is enabled (Table 2.8). -/
def State.hostTierOn (s : State) : Bool := s.glb.cfg.hostTierGib != 0

/-- The lowest index from which `n` units are free of every extent of the device. -/
def State.hostRoom (s : State) (n : Nat) : Option Nat :=
  let used := s.parts.flatMap (fun kp => kp.2.hosts.map (fun e => (e.index, e.units)))
  let total := s.glb.cfg.hostTierGib * 2 ^ 30 / 4096
  let ends := 0 :: used.map (fun e => e.1 + e.2)
  (minBy (fun a b => decide (a ≤ b)) (ends.filter (fun a =>
    decide (a + n ≤ total) && used.all (fun e => decide (a + n ≤ e.1) || decide (e.1 + e.2 ≤ a)))))

/-- The root of an extent's key: its domain's root, or the partition key (R233). -/
def State.hostRoot (s : State) (p : Nat) : Option Nat → Key256
  | some d => (s.dom d).kd
  | none => (s.part p).key

/-- The AES-256 key of units under a root: KDF(Kd, "HOSTTIER") of a domain, the partition key itself (Table 11.2). -/
def hostKey (shared : Bool) (k : Key256) : List Byte :=
  if shared then leBytes 32 k.toNat else kdf (leBytes 32 k.toNat) "HOSTTIER" [] 256

/-- The nonce of a unit (R233). -/
def hostNonce (index gen : Nat) : List Byte := leBytes 8 index ++ leBytes 4 gen

/-- The 4,160 bytes of a unit in host memory: ciphertext, tag, 48 zero bytes (R233). -/
def HostUnit.bytes (shared : Bool) : HostUnit → List Byte
  | .raw bs => bs
  | .sealed k ix g bs ok =>
    let x := gcmSeal (hostKey shared k) (hostNonce ix g) [] bs
    x.1 ++ (if ok then x.2 else x.2.map (fun b => ~~~b)) ++ List.replicate 48 0

/-- The plaintext of a unit read at an index under a root key and a generation; none where its tag fails (R234). A unit
that the device sealed under just those, with a good tag, opens to its data. -/
def HostUnit.open? (u : HostUnit) (shared : Bool) (k : Key256) (index gen : Nat) : Option (List Byte) :=
  match u with
  | .sealed k' ix g bs ok =>
    if k' = k && ix == index && g == gen then (if ok then some bs else none)
    else gcmOpen (hostKey shared k) (hostNonce index gen) [] ((u.bytes shared).take 4096) (slice (u.bytes shared) 4096 16)
  | .raw bs => gcmOpen (hostKey shared k) (hostNonce index gen) [] (bs.take 4096) (slice bs 4096 16)

/-- 4,096-byte pieces of an image, the last one filled with zeros. -/
def unitPieces (bs : List Byte) : List (List Byte) :=
  (pieces 4096 (bs.length / 4096 + 1) bs).map (fun x => x ++ List.replicate (4096 - x.length) 0)

/-- Write units from an index under a generation; the numbers in `bad` are of units whose source holds an uncorrectable
word: each is written so that its tag fails (log entry 58). -/
def State.hostUnits (s : State) (k : Key256) (index gen : Nat) (bad : List Nat) (us : List (List Byte)) : State :=
  { s with hostTier := us.zipIdx.foldl (fun (m : Map HostUnit) x =>
      mput (index + x.2) (.sealed k (index + x.2) gen x.1 (!bad.contains x.2)) m) s.hostTier }

/-- Write an extent under the next generation; none where the generation would pass its top. -/
def State.hostPlace (s : State) (p index : Nat) (d : Option Nat) (bad : List Nat) (bs : List Byte) : Option State :=
  let g := (s.part p).hostGen
  if 0xFFFFFFFF ≤ g then none
  else
    let s1 := s.modPart p (fun x => { x with
      hostGen := g + 1, hosts := x.hosts ++ [⟨index, ceilDiv bs.length 4096, g + 1, d⟩] })
    some (s1.hostUnits (s.hostRoot p d) index (g + 1) bad (unitPieces bs))

/-- The extent of a partition that holds a unit. -/
def Part.extentOf (x : Part) (u : Nat) : Option HostExtent :=
  x.hosts.find? (fun e => decide (e.index ≤ u) && decide (u < e.index + e.units))

/-- Read one unit under its extent's recorded generation; none where its tag fails or no extent holds it. -/
def State.hostUnit (s : State) (p u : Nat) : Option (List Byte) :=
  match (s.part p).extentOf u, s.hostTier.find? (fun e => e.1 == u) with
  | some e, some x => x.2.open? e.domain.isNone (s.hostRoot p e.domain) u e.gen
  | _, _ => none

/-- The first unit of a range whose tag fails. -/
def State.hostFault (s : State) (p index units : Nat) : Option Nat :=
  ((List.range units).map (fun i => index + i)).find? (fun u => (s.hostUnit p u).isNone)

/-- The data of a range of units, a failed one as zeros. -/
def State.hostTierRead (s : State) (p index units : Nat) : List Byte :=
  (List.range units).flatMap (fun i => (s.hostUnit p (index + i)).getD (List.replicate 4096 0))

/-- Host memory answers some units with bytes of its own, as (unit, 4,160 bytes): what it then holds (R234). -/
def State.hostAnswers (s : State) (us : List (Nat × List Byte)) : State :=
  { s with hostTier := us.foldl (fun (m : Map HostUnit) u => mput u.1 (.raw u.2) m) s.hostTier }

/-- Free the extents of a range of units. -/
def State.hostFree (s : State) (p index units : Nat) : State :=
  s.modPart p (fun x => { x with hosts := x.hosts.filter (fun e => !(decide (index ≤ e.index) && decide (e.index < index + units))) })

/-! ### The configuration store (R77, R258, R273) -/

/-- The store is the configuration regions of the partition's quadrants, one after another; the byte `a` of it. -/
def State.cfgLoc (s : State) (p a : Nat) : Nat → Nat → Option LineLoc
  | 0, _ => none
  | n + 1, lq => let b := s.regionBytes p lq 3
    if a < b then s.pma p lq 3 a else State.cfgLoc s p (a - b) n (lq + 1)

/-- Bytes of the store. -/
def State.cfgBytes (s : State) (p : Nat) : Nat := ((List.range (s.part p).quads.length).map (fun lq => s.regionBytes p lq 3)).sum

/-- Write lines into the store from byte `a`; the pages that take them are VALID and SHARED. A page that waits for its
zero-fill is not assigned (R229). -/
def State.cfgWrite (s : State) (p a : Nat) : List (List Byte) → State
  | [] => s
  | l :: ls =>
    let s1 := match s.cfgLoc p a (s.part p).quads.length 0 with
      | some x =>
        if s.zfPending x.stack x.pch x.page then s
        else (s.setPage x.stack x.pch x.page { valid := true, shared := true }).putLine x { data := lineData l }
      | none => s
    State.cfgWrite s1 p (a + 64) ls

/-- Read `n` bytes of the store from a multiple of 64. -/
def State.cfgRead (s : State) (p a n : Nat) : List Byte :=
  ((List.range (ceilDiv n 64)).flatMap (fun i =>
    match s.cfgLoc p (a + 64 * i) (s.part p).quads.length 0 with
    | some x => (s.pageLine x).bytes
    | none => List.replicate 64 0)).take n

/-- The store's table of sets: line 0, an offset and a length for each of the four set numbers. -/
def State.cfgTable (s : State) (p : Nat) : State :=
  s.cfgWrite p 0 [(List.range 4).flatMap (fun k => match (s.part p).set? k with
    | some c => leBytes 8 c.cfgOff ++ leBytes 8 c.cfgLen
    | none => leBytes 16 0)]

/-- Does no page of `n` bytes of the store from `a` wait for its zero-fill (R229)? -/
def State.cfgFilled (s : State) (p a n : Nat) : Bool :=
  (List.range (ceilDiv n 64)).all (fun i => match s.cfgLoc p (a + 64 * i) (s.part p).quads.length 0 with
    | some x => !s.zfPending x.stack x.pch x.page
    | none => true)

/-- The lowest room for `n` bytes beside the sets that the store holds, all of its pages free of a pending zero-fill. -/
def State.cfgRoom (s : State) (p n : Nat) : Option Nat :=
  let used := (s.part p).sets.map (fun c => (c.cfgOff, ceilDiv c.cfgLen 64 * 64))
  minBy (fun a b => decide (a ≤ b)) ((64 :: used.map (fun e => e.1 + e.2)).filter (fun a =>
    decide (a + n ≤ s.cfgBytes p) && s.cfgFilled p 0 64 && s.cfgFilled p a n &&
    used.all (fun e => decide (a + n ≤ e.1) || decide (e.1 + e.2 ≤ a))))

end Sys2Proof.Machine
end

