-- ==== Sys2Proof/Machine/Sched.lean ====
section
/-! DEFINITION. Chapter 10's scheduling: the next slice of a context in a tile and whether it could
start (R36), a context's activity (R373), swap decisions (R377), switches (R379 to R387) and the
scrubs of a context's shares (R389). -/

namespace Sys2Proof.Machine

/-! ### The next slice (R624) -/

/-- A set's sequence for a plan in a logical tile. -/
def CfgSet.seqFor (c : CfgSet) (plan logical : Nat) : Option SeqCfg :=
  c.file.seqs.find? (fun q => q.plan == plan && bitOf q.mask logical)

/-- A set's configuration of an ID in a logical tile. -/
def CfgSet.cfgFor (c : CfgSet) (id logical : Nat) : Option TileCfg :=
  c.file.tiles.find? (fun t => t.id == id && bitOf t.mask logical)

/-- The configuration of a job's next slice in a tile. -/
def nextCfg (p : Part) (logical : Nat) (j : TJob) : Option TileCfg := do
  let set ← p.set? j.set
  let seq ← set.seqFor j.plan logical
  let st ← seq.steps[j.step]?
  set.cfgFor st.id logical

/-- The first job of a context in a tile that has slices left. -/
def TCtx.job? (c : TCtx) : Option TJob := c.jobs.find? (fun j => !j.done)

/-- The word a WAIT names and the count it waits for (R166); windows are those set before it. -/
def waitsOf : List UOp → Map Window → List (Nat × Nat)
  | [], _ => []
  | u :: us, w =>
    if u.opcode = 0x01 then waitsOf us (mput u.dst (wsetWindow u) w)
    else if u.opcode = 0x03 then
      ((mget ⟨0, 0, 0, 0⟩ w u.src1).base + 4 * bitsOf u.imm 0 6, bitsOf u.imm 8 24) :: waitsOf us w
    else waitsOf us w

/-- Is every WAIT of the configuration met? -/
def waitsMet (t : Tile) (shares : List Nat) (c : TileCfg) : Bool :=
  (waitsOf c.uops []).all (fun w => decide (w.2 ≤ elemAt t.scratch.lines shares w.1 32))

/-- The head of a ring: its oldest buffer that is filled or filling, else its next pending fill (R250). -/
def Ring.head (r : Ring) : Option Fill := (r.fills ++ r.next).head?

/-- The head fill of a ring holds slices of its CONSUMER until it is complete (R250); so a fill that is pending but not
started, or that waits at a barrier, holds them too (R252, R268). -/
def ringHolds (p : Part) (r : Option Ring) (j : TJob) (c : TileCfg) : Bool :=
  match r with
  | none => false
  | some r => r.job == j.job && match r.head with
    | none => false
    | some f => match p.set? r.set with
      | some st => match st.entries[f.entry]? with
        | some e => e.consumer == c.id && !f.done
        | none => false
      | none => false

/-- Routes that need the outbound staging area empty (R132). -/
def netRoute (r : Nat) : Bool := (decide (2 ≤ r) && decide (r ≤ 5)) || r == 7

/-- The configuration lies complete in a slot. -/
def slotOf (t : Tile) (set id : Nat) : Option Nat :=
  t.slots.findIdx? (fun k => k.valid && !k.filling && k.set == set && k.id == id)

/-- The layer of a job's slice that would start now: the LAYER of the head fill's entry (R335). -/
def ringLayer (p : Part) (r : Option Ring) (j : JobRef) : Option Nat :=
  r.bind (fun r => if r.job ≠ j then none else
    r.fills.head?.bind (fun f => (p.set? r.set).bind (fun c => c.entries[f.entry]?.map PlanEntry.layer)))

/-- The stash windows are ready for the job's next slice: captures two layers back are made, and the layer's
record is restored (R335). -/
def State.stashReady (s : State) (p : Part) (logical : Nat) (j : TJob) (r : Option Ring) : Bool :=
  match ringLayer p r j.job, s.cmd j.job with
  | some x, some c =>
    if c.op != 0x02 then true
    else if !j.backward then j.captures.all (fun l => decide (x < l + 2))
    else
      let t := s.slot c.part (c.param 0x20 1)
      !j.captures.contains x &&
        (j.restored.contains x || !((t.stash ++ t.replayable).any (fun k => k.job == j.job && k.layer == x && k.rows.any (fun e => e.1 == logical))))
  | _, _ => true

/-- The context's next slice in the tile, where it meets every condition of R36 but its ring's head fill (R36, R266). -/
def readyBut (s : State) (p : Part) (tl : TileId) (i : Nat) : Option (TJob × TileCfg × Nat) := do
  let t := s.tile tl
  let c ← p.ctxs[i]?
  let tc := mget {} t.ctxs i
  let j ← tc.job?
  let logical ← p.logical tl
  let cfg ← nextCfg p logical j
  let k ← slotOf t j.set cfg.id
  if c.res = .resident && (p.switch.bind Switch.victim) != some i && p.state == .active &&
      !(netRoute cfg.outDst && !tc.staged.isEmpty) && waitsMet t (slotShares p.s c.slot) cfg && s.stashReady p logical j tc.ring
  then some (j, cfg, k) else none

/-- May the tile start a slice at all: what holds it back is no condition of R36, but the test state, a suspension, the
supply of the die, or a post of its own that the collector has not taken. -/
def mayStart (s : State) (p : Part) (tl : TileId) : Bool :=
  !p.suspended && !(s.tile tl).vxu.test && !(s.clk.phase == .hold || s.clk.phase == .stopped) &&
  (s.clk.pm == .d0 || s.clk.pm == .armed) && !((s.quad tl.q).cc.held.any (fun x => x.source == tileSource tl))

/-- The context's next slice meets every condition of R36 in the tile. -/
def ready (s : State) (p : Part) (tl : TileId) (i : Nat) : Option (TJob × TileCfg × Nat) := do
  let r ← readyBut s p tl i
  if ringHolds p (mget {} (s.tile tl).ctxs i).ring r.1 r.2.1 then none else some r

/-- The slice of the context that the tile can start now (R36). -/
def couldStart (s : State) (p : Part) (tl : TileId) (i : Nat) : Option (TJob × TileCfg × Nat) :=
  if mayStart s p tl then ready s p tl i else none

/-! ### Stall cycles (R266) -/

/-- Root clock periods of one CCLK cycle: the divider of the P-state, or REF's period (Table 16.1, R575). -/
def State.cclkPeriod (s : State) : Nat :=
  if (s.clk.dom.getD 0 {}).cur = 1 then 96 else [4, 5, 6, 8].getD s.clk.cur 8

/-- Does a tile stall: no slice and no slot switch, and the next slice of some resident context meets every condition of
R36 but its head fill? -/
def stalls (s : State) (p : Part) (tl : TileId) : Bool :=
  (s.tile tl).running.isNone && (s.tile tl).switching.isNone && (s.clk.dom.getD 0 {}).running &&
  (List.range p.ctxs.length).any (fun i => (readyBut s p tl i).isSome && (ready s p tl i).isNone)

/-- Count the stall cycles of a tile over `n` root clock periods: in the tile, in its quadrant, and for the jobs that
the tile holds (log entry 56). -/
def State.countStall (s : State) (p : Part) (tl : TileId) (n : Nat) : State :=
  let t := s.tile tl
  if !stalls s p tl then (if t.stalled then s.modTile tl (fun t => { t with stalled := false, stallRem := 0 }) else s)
  else
    let fz := s.mul.freeze
    let d := s.cclkPeriod
    let c := (t.stallRem + n) / d
    let s1 := s.modTile tl (fun t => { t with
      stalled := true
      stallRem := (t.stallRem + n) % d
      mulStall := bump fz t.mulStall c
      ctxs := t.ctxs.map (fun x => (x.1, { x.2 with jobs := x.2.jobs.map (fun j => { j with stall := j.stall + c }) })) })
    s1.modQuad tl.q (fun q => { q with mul := { q.mul with
      stallCycles := bump fz q.mul.stallCycles c, stalls := bump fz q.mul.stalls (b2n (!t.stalled)) } })

/-- Count the stall cycles of every tile over `n` root clock periods. -/
def State.countStalls (s : State) (n : Nat) : State :=
  s.parts.foldl (fun (a : State) kp => kp.2.tiles.foldl (fun (a : State) tl => a.countStall kp.2 tl n) a) s

/-! ### Activity (R373) -/

/-- Commands that are jobs of a context: RUN and TRAIN_STEP. -/
def isJobOp (op : Nat) : Bool := op == 0x01 || op == 0x02

/-- The context holds an accepted job that has not completed. -/
def State.hasJob (s : State) (p i : Nat) : Bool :=
  s.host.cmds.any (fun c => isJobOp c.op && c.part == p && c.ctx == i && c.phase != .final)

/-- ACT (Table 10.1): 0 IDLE, 1 RUNNABLE, 2 BLOCKED. -/
def State.act (s : State) (p i : Nat) : Nat :=
  let part := s.part p
  if !s.hasJob p i then 0
  else match (part.ctxs[i]?).map Ctx.res with
    | some .resident =>
      if part.tiles.any (fun tl =>
          (match (s.tile tl).running with
            | some r => r.ctx == i
            | none => false) || (ready s part tl i).isSome) then 1 else 2
    | _ => 1

/-- Bring every context's blocked-since time up to date. -/
def State.refresh (s : State) (p : Nat) : State :=
  let acts := (List.range (s.part p).ctxs.length).map (fun i => s.act p i)
  s.modPart p (fun x => { x with ctxs := List.zipWith (fun (c : Ctx) a =>
    if a = 1 then (if c.since.isSome then { c with since := none, runSince := s.now } else c)
    else if c.since.isSome then c else { c with since := some s.now }) x.ctxs acts })

/-! ### Swap decisions (R377) -/

/-- A context with its number. -/
abbrev NCtx := Nat × Ctx

/-- The candidate: RUNNABLE, swapped out, highest priority, earliest, lowest number. -/
def State.candidate (s : State) (p : Nat) : Option NCtx :=
  let part := s.part p
  minBy (fun a b => decide (b.2.prio < a.2.prio) || (a.2.prio == b.2.prio &&
      (decide (a.2.runSince < b.2.runSince) || (a.2.runSince == b.2.runSince && decide (a.1 ≤ b.1)))))
    ((part.ctxs.zipIdx.map (fun x => (x.2, x.1))).filter (fun x => x.2.res == .swapped && s.act p x.1 == 1))

/-- Resident swappable contexts. -/
def Part.swappable (p : Part) : List NCtx :=
  (p.ctxs.zipIdx.map (fun x => (x.2, x.1))).filter (fun x => x.2.res == .resident && decide (p.pinned ≤ x.1))

/-- The lowest free swappable slot. -/
def Part.freeSlot (p : Part) : Option Nat :=
  (List.range p.cRes).find? (fun k => decide (p.pinned ≤ k) && p.ctxs.all (fun c => c.res == .swapped || c.slot != k))

/-- Earlier blocked-since first; RUNNABLE contexts last. -/
def sinceLe (a b : Option Nat) : Bool :=
  match a, b with
  | some x, some y => decide (x ≤ y)
  | some _, none => true
  | none, some _ => false
  | none, none => true

/-- Victim order of row 2: priority, IDLE and BLOCKED first, earliest, highest number. -/
def victimLe2 (a b : NCtx) : Bool :=
  decide (a.2.prio < b.2.prio) || (a.2.prio == b.2.prio &&
    (if a.2.since = b.2.since then decide (b.1 ≤ a.1) else sinceLe a.2.since b.2.since))

/-- Victim order of row 3: earliest, lowest priority, highest number. -/
def victimLe3 (a b : NCtx) : Bool :=
  if a.2.since = b.2.since then decide (a.2.prio < b.2.prio) || (a.2.prio == b.2.prio && decide (b.1 ≤ a.1))
  else sinceLe a.2.since b.2.since

/-- A restore begins: the context takes the slot. -/
def Part.beginRestore (p : Part) (cand slot : Nat) : Part :=
  { p with ctxs := p.ctxs.modify cand (fun c => { c with res := .restoring, slot := slot }) }

/-- A swap decision (Table 10.2). A context becomes SAVING at S. -/
def State.swapDecide (s : State) (p : Nat) : State :=
  let part := s.part p
  if part.state != .active || part.switch.isSome || part.suspended then s
  else match s.candidate p with
  | none => s
  | some cand =>
    match part.freeSlot with
    | some k =>
      let s1 := s.modPart p (fun x => { x.beginRestore cand.1 k with switch := some ⟨cand.1, none, k, .restoring⟩ })
      { s1 with par := { s1.par with swapFree := bump s1.par.freeze s1.par.swapFree } }
    | none =>
      let pool := part.swappable
      match minBy victimLe2 pool with
      | none => s
      | some v2 =>
        if v2.2.prio < cand.2.prio then
          let s1 := s.modPart p (fun x => { x with switch := some ⟨cand.1, some v2.1, v2.2.slot, .quiescing⟩ })
          { s1 with par := { s1.par with swapPrio := bump s1.par.freeze s1.par.swapPrio } }
        else if pool.all (fun c => match c.2.since with
            | some t => decide (t + 1200 * s.par.block ≤ s.now)
            | none => false) then
          match minBy victimLe3 pool with
          | none => s
          | some v3 =>
            let s1 := s.modPart p (fun x => { x with switch := some ⟨cand.1, some v3.1, v3.2.slot, .quiescing⟩ })
            { s1 with par := { s1.par with swapBlocked := bump s1.par.freeze s1.par.swapBlocked } }
        else s

/-- Activities change and a decision may follow. -/
def State.resched (s : State) (p : Nat) : State := (s.refresh p).swapDecide p

/-- SWAP_BLOCK_TIMER (R377, row 3 of Table 10.2). -/
def execSwapBlockTimer (p : Nat) (s : State) : Host.Outcome State Fault Refusal := .next (s.resched p)

/-- PRIORITY_WRITE (R374, R385, R405): VF v writes PAR_VF_CTX_CTRLi; a write made during a switch applies after it. -/
def execPriorityWrite (v i value : Nat) (s : State) : Host.Outcome State Fault Refusal :=
  .next <| match (if s.served (.vf v) then s.partOfVf v else none) with
    | none => s
    | some p =>
      if i < (s.part p).ctxCount then
        (s.modPart p (fun x => { x with ctxs := x.ctxs.modify i (fun c =>
          let n := min x.prioMax (bitsOf value 0 3)
          if x.switch.isSome then { c with prioNext := some n } else { c with prio := n }) })).resched p
      else s

/-! ### Switches (R379 to R387) -/

/-- The victim has quiesced in a tile (R379). -/
def quiet (t : Tile) (i : Nat) : Bool :=
  let c := mget {} t.ctxs i
  (match t.running with
    | some r => r.ctx != i
    | none => true) &&
  (match t.switching with
    | some w => w.next.ctx != i
    | none => true) &&
  c.staged.isEmpty && c.dying.isEmpty && (match c.ring with
    | some r => r.fills.all (fun f => f.done || !f.started)
    | none => true)

/-- SWITCH_START: S, when every tile has quiesced the victim. -/
def execSwitchStart (p : Nat) (s : State) : Host.Outcome State Fault Refusal :=
  .next <| match (s.part p).switch with
    | some ⟨c, some v, k, .quiescing⟩ =>
      if (s.part p).tiles.all (fun tl => quiet (s.tile tl) v) then
        s.modPart p (fun x => { x with
          switch := some ⟨c, some v, k, .saving⟩
          ctxs := x.ctxs.modify v (fun y => { y with res := .saving }) })
      else s
    | _ => s

/-- The keys of part `n` of a tile register and of its row tags. -/
def partKeys {α : Type} (n size : Nat) (m : Map α) : Map α := m.filter (fun e => e.1 / size == n)
/-- Entries rebased to another part. -/
def rebase {α : Type} (n size : Nat) (m : Map α) : Map α := m.map (fun e => (e.1 % size + n * size, e.2))
/-- Everything but part `n`. -/
def dropKeys {α : Type} (n size : Nat) (m : Map α) : Map α := m.filter (fun e => e.1 / size != n)
/-- Put the entries of `a` into `m`. -/
def mputAll {α : Type} (a m : Map α) : Map α := a.foldl (fun m e => mput e.1 e.2 m) m

/-- The open generation a line's record carries (R380). -/
def State.genOf (s : State) (l : Line) : Nat :=
  match l.kind with
  | .domain => (s.dom l.domain).gen
  | .row => (s.dom l.domain).gen
  | _ => 0

/-- The image of share `n` of a tile, as written (R380). -/
def State.shareImage (s : State) (t : Tile) (n : Nat) : ShareImg :=
  let ls := rebase 0 shareLines (partKeys n shareLines t.scratch.lines)
  { lines := ls
    gens := (ls.map (fun e => (e.1, s.genOf e.2))).filter (fun e => e.2 != 0)
    treg := rebase 0 256 (partKeys n 256 t.treg)
    tags := rebase 0 64 (partKeys n 64 t.tags)
    tagGens := ((rebase 0 64 (partKeys n 64 t.tags)).map (fun e => (e.1, (s.dom (bitsOf e.2.2 20 12)).gen))).filter (fun e => e.2 != 0) }

/-- The plans a job runs, in order: (plan, backward). -/
def Cmd.plans (c : Cmd) : List (Nat × Bool) :=
  if c.op = 0x01 then [(c.param 0x21 1, false)] else [(c.param 0x22 1, false), (c.param 0x23 1, true)]

/-- The live configurations of a context in a tile: held in a slot, and named by an unfinished job (R387). -/
def State.liveCfgs (s : State) (p i l : Nat) (tl : TileId) : List (Nat × Nat) :=
  let names (j : TJob) (k : CfgSlot) : Bool := j.set == k.set && (((s.part p).set? j.set).any (fun c =>
    (((s.cmd j.job).map Cmd.plans).getD []).any (fun pl => (c.seqFor pl.1 l).any (fun q => q.steps.any (fun st => st.id == k.id)))))
  ((s.tile tl).slots.filter (fun k => k.valid && (mget {} (s.tile tl).ctxs i).jobs.any (fun j => names j k))).map
    (fun k => (k.set, k.id))

/-- The image of a context, over every tile of the partition. -/
def State.imageOf (s : State) (p i : Nat) : Image :=
  let part := s.part p
  let slot := ((part.ctxs[i]?).map Ctx.slot).getD 0
  { shares := part.tiles.zipIdx.flatMap (fun x => (slotShares part.s slot).zipIdx.map (fun y =>
      (16 * x.2 + y.2, s.shareImage (s.tile x.1) y.1)))
    tctx := part.tiles.zipIdx.map (fun x => (x.2, mget {} (s.tile x.1).ctxs i))
    live := if part.mode = 1 then part.tiles.zipIdx.map (fun x => (x.2, s.liveCfgs p i x.2 x.1)) else [] }

/-- CONTEXT_SAVE_DONE (R383, R387): the victim is SWAPPED and the restore begins. While logging is on, the pages of its records
are dirty (R231, R381). -/
def execContextSaveDone (p : Nat) (s : State) : Host.Outcome State Fault Refusal :=
  .next <| match (s.part p).switch with
    | some ⟨c, some v, k, .saving⟩ =>
      let img := s.imageOf p v
      (s.logSave p v).modPart p (fun x => { Part.beginRestore { x with
          ctxs := x.ctxs.modify v (fun y => { y with res := .swapped, image := some img }) } c k with
        switch := some ⟨c, some v, k, .restoring⟩ })
    | _ => s

/-- A record restored under R382: CLEAR where its domain is closed or its generation is not current. -/
def State.restoreLine (s : State) (l : Line) (gen : Nat) : Line :=
  match l.kind with
  | .clear => clearLine
  | .shared => l
  | _ => if (s.dom l.domain).open_ && (s.dom l.domain).gen == gen then l else clearLine

/-- A row tag word passes the test of R382. -/
def State.tagOk (s : State) (w gen : Nat) : Bool :=
  (s.dom (bitsOf w 20 12)).open_ && (s.dom (bitsOf w 20 12)).gen == gen

/-- Write an image's share into share `n` of a tile. -/
def State.restoreShare (s : State) (t : Tile) (n : Nat) (m : ShareImg) : Tile :=
  let ls := (m.lines.map (fun e => (e.1, s.restoreLine e.2 (mget 0 m.gens e.1)))).filter (fun e => e.2 != {})
  { t with
    scratch := { t.scratch with lines := mputAll (rebase n shareLines ls) (dropKeys n shareLines t.scratch.lines) }
    treg := mputAll (rebase n 256 m.treg) (dropKeys n 256 t.treg)
    tags := mputAll (rebase n 64 (m.tags.filter (fun e => e.2.1 ≠ 3 || s.tagOk e.2.2 (mget 0 m.tagGens e.1)))) (dropKeys n 64 t.tags) }

/-- Tile register entries without those of a chain's rows that `bad` names: output (r, j) has the place r × N + j of
the entries of the context's parts, the first of which is `part0` (log entry 51). -/
def Chain.dropRows (h : Chain) (part0 : Nat) (bad : Nat → Bool) (m : Map Word32) : Map Word32 :=
  let per := if h.outlier || h.escape then 2 * h.n else h.n
  m.filter (fun e =>
    let r := (e.1 - 256 * part0) / max 1 per
    !(decide (256 * part0 ≤ e.1) && decide (r < h.m) && bad r))

/-- Restore a context's state in one tile; a chain with a row that fails R382 is discarded, and its
entries of that row are +0; a segment whose domain fails it is gone. Jobs aborted meanwhile lose their entries (R378). -/
def State.restoreTctx (s : State) (t : Tile) (i : Nat) (img : Image) (x : Nat) (shares : List Nat) : Tile :=
  let c := mget {} img.tctx x
  let live (j : JobRef) : Bool := match s.cmd j with
    | some d => d.phase != .final && !d.aborted && !d.stopped
    | none => false
  let bad := (List.range 64).filter (fun r =>
    let m := mget {} img.shares (16 * x)
    match mget (0, 0) m.tags r with
    | (3, w) => !s.tagOk w (mget 0 m.tagGens r)
    | _ => false)
  let chainBad := match c.chain with
    | some ch => bad.any (fun r => decide (r < ch.m)) || !live ch.job
    | none => false
  let treg := match c.chain with
    | some ch => ch.dropRows (shares.headD 0) bad.contains t.treg
    | none => t.treg
  { t with
    treg := treg
    ctxs := mset {} t.ctxs i { c with
      chain := if chainBad then none else c.chain
      segs := c.segs.filter (fun g => s.tagOk g.key.word g.gen)
      jobs := c.jobs.filter (fun j => live j.job)
      ring := match c.ring with
        | some r => if live r.job then some r else none
        | none => none
      lastStart := none } }

/-! ### Scrubs (R388, R389) -/

/-- Clear share `n` of a tile with its register part and row tags. -/
def Tile.scrubShare (t : Tile) (n : Nat) : Tile :=
  { t with
    scratch := { t.scratch with lines := dropKeys n shareLines t.scratch.lines }
    treg := dropKeys n 256 t.treg
    tags := dropKeys n 64 t.tags }

/-- A whole-tile scrub: scratchpad, metadata, tile register, and every configuration slot emptied. -/
def Tile.scrubAll (t : Tile) : Tile :=
  { t with
    scratch := { t.scratch with lines := [] }
    treg := [], tags := [], slots := List.replicate 8 {}, current := none, ctxs := [], toScrub := [] }

/-- Scrub the shares of a resident context in every tile; the counter counts each share (R403). -/
def State.scrubCtx (s : State) (p i : Nat) : State :=
  let part := s.part p
  let shares := slotShares part.s (((part.ctxs[i]?).map Ctx.slot).getD 0)
  let s1 := part.tiles.foldl (fun s tl => s.modTile tl (fun t =>
    let t1 := shares.foldl Tile.scrubShare t
    { t1 with ctxs := mmod {} t1.ctxs i (fun c => { c with chain := none, segs := [] }) })) s
  { s1 with par := { s1.par with scrubs := bump s1.par.freeze s1.par.scrubs (shares.length * part.tiles.length) } }

/-- Clear the lines, the segments, and the register entries of the rows, whose domain is the closed one (R389): `part0`
gives the first tile register part of each context that is resident. -/
def Tile.scrubDomain (t : Tile) (part0 : List (Nat × Nat)) (d : Nat) : Tile :=
  let mine (l : Line) : Bool := (l.kind == .domain || l.kind == .row) && l.domain == d
  let mineTag (e : Nat × Nat) : Bool := e.1 == 3 && bitsOf e.2 20 12 == d
  { t with
    scratch := { t.scratch with lines := t.scratch.lines.filter (fun e => !mine e.2) }
    treg := part0.foldl (fun (m : Map Word32) x => match (mget {} t.ctxs x.1).chain with
      | some h => h.dropRows x.2 (fun r => mineTag (mget (0, 0) t.tags (64 * x.2 + r))) m
      | none => m) t.treg
    tags := t.tags.filter (fun e => !mineTag e.2)
    ctxs := (t.ctxs.map (fun c => (c.1, { c.2 with segs := c.2.segs.filter (fun g => bitsOf g.key.word 20 12 != d) }))).filter
      (fun c => c.2 != {}) }

/-- The resident contexts of a partition, each with its first share. -/
def Part.residents (x : Part) : List (Nat × Nat) :=
  ((List.range x.ctxs.length).filter (fun i => (x.ctxs.getD i {}).res == .resident)).map (fun i => (i, x.s * (x.ctxs.getD i {}).slot))

/-- The boundary scrub of a closed domain in one tile: every share of every resident context (R389, R403). -/
def State.scrubDomain (s : State) (p : Nat) (tl : TileId) (d : Nat) : State :=
  let part := s.part p
  let s1 := s.modTile tl (fun t => t.scrubDomain part.residents d)
  { s1 with par := { s1.par with scrubs := bump s1.par.freeze s1.par.scrubs (part.residents.length * part.s) } }

/-- At a boundary the tile clears what closed domains left in it. -/
def State.clearClosed (s : State) (p : Nat) (tl : TileId) : State :=
  ((s.tile tl).toScrub.foldl (fun (s : State) d => s.scrubDomain p tl d) s).modTile tl (fun t => { t with toScrub := [] })


end Sys2Proof.Machine
end

