-- ==== Sys2Proof/Machine/Dir.lean ====
section
/-! DEFINITION. Chapter 8: the adapter manifest, the adapter store, registration, row resolution, bind,
eviction, retirement and domain close. -/

namespace Sys2Proof.Machine

/-! ### The manifest (R286 to R289) -/

/-- A tensor entry (Table 8.4). -/
structure ManTensor where
  base : Nat
  idA : Nat
  idB : Nat
  k : Nat
  n : Nat
  resv : Nat
  off : Nat
  deriving DecidableEq, Repr

def manTensors (m : List Byte) : Nat := fieldAt m 0x06 2
def manExperts (m : List Byte) : Nat := fieldAt m 0x41 1
def manRank (m : List Byte) : Nat := fieldAt m 0x40 1
def manFlag (m : List Byte) (i : Nat) : Bool := bitOf (fieldAt m 0x05 1) i
def manSeed (m : List Byte) : Bool := manFlag m 0
def manTrainable (m : List Byte) : Bool := manFlag m 1
def manOffload (m : List Byte) : Bool := manFlag m 2
def manAny (m : List Byte) : Bool := manFlag m 3
def manRepin (m : List Byte) : Bool := manFlag m 4
def manDomain (m : List Byte) : Nat := bitsOf (fieldAt m 0x38 4) 0 12
def manHandle (m : List Byte) : Nat := bitsOf (fieldAt m 0x3C 4) 0 16
def manEpoch (m : List Byte) : Nat := bitsOf (fieldAt m 0x3C 4) 20 4
def manBase (m : List Byte) : Digest := digestOf (slice m 0x08 48)
def manPayload (m : List Byte) : Nat := fieldAt m 0x48 8
/-- Length of the signed span. -/
def manSigned (m : List Byte) : Nat := 288 + 32 * manTensors m + 8 * manExperts m
def manLength (m : List Byte) : Nat := 384 + 32 * manTensors m + 8 * manExperts m
def manDigest (m : List Byte) : Digest := sha384 (m.take (manSigned m))

/-- Tensor entry i. -/
def manTensor (m : List Byte) (i : Nat) : ManTensor :=
  let o := 0x120 + 32 * i
  ⟨fieldAt m o 4, fieldAt m (o + 4) 4, fieldAt m (o + 8) 4, fieldAt m (o + 0xC) 4, fieldAt m (o + 0x10) 4,
   fieldAt m (o + 0x14) 4, fieldAt m (o + 0x18) 8⟩

def manTensorList (m : List Byte) : List ManTensor := (List.range (manTensors m)).map (manTensor m)

/-- Expert entry i: LAYER, EXPERT, TENSOR_FIRST, TENSOR_COUNT (Table 8.5). -/
def manExpert (m : List Byte) (i : Nat) : Nat × Nat × Nat × Nat :=
  let o := 0x120 + 32 * manTensors m + 8 * i
  (fieldAt m o 2, fieldAt m (o + 2) 2, fieldAt m (o + 4) 2, fieldAt m (o + 6) 2)

def manExpertList (m : List Byte) : List (Nat × Nat × Nat × Nat) := (List.range (manExperts m)).map (manExpert m)

/-- Extra-expert positions the manifest claims. -/
def manPositions (m : List Byte) : List (Nat × Nat) := (manExpertList m).map (fun e => (e.1, e.2.1))

/-- Step 1 of Table 8.6: (status, detail) of the first failure. -/
def manFormat (level : Nat) (m : List Byte) (len : Nat) : Option (Nat × Nat) :=
  let zero (a n : Nat) : Bool := allZero (slice m a n)
  if slice m 0 4 != [0x4A, 0x4C, 0x41, 0x4D] || manTensors m < 1 || 512 < manTensors m || 16 < manExperts m ||
      len != manLength m then some (stAborted, 0x2B)
  else if fieldAt m 5 1 ≥ 32 || bitsOf (fieldAt m 0x38 4) 12 20 ≠ 0 || bitsOf (fieldAt m 0x3C 4) 16 4 ≠ 0 ||
      bitsOf (fieldAt m 0x3C 4) 24 8 ≠ 0 || !zero 0x42 6 || !zero 0xEC 4 || !zero 0xFC 4 || !zero 0x110 16 ||
      (manTensorList m).any (fun t => t.resv != 0) then some (stReserved, 0)
  else if fieldAt m 4 1 ≠ level then some (stVersion, 0)
  else if manRank m < 1 || 64 < manRank m || (manSeed m && manRepin m) || (manSeed m && manPayload m != 0) ||
      (manPayload m == 0 && !(zero 0x50 48 && zero 0xB0 0x60 && (manTensorList m).all (fun t => t.off == 0))) ||
      (manAny m && (manHandle m != 0 || manEpoch m != 0)) || (!manRepin m && !zero 0x80 48) then some (stAborted, 0x2B)
  else none

/-- Step 3: the signature verifies under the domain's manifest key (R288). -/
def manSigOk (key m : List Byte) : Bool :=
  ecdsaVerify key (manDigest m) (beNat (slice m (manSigned m) 48)) (beNat (slice m (manSigned m + 48) 48))

/-- Step 5: shapes, payload ranges and expert entries (R287, R292). -/
def manShape (set : CfgSet) (m : List Byte) : Bool :=
  let ts := manTensorList m
  let rng (t : ManTensor) : Nat × Nat := (t.off, 2 * manRank m * (t.k + t.n))
  ts.all (fun t => set.tensors.any (fun b => b.id == t.base && b.k == t.k && b.n == t.n)) &&
  (manPayload m == 0 || (ts.all (fun t => t.off % 64 == 0 && decide ((rng t).1 + (rng t).2 ≤ manPayload m)) &&
    decide (ts.Pairwise (fun a b => (rng a).1 + (rng a).2 ≤ (rng b).1 ∨ (rng b).1 + (rng b).2 ≤ (rng a).1)))) &&
  (manExpertList m).all (fun e => decide (1 ≤ e.2.2.2) && decide (e.2.2.1 + e.2.2.2 ≤ manTensors m) &&
    set.tensors.any (fun b => b.layer == e.1 && b.expert == e.2.1 && e.2.1 != 0xFF))

/-! ### The adapter store (R294, R342; log entry 22) -/

/-- Bytes rounded up to whole lines. -/
def lineUp (n : Nat) : Nat := ceilDiv n 64 * 64

/-- Bytes of one factor's planes: weights, and with training state two Q16 moments. -/
def weightBytes (e : Nat) : Nat := lineUp (2 * e)
def momentBytes (e : Nat) : Nat := lineUp (2 * e) + lineUp (4 * ceilDiv e 32)

/-- Bytes of one copy of a tensor entry. -/
def copyBytes (trainable : Bool) (rank : Nat) (t : ManTensor) : Nat :=
  let a := t.k * rank
  let b := rank * t.n
  weightBytes a + weightBytes b + (if trainable then 2 * (momentBytes a + momentBytes b) else 0)

/-- Bytes of a tensor entry: one copy, or two with training state. -/
def tensorBytes (trainable : Bool) (rank : Nat) (t : ManTensor) : Nat :=
  if trainable then 2 * copyBytes true rank t else copyBytes false rank t

/-- Bytes kept at the start of logical quadrant 0's placement for the stored manifest. -/
def manRoom (m : List Byte) : Nat := lineUp (512 + 32 * manTensors m)

/-- Where the tensors of a quadrant's placement start. -/
def lqStart (m : List Byte) (lq : Nat) : Nat := if lq = 0 then manRoom m else 0

/-- Offset of tensor entry i in its logical quadrant's placement (entry i lies in quadrant i mod nq). -/
def tensorOff (m : List Byte) (nq i : Nat) : Nat :=
  ((List.range i).filter (fun j => j % nq == i % nq)).foldl (fun a j =>
    a + tensorBytes (manTrainable m) (manRank m) (manTensor m j)) (lqStart m (i % nq))

/-- Bytes the adapter takes in logical quadrant lq. -/
def lqBytesOf (m : List Byte) (nq lq : Nat) : Nat :=
  ((List.range (manTensors m)).filter (fun j => j % nq == lq)).foldl (fun a j =>
    a + tensorBytes (manTrainable m) (manRank m) (manTensor m j)) (lqStart m lq)

/-- The store image of one logical quadrant, from each tensor's weights A and B. -/
def lqImage (m : List Byte) (nq lq : Nat) (w : Nat → List Byte × List Byte) : List Byte :=
  slice m 0 (lqStart m lq) ++ ((List.range (manTensors m)).filter (fun j => j % nq == lq)).flatMap (fun j =>
    let t := manTensor m j
    let a := t.k * manRank m
    let b := manRank m * t.n
    slice (w j).1 0 (weightBytes a) ++ slice (w j).2 0 (weightBytes b) ++
      List.replicate (tensorBytes (manTrainable m) (manRank m) t - weightBytes a - weightBytes b) 0)

/-- Stripes each logical quadrant needs. -/
def State.storeNeed (s : State) (p : Nat) (m : List Byte) (lq : Nat) : Nat :=
  ceilDiv (lqBytesOf m (s.part p).quads.length lq) (max 1 (s.stripeBytes p lq))

/-- Stripe of each logical quadrant where the adapter fits; none where one has no room. -/
def State.storeRoom (s : State) (p : Nat) (m : List Byte) : Option (List Nat) :=
  (List.range (s.part p).quads.length).mapM (fun lq => s.findStripes p lq 1 (s.storeNeed p m lq))

/-- Claim the store pages for the domain. -/
def State.storeClaim (s : State) (p : Nat) (m : List Byte) (offs : List Nat) (d : Nat) : State :=
  offs.zipIdx.foldl (fun s x => s.setStripes p x.2 1 x.1 (s.storeNeed p m x.2) { valid := true, domain := d }) s

/-- Give store pages back to the zero-fill. -/
def State.storeDrop (s : State) (p : Nat) (m : List Byte) (offs : List Nat) : State :=
  offs.zipIdx.foldl (fun s x => s.dropStripes p x.2 1 x.1 (s.storeNeed p m x.2)) s

/-- Bytes of the store image of an adapter, quadrant by quadrant. -/
def State.storeRead (s : State) (p : Nat) (m : List Byte) (offs : List Nat) : List (List Byte) :=
  offs.zipIdx.map (fun x => s.regionRead p x.2 1 (x.1 * s.stripeBytes p x.2) (lqBytesOf m (s.part p).quads.length x.2))

/-- Write a store image. -/
def State.storeWrite (s : State) (p : Nat) (offs : List Nat) (imgs : List (List Byte)) : State :=
  (offs.zip imgs).zipIdx.foldl (fun s x =>
    s.placeBytes p x.2 1 (x.1.1 * s.stripeBytes p x.2) (linesOf x.1.2)) s

/-- Units of the host-tier extent that holds the image. -/
def hostUnitsOf (m : List Byte) (nq : Nat) : Nat :=
  ceilDiv ((List.range nq).foldl (fun a lq => a + lqBytesOf m nq lq) 0) 4096

/-- Cut a host-tier image back into its quadrants. -/
def splitImage (m : List Byte) (nq : Nat) : Nat → List Byte → List (List Byte)
  | 0, _ => []
  | k + 1, bs =>
    let n := lqBytesOf m nq (nq - (k + 1))
    bs.take n :: splitImage m nq k (bs.drop n)

/-! ### Directory operations -/

/-- The next epoch (R284). -/
def nextEpoch (e : Nat) : Nat := if e = 15 then 1 else e + 1

/-- Lost claims count in PAR_ADIR_SLOT_BUSY. -/
def State.countLost (s : State) : State :=
  { s with dir := { s.dir with slotBusy := bump s.dir.freeze s.dir.slotBusy } }

/-- The entry as it stands FREE: its epoch is kept. -/
def DirEntry.toFree (e : DirEntry) : DirEntry := { epoch := e.epoch }

/-- EV_DOMAIN_FAULT of a command (R282, Table 14.3a). -/
def State.domainFault (s : State) (p job row cause : Nat) : State := s.raise 0x07 0x124 p job row cause

/-- A stale drop (R310): counted, and EV_STALE_DROP for the first and each further 1,024. -/
def State.staleDrop (s : State) (word source : Nat) : State :=
  let n := s.dir.dropsSince + 1
  let s1 := { s with dir := { s.dir with staleDrop := bump s.dir.freeze s.dir.staleDrop, dropsSince := n } }
  if n = 1 || n % 1024 = 0 then s1.raise 0x04 source 0xFF word s1.dir.staleDrop.toNat else s1

/-- A loaded set of the partition that holds `base` and is not retired. -/
def Part.liveSet (p : Part) (base : Digest) : Option CfgSet := p.sets.find? (fun c => c.file.base == base && !c.retired)

/-- Step 4 and its repeat (Table 8.6). -/
def Part.baseStatus (p : Part) (base : Digest) : Nat :=
  if (p.liveSet base).isSome then stOk
  else if p.sets.any (fun c => c.file.base == base) then stBaseRetired else stBaseMismatch

/-- A position held by another adapter of the partition, or claimed by a re-pin of one (R292). -/
def State.positionHeld (s : State) (p : Nat) (base : Digest) (pos : Nat × Nat) (self : Nat) : Bool :=
  s.dir.entries.any (fun e => e.1 != self && e.2.part == p && e.2.state != .free && e.2.state != .retiring &&
    ((e.2.base == base && e.2.experts.contains pos) || e.2.claims.contains (base, pos)))

/-- The lowest FREE handle. -/
def State.freeHandle (s : State) : Option Nat :=
  (List.range (s.dir.entries.length + 1)).find? (fun h => (s.entry h).state == .free && decide (h < 65536))

/-- Outcomes 3 and 4 of Table 8.7 for a command that names a handle (R303, R308). -/
def State.handleCheck (s : State) (p h epoch : Nat) : Nat :=
  let e := s.entry h
  if epoch = 0 || e.state == .free || e.state == .registering || e.state == .retiring || e.part != p || e.epoch != epoch then stStale
  else if !(s.dom e.domain).open_ || (s.dom e.domain).closing then stDomainFault else stOk

/-! ### Retirement and eviction (R305 to R309) -/

/-- Enter RETIRING: extra-expert positions are released (R292, R309). -/
def State.toRetiring (s : State) (h : Nat) : State :=
  s.modEntry h (fun e => { e with state := .retiring, experts := [], closing := false })

/-- Complete every waiting eviction of a handle. -/
def State.evictsDone (s : State) (h status : Nat) : State :=
  let e := s.entry h
  let s1 := e.evicts.foldl (fun s j => s.finish j status) s
  let s2 := s1.modEntry h (fun e => { e with evicts := [], forced := false })
  { s2 with dir := { s2.dir with evicted := bump s2.dir.freeze s2.dir.evicted (if status = stOk then 1 else 0) } }

/-- Begin an eviction on a RESIDENT handle (R305, R306). -/
def State.beginEvict (s : State) (h mode : Nat) (force : Bool) : State :=
  s.modEntry h (fun e => { e with
    state := .evicting, mode := mode, forced := force, binds := if force then 0 else e.binds })

/-- The references of an EVICTING handle have drained. -/
def DirEntry.drained (e : DirEntry) : Bool := e.state == .evicting && e.binds == 0 && e.jobs == 0

/-- EVICTION_DRAINED (R305): REMOVE enters RETIRING and completes; OFFLOAD goes on to its copy. -/
def State.drain (s : State) (h : Nat) : State :=
  let e := s.entry h
  if e.drained then (if e.mode = 1 then (s.toRetiring h).evictsDone h stOk else s) else s

/-- The command of that name. -/
def execEvictionDrained (h : Nat) (s : State) : Host.Outcome State Fault Refusal := .next (s.drain h)

/-- Waiting evictions end with ST_ABORTED and a detail. -/
def State.evictsAbort (s : State) (h detail : Nat) : State :=
  ((s.entry h).evicts.foldl (fun (s : State) j => s.finish j stAborted detail) s).modEntry h (fun e => { e with evicts := [] })

/-- The lines of a store image, quadrant by quadrant. -/
def State.storeLines (s : State) (p : Nat) (m : List Byte) (offs : List Nat) : List Line :=
  offs.zipIdx.flatMap (fun x => s.regionLines p x.2 1 (x.1 * s.stripeBytes p x.2) (lqBytesOf m (s.part p).quads.length x.2))

/-- What the uncorrectable words of a store image raise as it is read (R209, R245). -/
def State.storeMarks (s : State) (p : Nat) (m : List Byte) (offs : List Nat) : State :=
  offs.zipIdx.foldl (fun (s : State) x => s.regionMarks p 0 x.2 1 (x.1 * s.stripeBytes p x.2) (lqBytesOf m (s.part p).quads.length x.2)) s

/-- The units of an image whose lines hold an uncorrectable word. -/
def badUnits (ls : List Line) : List Nat := ((ls.zipIdx.filter (fun x => x.1.marks != 0)).map (fun x => x.2 / 64)).eraseDups

/-- OFFLOAD_COPY_DONE (R305): the image goes to the host tier, the store pages to the zero-fill. The copy waits while the
host tier has no room; where the generation counter has reached its top, the evictions end with STORE_FULL (R233) and the
handle is RESIDENT again (log entry 61). -/
def execOffloadCopyDone (h : Nat) (s : State) : Host.Outcome State Fault Refusal :=
  .next <|
    let e := s.entry h
    if e.drained && e.mode == 0 then
      let nq := (s.part e.part).quads.length
      match s.hostRoom (hostUnitsOf e.manifestBytes nq) with
      | none => s
      | some ix =>
        let ls := s.storeLines e.part e.manifestBytes e.offs
        match (s.storeMarks e.part e.manifestBytes e.offs).hostPlace e.part ix (some e.domain) (badUnits ls) (bytesOf ls) with
        | none => (s.evictsAbort h 0x27).modEntry h (fun e => { e with state := .resident, forced := false })
        | some s1 =>
          ((s1.storeDrop e.part e.manifestBytes e.offs).modEntry h (fun e => { e with
            state := .offloaded, offs := [], hostIndex := ix, hostUnits := hostUnitsOf e.manifestBytes nq })).evictsDone h stOk
    else s

/-- An eviction that a reload's end lets proceed, a domain close's among them (R308, R312). -/
def State.evictAfterReload (s : State) (h : Nat) : State :=
  let e := s.entry h
  if e.evicts.isEmpty && !e.closing then s
  else match e.state with
    | .resident => (s.beginEvict h e.mode e.forced).drain h
    | .offloaded => if e.mode = 1 then (s.toRetiring h).evictsDone h stOk else s.evictsDone h stAlreadyDone
    | _ => s

/-- ADAPTER_RELOAD_DONE (R304): every unit's tag holds and the handle is RESIDENT, or the first unit that fails ends the
reload. `answers` are units that host memory answers with other bytes than the device wrote. -/
def execAdapterReloadDone (h : Nat) (answers : List (Nat × List Byte)) (s : State) : Host.Outcome State Fault Refusal :=
  .next <|
    let e := s.entry h
    if e.state != .loading then s
    else
      let s0 := s.hostAnswers answers
      let nq := (s.part e.part).quads.length
      match s0.hostFault e.part e.hostIndex e.hostUnits with
      | none =>
        let s1 := s0.storeWrite e.part e.offs (splitImage e.manifestBytes nq nq (s0.hostTierRead e.part e.hostIndex e.hostUnits))
        let s2 := (s1.hostFree e.part e.hostIndex e.hostUnits).modEntry h (fun e => { e with state := .resident, waiting := [], hostUnits := 0, hostIndex := 0 })
        let s3 := e.waiting.foldl (fun s j => (s.finish j stOk).modCmd j (fun c => { c with res0 := (s.entry h).binds })) s2
        s3.evictAfterReload h
      | some u =>
        let s1 := s0.storeDrop e.part e.manifestBytes e.offs
        let s2 := e.waiting.foldl (fun s j => s.finish j stEcc) s1
        let s3 := (s2.modEntry h (fun e => { e with state := .offloaded, binds := 0, waiting := [], offs := [] })).raise
          0x09 0x122 e.part 0 0x7 u
        s3.evictAfterReload h

/-! ### Resources of a destroyed partition (R394) -/

/-- The handles of a partition that are not FREE. -/
def State.handlesOf (s : State) (p : Nat) : List Nat :=
  (s.dir.entries.filter (fun e => e.2.part == p && e.2.state != .free)).map Prod.fst

/-- DESTROYING: domain IDs and contexts return with the last handle; the number is FREE when every
pseudo-channel has returned as well. -/
def State.freeCheck (s : State) (p : Nat) : State :=
  let part := s.part p
  if part.state != .destroying then s
  else
    let none_ := (s.handlesOf p).isEmpty
    let s1 := if none_ then s.modPart p (fun x => { x with domCount := 0, ctxCount := 0, ctxs := [] }) else s
    if none_ && part.quads.all (fun k => k.pchs.isEmpty) then { s1 with parts := mdel p s1.parts } else s1

/-- HANDLE_RETIRED (R309): space freed, epoch advanced, FREE. -/
def execHandleRetired (h : Nat) (s : State) : Host.Outcome State Fault Refusal :=
  .next <|
    let e := s.entry h
    if e.state != .retiring then s
    else
      let s1 := if e.offs.isEmpty then s else s.storeDrop e.part e.manifestBytes e.offs
      let s2 := if e.hostUnits = 0 then s1 else s1.hostFree e.part e.hostIndex e.hostUnits
      let s3 := s2.modEntry h (fun e => { epoch := nextEpoch e.epoch })
      let s4 := { s3 with dir := { s3.dir with reissued := bump s3.dir.freeze s3.dir.reissued } }
      (s4.fire 0x122).freeCheck e.part

/-! ### Domain close (R312) -/

/-- Forced REMOVE of one handle. A reload in progress ends first (R308). -/
def State.forceRemove (s : State) (h : Nat) : State :=
  let e := s.entry h
  match e.state with
  | .resident => ((s.beginEvict h 1 true).modEntry h (fun e => { e with closing := true })).drain h
  | .evicting => (s.modEntry h (fun e => { e with mode := 1, forced := true, closing := true, binds := 0 })).drain h
  | .offloaded => (s.toRetiring h).evictsDone h stOk
  | .loading => s.modEntry h (fun e => { e with mode := 1, forced := true, closing := true })
  | _ => s

/-- The positions that a re-pin claims (R315). -/
def RegWork.claims (r : RegWork) : List (Digest × Nat × Nat) :=
  if r.repin then r.experts.map (fun x => (manBase r.manifest, x)) else []

/-- Positions given back. -/
def DirEntry.unclaim (e : DirEntry) (cs : List (Digest × Nat × Nat)) : DirEntry := { e with claims := cs.foldl List.erase e.claims }

/-- The store pages of a placement. -/
def State.storePages (s : State) (p : Nat) (m : List Byte) (offs : List Nat) : List (Nat × Nat × Nat) :=
  offs.zipIdx.flatMap (fun x => s.stripePages p x.2 1 x.1 (s.storeNeed p m x.2))

/-- What a registration still claims is released: the handle that it took, or the positions of a re-pin. -/
def DirEntry.settle (e : DirEntry) (a : Await) : DirEntry := if a.frees then e.toFree else e.unclaim a.claims

/-- A registration's claims are released, after the zero-fill of the pages that it has written (R290, R293, R295). -/
def State.releaseReg (s : State) (p : Nat) (r : RegWork) : State :=
  let pages := if r.placed then s.storePages p r.manifest r.offs else []
  let s1 := if r.placed && !r.offs.isEmpty then s.storeDrop p r.manifest r.offs else s
  let s2 := if r.placed && r.units != 0 then s1.hostFree p r.hostIndex r.units else s1
  let a : Await := ⟨pages, r.claims, !r.repin⟩
  s2.modEntry r.handle (fun e => if pages.isEmpty then e.settle a else { e with awaits := e.awaits ++ [a] })

/-- A page's zero-fill has ended: the claims that waited for it as their last page are released. -/
def DirEntry.filled (e : DirEntry) (x : Nat × Nat × Nat) : DirEntry :=
  let ws := e.awaits.map (fun a => { a with pages := a.pages.filter (fun y => y != x) })
  (ws.filter (fun a => a.pages.isEmpty)).foldl DirEntry.settle { e with awaits := ws.filter (fun a => !a.pages.isEmpty) }

/-- The directory as a page's zero-fill ends. -/
def State.pageFilled (s : State) (x : Nat × Nat × Nat) : State :=
  { s with dir := { s.dir with entries := (s.dir.entries.map (fun (e : Nat × DirEntry) =>
    if e.2.awaits.isEmpty then e else (e.1, e.2.filled x))).filter (fun (e : Nat × DirEntry) => e.2 != ({} : DirEntry)) } }

/-- End a registration that has not reached its commit point. -/
def State.failReg (s : State) (j : JobRef) (status : Nat) (detail : Nat := 0) : State :=
  match s.cmd j with
  | some c => match c.reg with
    | some r => ((s.releaseReg c.part r).finish j status detail).modCmd j (fun c => { c with reg := none })
    | none => s.finish j status detail
  | none => s

/-- A registration whose domain closes ends, as its step in progress ends, with ST_DOMAIN_FAULT (R290, R312). -/
def State.regClosed (s : State) (c : Cmd) : State :=
  (s.domainFault c.part c.job.job 0xFFFFFFFF 0x7).failReg c.job stDomainFault

/-- The pages of a domain become pending zero-fill (R229). -/
def State.dropDomainPages (s : State) (d : Nat) : State :=
  (List.range 8).foldl (fun s k =>
    (((s.stack k).pages.filter (fun e => e.2.valid && !e.2.shared && e.2.domain == d)).map Prod.fst).foldl
      (fun s key => s.dropPage k (key / 576) (key % 576)) s) s

/-- The key slot is erased, with Kd, the import key and every derived key (R229, R410). -/
def State.eraseDomain (s : State) (d : Nat) : State :=
  let s1 := s.dropDomainPages d
  let s2 := s1.modDom d (fun x => { gen := x.gen, opened := x.opened, exhausted := x.exhausted })
  { s2 with
    tri := { s2.tri with closes := bump s2.tri.freeze s2.tri.closes }
    vault := { s2.vault with closes := s2.vault.closes.map (fun c => if c.2.1 = d then (c.1, d, true) else c) } }

/-- Every handle of the domain has entered RETIRING, its last job reference is released, and no registration of it runs
(R312). A handle that only waits for the zero-fill of a failed registration does not hold the erasure. -/
def State.closeReady (s : State) (d : Nat) : Bool :=
  (s.dom d).closing && s.dir.entries.all (fun e => e.2.domain != d || e.2.state == .free || (e.2.state == .retiring && e.2.jobs == 0) ||
    (e.2.state == .registering && !e.2.awaits.isEmpty)) &&
  s.host.cmds.all (fun c => match c.reg with
    | some r => r.domain != d
    | none => true)

/-! ### Row resolution (R296, Table 8.7) -/

/-- The outcome of one row: status, and the handle of an accepted row that has an adapter. -/
def State.resolveRow (s : State) (p : Nat) (base : Digest) (w : Nat) : Nat × Option Nat :=
  let d := bitsOf w 20 12
  let h := bitsOf w 4 16
  let ep := bitsOf w 0 4
  let e := s.entry h
  if !s.domainOk p d then (stDomainFault, none)
  else if h = 0 && ep = 0 then (stOk, none)
  else if ep = 0 || e.state == .free || e.state == .registering || e.state == .retiring || e.part != p || ep != e.epoch then (stStale, none)
  else if e.domain != d then (stDomainFault, none)
  else if e.state == .offloaded || e.state == .loading || (e.state == .evicting && e.binds == 0) then (stEvicted, none)
  else if e.baseRetired then (stBaseRetired, none)
  else if e.base != base then (stBaseMismatch, none)
  else (stOk, some h)

/-- Resolve a row table; `only` is the step list of a TRAIN_STEP, whose other rows are void (R327). -/
def State.resolveRows (s : State) (p : Nat) (base : Digest) (only : Option (List Nat)) (ws : List Nat) : List Row :=
  ws.map (fun w =>
    let r := s.resolveRow p base w
    match r with
    | (0, some h) =>
      if (match only with
        | some l => !l.contains h
        | none => false) then { word := w, void := true, status := stFrozen }
      else { word := w, void := false, status := 0, adapter := true, copy := (s.entry h).live }
    | (0, none) => if only.isSome then { word := w, void := true, status := stFrozen } else { word := w, void := false, status := 0 }
    | (st, _) => { word := w, void := true, status := st })

/-- The handles of accepted rows, each once, with the copy latched (R297, R343). -/
def rowRefs (rows : List Row) : List (Nat × Nat) :=
  rows.foldl (fun l r => if r.adapter && !(l.any (fun x => x.1 == bitsOf r.word 4 16)) then l ++ [(bitsOf r.word 4 16, r.copy)] else l) []

/-- Count a resolution and raise EV_DOMAIN_FAULT once for each row of outcomes 1 and 4 (R298, R323). -/
def State.noteRows (s : State) (p job : Nat) (rows : List Row) : State :=
  let acc := (rows.filter (fun r => !r.void)).length
  let s1 := { s with dir := { s.dir with
    rowsAccepted := bump s.dir.freeze s.dir.rowsAccepted acc
    rowsVoid := bump s.dir.freeze s.dir.rowsVoid (rows.length - acc) } }
  rows.zipIdx.foldl (fun s x => if x.1.void && x.1.status == stDomainFault then s.domainFault p job x.2 0x1 else s) s1

/-! ### ADAPTER_BIND (R303) -/

/-- ADAPTER_BIND with op BIND. A handle whose base is retired takes no bind in any state (R313), and BIND_LIMIT holds in
LOADING too (log entry 62). -/
def execAdapterBind (j : JobRef) (s : State) : Host.Outcome State Fault Refusal :=
  .next <| match s.due j 0x19 with
  | none => s
  | some c =>
    if c.param 0x23 1 ≠ 0 then s
    else
      let h := c.param 0x20 2
      let chk := s.handleCheck c.part h (c.param 0x22 1)
      if chk ≠ stOk then
        (if chk = stDomainFault then s.domainFault c.part j.job 0xFFFFFFFF 0x7 else s).finish j chk
      else
        let e := s.entry h
        match e.state with
        | .resident =>
          if e.baseRetired then s.finish j stBaseRetired
          else if e.binds = 65535 then s.finish j stAborted 0x2D
          else ((s.modEntry h (fun e => { e with binds := e.binds + 1 })).finish j stOk).modCmd j (fun c => { c with res0 := e.binds + 1 })
        | .offloaded =>
          if e.baseRetired then s.finish j stBaseRetired
          else match s.storeRoom c.part e.manifestBytes with
          | none => s.finish j stAborted 0x27
          | some offs =>
            let s1 := s.storeClaim c.part e.manifestBytes offs e.domain
            (s1.modEntry h (fun e => { e with state := .loading, binds := 1, waiting := [j], offs := offs })).modCmd j
              (fun c => { c with phase := .running })
        | .loading =>
          if e.baseRetired then s.finish j stBaseRetired
          else if e.binds = 65535 then s.finish j stAborted 0x2D
          else (s.modEntry h (fun e => { e with binds := e.binds + 1, waiting := e.waiting ++ [j] })).modCmd j
            (fun c => { c with phase := .running })
        | _ => s.finish j stEvicted

/-- ADAPTER_BIND with op RELEASE. -/
def execAdapterBindRelease (j : JobRef) (s : State) : Host.Outcome State Fault Refusal :=
  .next <| match s.due j 0x19 with
  | none => s
  | some c =>
    if c.param 0x23 1 ≠ 1 then s
    else
      let h := c.param 0x20 2
      let chk := s.handleCheck c.part h (c.param 0x22 1)
      if chk ≠ stOk then
        (if chk = stDomainFault then s.domainFault c.part j.job 0xFFFFFFFF 0x7 else s).finish j chk
      else
        let e := s.entry h
        if e.state == .evicting && e.forced then s.finish j stEvicted
        else if e.state == .offloaded || e.binds = 0 then s.finish j stAlreadyDone
        else ((s.modEntry h (fun e => { e with binds := e.binds - 1 })).finish j stOk).modCmd j (fun c => { c with res0 := e.binds - 1 })

/-! ### ADAPTER_EVICT (R305 to R308) -/

/-- ADAPTER_EVICT of either mode. -/
def State.evict (s : State) (c : Cmd) (mode : Nat) : State :=
  let j := c.job
  let h := c.param 0x20 2
  let force := bitOf (c.param 0x24 1) 0
  let chk := s.handleCheck c.part h (c.param 0x22 1)
  if chk ≠ stOk then (if chk = stDomainFault then s.domainFault c.part j.job 0xFFFFFFFF 0x7 else s).finish j chk
  else
    let e := s.entry h
    let wait (s : State) : State := (s.modEntry h (fun e => { e with evicts := e.evicts ++ [j] })).modCmd j (fun c => { c with phase := .running })
    if !e.evicts.isEmpty || e.state == .evicting then
      if force then wait (s.modEntry h (fun e => { e with forced := true, binds := if e.state == .evicting then 0 else e.binds }))
      else s.finish j stSlotBusy
    else match e.state with
    | .offloaded => if mode = 1 then ((s.toRetiring h).evictsDone h stOk).finish j stOk else s.finish j stAlreadyDone
    | _ =>
      if mode = 0 && !(e.offloadOk && s.hostTierOn) then s.finish j stAborted 0x2C
      else if mode = 0 && 0xFFFFFFFF ≤ (s.part c.part).hostGen then s.finish j stAborted 0x27
      else match e.state with
        | .loading => wait (s.modEntry h (fun e => { e with mode := mode, forced := force }))
        | _ => wait (s.beginEvict h mode force)

/-- ADAPTER_EVICT with mode OFFLOAD. -/
def execAdapterEvictOffload (j : JobRef) (s : State) : Host.Outcome State Fault Refusal :=
  .next <| match s.due j 0x1A with
  | none => s
  | some c => if c.param 0x23 1 = 0 then s.evict c 0 else s

/-- ADAPTER_EVICT with mode REMOVE. -/
def execAdapterEvictRemove (j : JobRef) (s : State) : Host.Outcome State Fault Refusal :=
  .next <| match s.due j 0x1A with
  | none => s
  | some c => if c.param 0x23 1 = 1 then s.evict c 1 else s

/-! ### ADAPTER_REGISTER (R290 to R295, R314, R315) -/

/-- Step 6 of Table 8.6: the status that handle `h` gives the registration, 0 where it may go on. -/
def State.regStatus (s : State) (c : Cmd) (m : List Byte) (h : Nat) : Nat :=
  let e := s.entry h
  if manRepin m then
    if manEpoch m = 0 || e.part != c.part || e.state == .free || e.epoch != manEpoch m || e.domain != manDomain m ||
        e.manifest != digestOf (slice m 0x80 48) || fieldAt e.manifestBytes 0x40 1 != manRank m then stStale
    else if e.state != .resident && e.state != .offloaded then stSlotBusy
    else if manPayload m != 0 && (e.binds != 0 || e.jobs != 0) then stSlotBusy else stOk
  else if e.state != .free then stSlotBusy
  else if manEpoch m != 0 && manEpoch m != e.epoch then stStale else stOk

/-- Does the registration need room: it brings a payload or a seed, or it is new? -/
def regNeeds (m : List Byte) : Bool := !manRepin m || manPayload m != 0

/-- What the registration holds between its steps. -/
def regWorkOf (c : Cmd) (m : List Byte) (h : Nat) (offs : List Nat) (ix un : Nat) : RegWork :=
  { handle := h, repin := manRepin m, domain := manDomain m, place := c.param 0x20 1, manifest := m, digest := manDigest m
    experts := manPositions m, offs := offs, hostIndex := ix, units := un, trainable := manTrainable m
    placed := regNeeds m, imported := manSeed m || !regNeeds m, seeds := List.replicate (if manSeed m then manTensors m else 0) 0 }

/-- The registration goes on, with its claims made: a new handle is REGISTERING with its positions, a re-pin holds the
positions that it will publish (R292, R315), and the command runs. -/
def State.regGo (s : State) (c : Cmd) (m : List Byte) (r : RegWork) : State :=
  (s.modEntry r.handle (fun e =>
    if manRepin m then { e with claims := e.claims ++ r.claims }
    else { e with state := .registering, part := c.part, domain := manDomain m, base := manBase m, experts := r.experts })).modCmd c.job
    (fun c => { c with phase := .running, reg := some r })

/-- Step 8 of Table 8.6: space in the store or on the host tier. -/
def State.regSpace (s : State) (c : Cmd) (m : List Byte) (h : Nat) : State :=
  let units := hostUnitsOf m (s.part c.part).quads.length
  if !regNeeds m then s.regGo c m (regWorkOf c m h [] 0 0)
  else if c.param 0x20 1 = 0 then
    match s.storeRoom c.part m with
    | none => s.finish c.job stAborted 0x27
    | some offs => (s.storeClaim c.part m offs (manDomain m)).regGo c m (regWorkOf c m h offs 0 0)
  else if !(s.hostTierOn && manOffload m) then s.finish c.job stAborted 0x2C
  else match s.hostRoom units with
    | none => s.finish c.job stAborted 0x27
    | some ix =>
      if 0xFFFFFFFF ≤ (s.part c.part).hostGen then s.finish c.job stAborted 0x27
      else (s.modPart c.part (fun x => { x with
        hostGen := x.hostGen + 1, hosts := x.hosts ++ [⟨ix, units, x.hostGen + 1, some (manDomain m)⟩] })).regGo c m (regWorkOf c m h [] ix units)

/-- Steps 6 to 8 of Table 8.6: claims, then space. -/
def State.regClaim (s : State) (c : Cmd) (m : List Byte) : State :=
  match (if manAny m then s.freeHandle else some (manHandle m)) with
  | none => (s.countLost).finish c.job stSlotBusy
  | some h =>
    let st6 := s.regStatus c m h
    if st6 ≠ stOk then (if st6 = stSlotBusy && !manRepin m then s.countLost else s).finish c.job st6
    else if (manPositions m).any (fun x => s.positionHeld c.part (manBase m) x h) || !(manPositions m).Nodup then
      (s.countLost).finish c.job stSlotBusy
    else s.regSpace c m h

/-- The handle of a step-list entry (R325). -/
def leHandle (w : Nat) : Nat := bitsOf w 0 16

/-- The training slot of the device that lists a handle, as 16 × partition + slot (R324). -/
def State.listed (s : State) (h : Nat) : Option Nat :=
  (s.train.slots.find? (fun e => e.2.state != .clean && e.2.list.any (fun w => leHandle w == h))).map Prod.fst

/-- Step 11: the checks again, and the commit point. -/
def State.regCommit (s : State) (j : JobRef) : State :=
  match s.cmd j with
  | none => s
  | some c => match c.reg with
    | none => s
    | some r =>
      let part := s.part c.part
      let base := manBase r.manifest
      let e := s.entry r.handle
      let pay := manPayload r.manifest != 0
      if !s.domainOk c.part r.domain then s.regClosed c
      else if part.baseStatus base ≠ stOk then s.failReg j (part.baseStatus base)
      else if r.repin && ((e.state != .resident && e.state != .offloaded) || e.epoch != manEpoch r.manifest ||
          e.manifest != digestOf (slice r.manifest 0x80 48) || (pay && (e.binds != 0 || e.jobs != 0))) then s.failReg j stSlotBusy
      else
        let s0 := if r.repin && pay then
            let a := if e.offs.isEmpty then s else s.storeDrop c.part e.manifestBytes e.offs
            if e.hostUnits = 0 then a else a.hostFree c.part e.hostIndex e.hostUnits
          else s
        let s1 := s0.modEntry r.handle (fun e =>
          let e1 := { e.unclaim r.claims with
            part := c.part, domain := r.domain, base := base, manifest := r.digest, manifestBytes := r.manifest
            baseRetired := false, offloadOk := manOffload r.manifest, trainable := r.trainable, experts := r.experts }
          if r.repin && !pay then e1
          else { e1 with
            state := if r.place = 1 then .offloaded else .resident
            offs := r.offs, hostIndex := r.hostIndex, hostUnits := r.units, live := 0, step := 0, seeds := r.seeds
            slot := if r.repin then e.slot else (s.listed r.handle).map (· % 16) })
        let s1 := if r.repin && !pay && e.state == .resident && manRoom e.manifestBytes == manRoom r.manifest then
            s1.placeBytes c.part 0 1 (e.offs.getD 0 0 * s1.stripeBytes c.part 0) (linesOf (slice r.manifest 0 (manRoom r.manifest)))
          else s1
        let s2 := { s1 with dir := { s1.dir with registered := bump s1.dir.freeze s1.dir.registered } }
        (s2.finish j stOk).modCmd j (fun c => { c with
          reg := none, res0 := r.handle + 65536 * (s2.entry r.handle).epoch, count := min 0xFFFF r.degenerate })

/-- The commit point, which waits while a snapshot is copied (R424). -/
def State.regCommitOrWait (s : State) (j : JobRef) : State :=
  if s.vault.copying then { s with vault := { s.vault with deferred := s.vault.deferred ++ [.register j] } } else s.regCommit j

/-- ADAPTER_REGISTER: steps 1 to 8; a re-pin that keeps its weights goes on to step 11. -/
def execAdapterRegister (j : JobRef) (s : State) : Host.Outcome State Fault Refusal :=
  .next <| match s.due j 0x18 with
  | none => s
  | some c =>
    let len := c.param 0x24 4
    match s.hostRead (c.param 0x28 8) len with
    | none => s.finish j stAborted 0x51
    | some m =>
      match manFormat s.glb.level m len with
      | some (st, d) => s.finish j st d
      | none =>
        if !s.domainOk c.part (manDomain m) then (s.domainFault c.part j.job 0xFFFFFFFF 0x7).finish j stDomainFault
        else if !manSigOk (s.dom (manDomain m)).manifestKey m then
          ({ s with tri := { s.tri with sigFails := bump s.tri.freeze s.tri.sigFails } }).finish j stAborted 0x28
        else
          let part := s.part c.part
          if part.baseStatus (manBase m) ≠ stOk then s.finish j (part.baseStatus (manBase m))
          else match part.liveSet (manBase m) with
            | none => s.finish j stBaseMismatch
            | some set =>
              if !manShape set m then s.finish j stAborted 0x2A
              else
                let s1 := s.regClaim c m
                if manRepin m && manPayload m == 0 then s1.regCommitOrWait j else s1

/-- Step 9: unwrap the payload key, check digest and tag, and give the plaintext (R287, R293). -/
def importPlain (importKey : Key256) (m payload : List Byte) : Option (List Byte) := do
  let k ← gcmOpen (leBytes 32 importKey.toNat) (slice m 0xE0 12) (m.take 0x80) (slice m 0xB0 32) (slice m 0xD0 16)
  if sha384 payload ≠ digestOf (slice m 0x50 48) then none
  else gcmOpen k (slice m 0xF0 12) (m.take 0x50) payload (slice m 0x100 16)

/-- The weights of tensor entry i in the plaintext. -/
def plainWeights (m pt : List Byte) (i : Nat) : List Byte × List Byte :=
  let t := manTensor m i
  let a := 2 * t.k * manRank m
  (slice pt t.off a, slice pt (t.off + a) (2 * manRank m * t.n))

/-- Write every tensor's weights where the registration has placed the adapter. -/
def State.placeAdapter (s : State) (p : Nat) (r : RegWork) (w : Nat → List Byte × List Byte) : State :=
  let nq := (s.part p).quads.length
  let imgs := (List.range nq).map (fun lq => lqImage r.manifest nq lq w)
  if r.units = 0 then s.storeWrite p r.offs imgs
  else s.hostUnits (s.hostRoot p (some r.domain)) r.hostIndex ((((s.part p).extentOf r.hostIndex).map HostExtent.gen).getD 0) []
    (unitPieces imgs.flatten)

/-- ADAPTER_IMPORT_DONE: step 9 ends (R293); without SEED step 11 follows. -/
def execAdapterImportDone (j : JobRef) (s : State) : Host.Outcome State Fault Refusal :=
  .next <| match s.cmd j with
  | none => s
  | some c => match c.reg with
    | none => s
    | some r =>
      if r.imported || c.phase == .final then s
      else if !s.domainOk c.part r.domain then s.regClosed c
      else match s.hostRead (c.param 0x30 8) (manPayload r.manifest) with
        | none => s.failReg j stAborted 0x51
        | some pay =>
          match importPlain (s.dom r.domain).importKey r.manifest pay with
          | none => s.failReg j stAborted 0x29
          | some pt =>
            let s1 := (s.placeAdapter c.part r (plainWeights r.manifest pt)).modCmd j
              (fun c => { c with reg := some { r with imported := true } })
            s1.regCommitOrWait j

end Sys2Proof.Machine
end

