-- ==== Sys2Proof/Machine/Events.lean ====
section
/-! DEFINITION. Chapter 14's commands: event rings, delivery, EOI, ORBIT capture, collectors. -/

namespace Sys2Proof.Machine

/-- Codes whose records go to the VF ring as well (Table 14.2). -/
def vfCode (c : Nat) : Bool := [1, 2, 3, 5, 7, 9, 0xD].contains c

/-- The 32 bytes of an event record (Table 14.1). -/
def Event.bytes (e : Event) (phase lost : Bool) : List Byte :=
  leBytes 8 e.orbit ++ leBytes 1 e.code ++ leBytes 1 e.level ++ leBytes 2 e.source ++
  leBytes 1 (b2n phase + 2 * b2n lost + 4 * b2n e.synced) ++ leBytes 1 0 ++ leBytes 1 e.part ++ leBytes 1 0 ++
  leBytes 4 e.arg0 ++ leBytes 4 e.arg1 ++ leBytes 4 e.arg2 ++ leBytes 4 e.arg3

/-- A ring enters ERROR: source 0x124 fires once (R515). -/
def State.ringError (s : State) (fn : Fn) : State :=
  if (s.ring fn).state = .error then s
  else (s.modRing fn (fun r => { r with state := .error })).fire 0x124

/-- The source of a function's ring (R516). -/
def State.ringSourceOf (s : State) (fn : Fn) : Option Nat :=
  match fn with
  | .pf => some 0x300
  | .vf v => (s.partOfVf v).map (fun p => 0x200 + p)

/-- Write one record to a function's ring (R514 to R516). -/
def State.ringPut (s : State) (fn : Fn) (e : Event) : State :=
  let r := s.ring fn
  if !r.codes.getLsbD e.code then s
  else match r.state with
  | .off => s
  | .error => s.modRing fn (fun r => { r with lost := r.lost + 1 })
  | .running =>
    let size := 2 ^ r.sizeLog2
    let a := r.addr + 32 * r.tail
    if (r.tail + 1) % size = r.head then
      s.modRing fn (fun r => { r with lost := r.lost + 1, lostFlag := true })
    else if !s.hostOk a 32 then
      (s.ringError fn).modRing fn (fun r => { r with lost := r.lost + 1 })
    else
      let s1 := s.hostWrite a (e.bytes r.phase r.lostFlag)
      let tail := (r.tail + 1) % size
      let s2 := s1.modRing fn (fun r => { r with
        tail := tail, lostFlag := false,
        phase := if tail = 0 then !r.phase else r.phase })
      match s2.ringSourceOf fn with
      | some n => s2.fire n
      | none => s2

/-- EVENT_RING_WRITE: the oldest event whose ORBIT + 64 has passed (R511, R512). -/
def execEventRingWrite (s : State) : Host.Outcome State Fault Refusal :=
  match s.sdg.reorder with
  | [] => .next s
  | e :: es =>
    if s.now < e.orbit + 65 then .next s
    else
      let s1 := { s with sdg := { s.sdg with reorder := es } }
      let s2 := s1.ringPut .pf e
      .next <| match (if vfCode e.code && e.part != 0xFF then s2.fnOfPart e.part else none) with
        | some fn => s2.ringPut fn e
        | none => s2

/-- Where a source's message goes: none for TRITON. -/
def State.target (s : State) (n : Nat) : Option (Fn × Nat) :=
  if triSource n then none
  else if ringSource n then (s.ringFn n).map (fun fn => (fn, (s.ring fn).vector))
  else some (.pf, (mget {} s.sdg.cfg n).vector)

/-- Is source `n` held off at tick `t` by a mask (R519, R520)? -/
def State.heldOff (s : State) (n t : Nat) : Bool :=
  if triSource n then false
  else (pfSource n && (mget {} s.sdg.cfg n).mask.at_ t) ||
    match s.target n with
    | some (fn, v) => decide (v < s.vectorsOf fn) && s.vecMasked fn v t
    | none => true

/-- The source a decision at tick `d` takes: earliest first fire, then lowest number (R519). -/
def State.takeable (s : State) (d : Nat) : Option Nat :=
  (minBy (fun a b => decide (a.2.firstFire < b.2.firstFire) || (a.2.firstFire == b.2.firstFire && decide (a.1 ≤ b.1)))
    (s.sdg.src.filter (fun p => p.2.phase == .pending && !s.heldOff p.1 (d - 16)))).map Prod.fst

/-- The first held completion message that is not masked (R522, R523). -/
def State.heldReady (s : State) (d : Nat) : Option (Nat × Nat) :=
  s.sdg.held.find? (fun p => !s.vecMasked (fnOf p.1) p.2 (d - 16))

/-- Send a held completion message. -/
def State.sendHeld (s : State) (m : Nat × Nat) : State :=
  let s1 := { s with sdg := { s.sdg with held := s.sdg.held.filter (· != m), turnMsg := false } }
  if s.vectorsOf (fnOf m.1) ≤ m.2 then s1.fire 0x124 else s1.sendMsix (fnOf m.1) m.2

/-- Deliver source `n` (R519, R520, R532). -/
def State.deliver (s : State) (n : Nat) : State :=
  let c := mget {} s.sdg.src n
  let put (ph : SrcPhase) (cnt : Bool) : State :=
    let win := cnt && (s.sdg.gdis.now || s.heldOff n s.now)
    { s with sdg := { s.sdg with
        src := mset {} s.sdg.src n { c with phase := ph },
        turnMsg := true,
        delivered := if cnt then bump s.sdg.freeze s.sdg.delivered else s.sdg.delivered,
        window := if win then bump s.sdg.freeze s.sdg.window else s.sdg.window } }
  match s.target n with
  | none => put .inactive true
  | some (fn, v) =>
    if s.vectorsOf fn ≤ v then (put .inactive false).fire 0x124
    else (put .active true).sendMsix fn v

/-- DELIVERY_DECISION (R519 to R523). -/
def execDeliveryDecision (s : State) : Host.Outcome State Fault Refusal :=
  .next <|
    let d := s.now
    if s.sdg.gdis.at_ (d - 16) then s
    else match s.heldReady d, s.takeable d with
      | some m, some n => if s.sdg.turnMsg then s.sendHeld m else s.deliver n
      | some m, none => s.sendHeld m
      | none, some n => s.deliver n
      | none, none => s

/-- EOI of source `n`. -/
def State.eoi (s : State) (n : Nat) : State :=
  { s with sdg := { s.sdg with src := mmod {} s.sdg.src n Source.eoi } }

/-- SDG_EOI: of a source delivered to the PF (R531). -/
def execSdgEoi (value : Nat) (s : State) : Host.Outcome State Fault Refusal :=
  let n := bitsOf value 0 10
  .next (if s.hostUp && (pfSource n || n == 0x300) then s.eoi n else s)

/-- SDG_VF_EVR_EOI (R516, R536). -/
def execSdgVfEvrEoi (fn : Fn) (s : State) : Host.Outcome State Fault Refusal :=
  .next (match (if s.served fn then s.ringSourceOf fn else none) with
    | some n => s.eoi n
    | none => s)

/-- SDG_VF_EVR_HEAD (R514, R515). -/
def execSdgVfEvrHead (fn : Fn) (value : Nat) (s : State) : Host.Outcome State Fault Refusal :=
  let h := bitsOf value 0 16
  .next <| if !s.served fn then s else match (s.ring fn).state with
    | .running => if 2 ^ (s.ring fn).sizeLog2 ≤ h then s.ringError fn else s.modRing fn (fun r => { r with head := h })
    | _ => s

/-- A write of the CFG fields of a ring that is OFF (R536). IRQ_EN is the ENABLE of the ring's source (R516, R518). -/
def State.ringCfg (s : State) (fn : Fn) (cfg : Nat) (enable : Bool) : State :=
  let s1 := s.modRing fn (fun r => { r with
    sizeLog2 := bitsOf cfg 24 4, irqEn := bitOf cfg 11, vector := bitsOf cfg 0 11, enable := enable })
  match (if bitOf cfg 11 then none else s.ringSourceOf fn) with
  | some n => { s1 with sdg := { s1.sdg with src := mmod {} s1.sdg.src n Source.withdraw } }
  | none => s1

/-- EVENT_RING_ENABLE: a write of SDG_VF_EVR_CFG with ENABLE 1 (R515, R536). -/
def execEventRingEnable (fn : Fn) (cfg : Nat) (s : State) : Host.Outcome State Fault Refusal :=
  .next <| if !s.served fn then s else match (s.ring fn).state with
    | .off =>
      let size := bitsOf cfg 24 4
      let vec := bitsOf cfg 0 11
      let s1 := s.ringCfg fn cfg true
      if size < 6 || s.vectorsOf fn ≤ vec then s1.ringError fn
      else s1.modRing fn (fun r => { r with
        state := .running, tail := 0, head := 0, phase := true, lostFlag := false })
    | _ => s

/-- EVENT_RING_DISABLE: a write of ENABLE 0 (R515). -/
def execEventRingDisable (fn : Fn) (cfg : Nat) (s : State) : Host.Outcome State Fault Refusal :=
  .next <|
    if !s.served fn then s
    else if (s.ring fn).state = .off then s.ringCfg fn cfg false
    else s.modRing fn (fun r => { r with state := .off, enable := false })

/-- GDIS_WRITE: a write of SDG_CTRL that sets GDIS (R522, R530). -/
def execGdisWrite (value : Nat) (s : State) : Host.Outcome State Fault Refusal :=
  .next (if s.hostUp then
    { s with sdg := { s.sdg with gdis := s.sdg.gdis.write s.now (bitOf value 31), freeze := bitOf value 0 } } else s)

/-- SRC_CFG_WRITE (R518, R534). VECTOR is the field [10:0], so no value of it is at or above 2,048 (log entry 33). -/
def execSrcCfgWrite (n value : Nat) (s : State) : Host.Outcome State Fault Refusal :=
  .next <|
    if !s.hostUp || !pfSource n then s
    else
      let en := bitOf value 31
      let c := mget {} s.sdg.cfg n
      let src := if en then s.sdg.src else mmod {} s.sdg.src n Source.withdraw
      { s with sdg := { s.sdg with
          cfg := mset {} s.sdg.cfg n { enable := en, mask := c.mask.write s.now (bitOf value 30), vector := bitsOf value 0 11 },
          src := src } }

/-- SDG_CLEAR (R530): the counters and every COALESCED field. -/
def execSdgClear (s : State) : Host.Outcome State Fault Refusal :=
  .next <| if !s.hostUp then s else { s with sdg := { s.sdg with
    delivered := 0, coalesced := 0, window := 0, evLost := 0,
    src := (s.sdg.src.map (fun p => (p.1, { p.2 with coalesced := 0 }))).filter (fun p => p.2 != {}) } }

/-! ### Completion collectors (R524, R525, R537, R538) -/

/-- Collector order: ascending stamp, then ascending source. -/
def Post.le (a b : Post) : Bool := decide (a.stamp < b.stamp) || (a.stamp == b.stamp && decide (a.source ≤ b.source))

/-- Fire the source of every tile that begins to hold a post, once after a clear. -/
def State.fireHeld (s : State) (q : Nat) (ps : List Post) : State :=
  ps.foldl (fun s p =>
    if p.source < 0x100 && !(s.quad q).cc.fired.contains p.source then
      (s.modQuad q (fun k => { k with cc := { k.cc with fired := k.cc.fired ++ [p.source] } })).fire p.source
    else s) s

/-- COLLECTOR_ACCEPT: held posts first in order, then new ones, into the free entries (R525). -/
def execCollectorAccept (q : Nat) (posts : List Post) (s : State) : Host.Outcome State Fault Refusal :=
  .next <|
    let c := (s.quad q).cc
    let all := posts.foldl (fun l p => insertBy Post.le p l) c.held
    let free := Config.collectorEntries - c.entries.length
    let got := all.take free
    let left := all.drop free
    let tiles := (left.filter (fun p => decide (p.source < 0x100))).length
    State.fireHeld (q := q) (ps := left) <| s.modQuad q (fun k => { k with cc := { k.cc with
      entries := got.foldl (fun l p => insertBy Post.le p l) k.cc.entries,
      held := left,
      bpCycles := bump k.cc.freeze k.cc.bpCycles tiles } })

/-- CC_COUNTERS_CLEAR (R538). -/
def execCcCountersClear (q : Nat) (s : State) : Host.Outcome State Fault Refusal :=
  .next (if s.hostUp then s.modQuad q (fun k => { k with cc := { k.cc with bpCycles := 0, fired := [] } }) else s)

end Sys2Proof.Machine
end

