-- ==== Sys2Proof/Machine/Queues.lean ====
section
/-! DEFINITION. Chapter 13's queues: doorbells, enable and disable, descriptor checks and fetch, and the
completion record. -/

namespace Sys2Proof.Machine

/-! ### Who is served -/

/-- A disable of the function's partition runs: its doorbell writes are dropped (R393). -/
def State.disabling (s : State) : Fn → Bool
  | .pf => false
  | .vf v => match s.partOfVf v with
    | some p => (s.part p).state == .disabling
    | none => false

/-- A queue enters ERROR and source 0x124 fires (R485). -/
def State.queueError (s : State) (fn : Fn) (q err : Nat) : State :=
  if (s.queue fn q).state = .error then s
  else (s.modQueue fn q (fun x => { x with state := .error, err := err })).fire 0x124

/-- Size of a ring. -/
def Queue.size (x : Queue) : Nat := 2 ^ x.sizeLog2

/-- The commands of a queue whose records are not yet written. -/
def State.queueCmds (s : State) (fn : Fn) (q : Nat) : List Cmd :=
  s.host.cmds.filter (fun c => c.job.fn == fn && c.q == q)

/-- A DRAINING queue with no command left is OFF (R485). -/
def State.drainQueue (s : State) (fn : Fn) (q : Nat) : State :=
  if (s.queue fn q).state = .draining && (s.queueCmds fn q).isEmpty then
    s.modQueue fn q (fun x => { x with state := .off })
  else s

/-! ### Doorbells (R484) -/

/-- SQ_DOORBELL. -/
def execSqDoorbell (fn : Fn) (q value : Nat) (s : State) : Host.Outcome State Fault Refusal :=
  .next <|
    if !s.served fn || s.disabling fn || Config.queues ≤ q then s
    else
      let s1 := s.l2Wake
      let x := s1.queue fn q
      let tail := bitsOf value 0 16
      match x.state with
      | .running => if x.size ≤ tail then s1.queueError fn q 1 else s1.modQueue fn q (fun x => { x with tail := tail })
      | _ => s1

/-- CQ_DOORBELL. -/
def execCqDoorbell (fn : Fn) (q value : Nat) (s : State) : Host.Outcome State Fault Refusal :=
  .next <|
    if !s.served fn || s.disabling fn || Config.queues ≤ q then s
    else
      let s1 := s.l2Wake
      let x := s1.queue fn q
      let head := bitsOf value 0 16
      let size := x.size
      let used := (head + size - x.head) % size
      let unread := (x.cqTail + size - x.head) % size
      if x.state = .off then s1
      else if size ≤ head || unread < used then s1.queueError fn q 1
      else s1.modQueue fn q (fun x => { x with head := head, outstanding := x.outstanding - used, done := x.done.drop used })

/-! ### Enable and disable (R483, R485) -/

/-- CTX_COUNT that bounds CONTEXT; none for the PF, whose CONTEXT is ignored. -/
def State.ctxLimit (s : State) : Fn → Option Nat
  | .pf => none
  | .vf v => some (match s.partOfVf v with
    | some p => (s.part p).ctxCount
    | none => 0)

/-- The CFG fields other than ENABLE. -/
def Queue.setCfg (x : Queue) (cfg : Nat) : Queue :=
  { x with sizeLog2 := bitsOf cfg 24 4, context := bitsOf cfg 12 12, irqEn := bitOf cfg 11, vector := bitsOf cfg 0 11 }

/-- QUEUE_ENABLE: a write of ENABLE 1. -/
def execQueueEnable (fn : Fn) (q cfg : Nat) (s : State) : Host.Outcome State Fault Refusal :=
  .next <|
    if !s.served fn || Config.queues ≤ q || !bitOf cfg 31 then s
    else if (s.queue fn q).state != .off then s.modQueue fn q (fun x => { x with enable := true })
    else
      let s1 := s.modQueue fn q (fun x => { x.setCfg cfg with enable := true })
      let x := s1.queue fn q
      let badCtx := match s.ctxLimit fn with
        | some n => decide (n ≤ x.context)
        | none => false
      if x.sizeLog2 < 4 || 16 < x.sizeLog2 || badCtx || s.vectorsOf fn ≤ x.vector then s1.queueError fn q 4
      else s1.modQueue fn q (fun x => { x with
        state := .running, epoch := 1, err := 0, sqHead := 0, tail := 0, head := 0, cqTail := 0, phase := true, outstanding := 0, done := [] })

/-- QUEUE_DISABLE: a write of ENABLE 0. -/
def execQueueDisable (fn : Fn) (q cfg : Nat) (s : State) : Host.Outcome State Fault Refusal :=
  .next <|
    if !s.served fn || Config.queues ≤ q || bitOf cfg 31 then s
    else match (s.queue fn q).state with
      | .off => s.modQueue fn q (fun x => { x.setCfg cfg with enable := false })
      | _ => (s.modQueue fn q (fun x => { x with enable := false, state := .draining })).drainQueue fn q

/-! ### Descriptor checks (R480, R481) -/

/-- Byte ranges of the parameters that Table 13.8 names, or none for an undefined OPCODE. -/
def paramRanges : Nat → Option (List (Nat × Nat))
  | 0x01 => some [(0x20, 2), (0x24, 44)]
  | 0x02 => some [(0x20, 6), (0x28, 60)]
  | 0x03 => some [(0x20, 25)]
  | 0x10 => some [(0x20, 1), (0x24, 76)]
  | 0x11 => some [(0x20, 1), (0x22, 14)]
  | 0x12 => some [(0x20, 1)]
  | 0x18 => some [(0x20, 2), (0x24, 28)]
  | 0x19 => some [(0x20, 4)]
  | 0x1A => some [(0x20, 5)]
  | 0x20 => some [(0x20, 4)]
  | 0x21 => some [(0x20, 1)]
  | 0x22 => some [(0x20, 16)]
  | 0x23 => some [(0x20, 1), (0x22, 14)]
  | 0x30 => some [(0x20, 1), (0x24, 24)]
  | 0x31 => some [(0x20, 1), (0x24, 20)]
  | 0x32 => some [(0x20, 1), (0x24, 12)]
  | _ => none

/-- The named byte ranges of an OPCODE. -/
def namedBytes (op : Nat) : List (Nat × Nat) := (paramRanges op).getD []

/-- Reserved bits inside named parameters (Table 13.8). -/
def fieldReserved (d : List Byte) (op : Nat) : Bool :=
  if op = 0x1A then bitsOf (fieldAt d 0x24 1) 1 7 != 0
  else if op = 0x22 && fieldAt d 0x20 1 = 1 || op = 0x22 && fieldAt d 0x20 1 = 2 then bitsOf (fieldAt d 0x22 2) 12 3 != 0
  else false

/-- Check 3: some parameter byte that no name covers is not zero. -/
def paramReserved (d : List Byte) (op : Nat) : Bool :=
  ((List.range 96).any (fun i => (d.getD (0x20 + i) 0) != 0 &&
    (namedBytes op).all (fun r => decide (0x20 + i < r.1) || decide (r.1 + r.2 ≤ 0x20 + i)))) || fieldReserved d op

/-- Check 4: coded fields (Table 13.8). -/
def codedOk (d : List Byte) (op : Nat) : Bool :=
  let f (o : Nat) : Nat := fieldAt d o 1
  if op = 0x02 then decide (f 0x24 ≤ 1)
  else if op = 0x03 then decide (f 0x21 ≤ 3)
  else if op = 0x18 then decide (f 0x20 ≤ 1) && [0, 4, 5, 8].contains (f 0x21)
  else if op = 0x19 || op = 0x1A then decide (f 0x23 ≤ 1)
  else if op = 0x21 then decide (f 0x20 ≤ 1)
  else if op = 0x22 then decide (f 0x20 ≤ 2)
  else if op = 0x23 then decide (1 ≤ f 0x20) && decide (f 0x20 ≤ 3)
  else if op = 0x30 then decide (1 ≤ f 0x20) && decide (f 0x20 ≤ 5)
  else if op = 0x31 then decide (1 ≤ f 0x20) && decide (f 0x20 ≤ 4)
  else if op = 0x32 then decide (1 ≤ f 0x20) && decide (f 0x20 ≤ 2)
  else true

/-- Check 5: who may issue a command. -/
def mayIssue (fn : Fn) (op : Nat) : Bool :=
  match fn with
  | .pf => decide (0x10 ≤ op) && !(decide (0x18 ≤ op) && decide (op ≤ 0x1A))
  | .vf _ => decide (op < 0x30)

/-- Host addresses of the parameters. -/
def hostAddrs : Nat → List Nat
  | 0x01 => [0x28, 0x30, 0x38, 0x40]
  | 0x02 => [0x28, 0x48, 0x50, 0x58]
  | 0x03 => [0x28, 0x30]
  | 0x10 => [0x28, 0x30]
  | 0x11 => [0x28]
  | 0x18 => [0x28, 0x30, 0x38]
  | 0x23 => [0x28]
  | 0x30 => [0x28, 0x30]
  | 0x31 => [0x28, 0x30]
  | 0x32 => [0x28]
  | _ => []

/-- Does a PF command take a partition (R489)? -/
def takesPart (op : Nat) : Bool := !(op == 0x20 || op == 0x21 || op == 0x32)

/-- Reserved fields of the header (Table 13.3). -/
def headerReserved (fn : Fn) (d : List Byte) : Bool :=
  bitsOf (fieldAt d 2 2) 2 14 != 0 || fieldAt d 4 4 != 0 || fieldAt d 0x11 15 != 0 || (fn != .pf && fieldAt d 0x10 1 != 0)

/-- The partition a descriptor acts on. -/
def State.descPart (s : State) (fn : Fn) (d : List Byte) : Option Nat :=
  match fn with
  | .pf => some (fieldAt d 0x10 1)
  | .vf v => s.partOfVf v

/-- Check 6. A halted device lets the PF issue STORE alone (R608). -/
def State.fnActive (s : State) (fn : Fn) (d : List Byte) (op : Nat) : Bool :=
  if !s.isReady then op == 0x32
  else match fn with
  | .pf => !takesPart op || (s.part (fieldAt d 0x10 1)).state == .active
  | .vf v => match s.partOfVf v with
    | some p => (s.part p).state == .active && !(s.part p).importing
    | none => false

/-- The checks of Table 13.4 in order, after R45: the first failure's status and detail. -/
def State.descCheck (s : State) (fn : Fn) (d : List Byte) : Option (Nat × Nat) :=
  let op := fieldAt d 0 1
  if s.glb.level = 0 then some (stVersion, 0)
  else if headerReserved fn d then some (stReserved, 0)
  else if fieldAt d 1 1 ≠ s.glb.level || (paramRanges op).isNone then some (stVersion, 0)
  else if paramReserved d op then some (stReserved, 0)
  else if !codedOk d op then some (stVersion, 0)
  else if !mayIssue fn op then some (stAborted, 0x50)
  else if !s.fnActive fn d op then some (stFnDisabled, 0)
  else if (hostAddrs op).any (fun o => fieldAt d o 8 % 64 != 0) then some (stAborted, 0x51)
  else none

/-! ### Fetch (R482, R484) -/

/-- An open FENCE of a scope that covers the queue (R494). -/
def State.fenced (s : State) (fn : Fn) (q : Nat) : Bool :=
  s.host.cmds.any (fun c => c.op == 0x21 && c.phase != .final && c.job.fn == fn && (c.param 0x20 1 == 1 || c.q == q))

/-- Is fetching stopped for a function: power state, life-cycle transition, a suspended or disabling
partition (R426, R501, R583, R393)? -/
def State.fetchStopped (s : State) (fn : Fn) : Bool :=
  !(s.clk.pm == .d0 || s.clk.pm == .armed) || s.tri.lcBusy || s.lc == 5 ||
  (match fn with
    | .pf => false
    | .vf v => match s.partOfVf v with
      | some p => (s.part p).suspended || (s.part p).state == .disabling
      | none => false)

/-- Is a descriptor fetchable (R484)? -/
def State.fetchable (s : State) (fn : Fn) (q : Nat) : Bool :=
  let x := s.queue fn q
  s.served fn && decide (q < Config.queues) && x.state == .running && x.sqHead != x.tail &&
    decide (x.outstanding < x.size - 1) && !s.fenced fn q && !s.fetchStopped fn

/-- JOB_ID of the descriptor at SQ_HEAD. -/
def Queue.jobId (x : Queue) (q : Nat) : Nat := x.epoch * 2 ^ 28 + q * 2 ^ 16 + x.sqHead

/-- SQ_HEAD advances, and EPOCH with each wrap. -/
def Queue.advance (x : Queue) : Queue :=
  let h := (x.sqHead + 1) % x.size
  { x with sqHead := h, epoch := if h = 0 then nextEpoch x.epoch else x.epoch, outstanding := x.outstanding + 1 }

/-- The command of a fetched descriptor. -/
def State.cmdOf (s : State) (fn : Fn) (q : Nat) (d : List Byte) : Cmd :=
  let x := s.queue fn q
  { job := ⟨fn, x.jobId q⟩, q := q, index := x.sqHead, tag := fieldAt d 8 8, op := fieldAt d 0 1, flags := fieldAt d 2 2
    part := (s.descPart fn d).getD 0xFF, ctx := x.context, desc := d, order := s.host.nextOrder
    nv := if fieldAt d 0 1 = 0x32 then s.nvFields else [] }

/-- DESCRIPTOR_FETCH. -/
def execDescriptorFetch (fn : Fn) (q : Nat) (s : State) : Host.Outcome State Fault Refusal :=
  .next <|
    if !s.fetchable fn q then s
    else
      let x := s.queue fn q
      match s.hostRead (x.sq + 128 * x.sqHead) 128 with
      | none => s.queueError fn q 2
      | some d =>
        let c := s.cmdOf fn q d
        let s1 := s.modQueue fn q Queue.advance
        match s.descCheck fn d with
        | some (st, det) =>
          { s1 with host := { s1.host with
              cmds := s1.host.cmds ++ [c.finish st det]
              nextOrder := s1.host.nextOrder + 1
              refused := bump s1.host.freeze s1.host.refused } }
        | none =>
          let s2 := { s1 with
            glb := { s1.glb with locked := true }
            host := { s1.host with
              cmds := s1.host.cmds ++ [c]
              nextOrder := s1.host.nextOrder + 1
              accepted := bump s1.host.freeze s1.host.accepted } }
          if isJobOp c.op then s2.resched c.part else s2

/-! ### Completion records (R486, R490, R513) -/

/-- The record of a command (Table 13.6). -/
def Cmd.record (c : Cmd) (level : Nat) (phase : Bool) : List Byte :=
  leBytes 1 c.status ++ leBytes 1 level ++ leBytes 1 (b2n phase + 2 * b2n c.more) ++ leBytes 1 c.vflags ++ leBytes 4 c.job.job ++
  leBytes 8 c.tag ++ leBytes 2 c.detail ++ leBytes 2 (min 0xFFFF c.count) ++ leBytes 4 (min 0xFFFFFFFF c.res0) ++
  leBytes 4 (min 0xFFFFFFFF c.res1) ++ leBytes 4 (min 0xFFFFFFFF c.res2)

/-- May the record be written: its ABORT order and its events (R495, R513)? -/
def State.recordDue (s : State) (c : Cmd) : Bool :=
  c.phase == .final &&
  (match c.after with
    | some j => (s.cmd j).isNone
    | none => true) &&
  (c.posted.isEmpty || (decide (c.lastPost + 65 ≤ s.now) && s.sdg.reorder.all (fun e => decide (c.lastPost < e.orbit))))

/-- The final status of row i of a job (R299, R495). -/
def Cmd.rowStatus (c : Cmd) (r : Row) : Nat := if c.status = stAborted then stAborted else r.status

/-- ROW_STATUS's place in a RUN or TRAIN_STEP descriptor. -/
def Cmd.rowStatusAt (c : Cmd) : Nat := if c.op = 0x01 then c.param 0x40 8 else c.param 0x58 8

/-- The row key of a domain (R490). -/
def Domain.rowKey (d : Domain) : List Byte := kdf (leBytes 32 d.importKey.toNat) "ROWIO" [] 256

/-- Write one output block of a RUN (R490). -/
def State.writeOutput (s : State) (c : Cmd) (i : Nat) (r : Row) : State :=
  let n := c.param 0x4C 4
  let a := c.param 0x38 8 + i * (n + 32)
  if c.rowStatus r ≠ stOk then s.hostWrite a (List.replicate (n + 32) 0)
  else
    let d := bitsOf r.word 20 12
    let x := s.dom d
    let nonce := leBytes 8 x.outCtr ++ leBytes 4 0xFFFFFFFF
    let aad := leBytes 4 r.word ++ leBytes 4 c.job.job ++ leBytes 4 i
    let ct := gcmSeal x.rowKey nonce aad (slice (mget [] c.outs i) 0 n)
    (s.modDom d (fun x => { x with outCtr := x.outCtr + 1 })).hostWrite a (nonce ++ leBytes 4 0 ++ ct.2 ++ ct.1)

/-- Row outputs and the row status array, written before the record; false where a write fails. -/
def State.writeRows (s : State) (c : Cmd) : State × Bool :=
  if !isJobOp c.op || c.rows.isEmpty then (s, true)
  else if !s.hostOk c.rowStatusAt c.rows.length ||
      (c.op == 0x01 && !s.hostOk (c.param 0x38 8) (c.rows.length * (c.param 0x4C 4 + 32))) then (s, false)
  else
    let s1 := if c.op = 0x01 then c.rows.zipIdx.foldl (fun s x => s.writeOutput c x.2 x.1) s else s
    (s1.hostWrite c.rowStatusAt (c.rows.map (fun r => byte (c.rowStatus r))), true)

/-- Remove a command with its references. -/
def State.dropCmd (s : State) (c : Cmd) : State :=
  let s1 := s.dropRefs c
  ({ s1 with host := { s1.host with cmds := s1.host.cmds.filter (fun d => d.job != c.job || d.order != c.order) } }).drainQueue c.job.fn c.q

/-- COMMAND_COMPLETE. -/
def execCommandComplete (j : JobRef) (s : State) : Host.Outcome State Fault Refusal :=
  .next <| match s.cmd j with
  | none => s
  | some c0 =>
    if !s.recordDue c0 then s
    else if c0.mute then s.dropCmd c0
    else
      let w := s.writeRows c0
      let s1 := w.1
      let c := if w.2 then c0 else { c0 with status := stAborted, detail := 0x51 }
      let fn := j.fn
      let x := s1.queue fn c.q
      if x.state = .off || (x.state = .error && x.err = 3) then s1.dropCmd c
      else if !s1.hostOk (x.cq + 32 * x.cqTail) 32 then (s1.queueError fn c.q 3).dropCmd c
      else
        let s2 := s1.hostWrite (x.cq + 32 * x.cqTail) (c.record s1.recLevel x.phase)
        let t := (x.cqTail + 1) % x.size
        let s3 := s2.modQueue fn c.q (fun x => { x with
          cqTail := t, phase := if t = 0 then !x.phase else x.phase, done := x.done ++ [j.job] })
        let s4 := if x.irqEn && !bitOf c.flags 1 then s3.completionMsg fn x.vector else s3
        s4.dropCmd c

end Sys2Proof.Machine
end

