-- ==== Sys2Proof/Machine/Commit.lean ====
section
/-! DEFINITION. Chapter 9: step lists, the gradient accumulation buffer, the update pass and the commit
of a step, alone or in a group. -/

namespace Sys2Proof.Machine

/-! ### Sending on a domain binding (R451, R454) -/

/-- The open domain binding of a partition's domain to a peer. -/
def State.domainBinding (s : State) (p d peer : Nat) : Option Nat :=
  (s.jan.bindings.find? (fun b => b.2.kind == 2 && b.2.part == p && b.2.domain == d && b.2.peer == peer &&
    b.2.state == .open_)).map Prod.fst

/-- Change a binding. -/
def State.modBinding (s : State) (b : Nat) (f : Binding → Binding) : State :=
  { s with jan := { s.jan with bindings := mmod {} s.jan.bindings b f } }

/-- Queue messages on a binding: class 0 data, 1 control. -/
def State.queueMsg (s : State) (b cls : Nat) (ms : List JMsg) : State :=
  ms.foldl (fun (s : State) m =>
    let n := s.jan.order
    let s1 := s.modBinding b (fun x =>
      if cls = 0 then { x with data := { x.data with queued := x.data.queued ++ [(n, m)] } }
      else { x with ctrl := { x.ctrl with queued := x.ctrl.queued ++ [(n, m)] } })
    { s1 with jan := { s1.jan with order := n + 1 } }) s

/-- Send a message to a peer on the domain's binding; nothing where no binding is open. -/
def State.sendPeer (s : State) (p d peer cls : Nat) (m : JMsg) : State :=
  match s.domainBinding p d peer with
  | some b => s.queueMsg b cls [m]
  | none => s

/-! ### Buffer space (R215) -/

/-- Lines of a partition's buffer space in a logical quadrant. -/
def Part.bufLines (p : Part) (lq : Nat) : Nat := (p.quadAt lq).waysAddr.length * 32768

/-- A buffer-space line: its quadrant and its key in the quadrant's ways. -/
def Part.bufKey (p : Part) (lq l : Nat) : Option (Nat × Nat) :=
  let k := p.quadAt lq
  (k.waysAddr[l / 32768]?).map (fun w => (k.pq, w * 32768 + l % 32768))

/-- Read a buffer-space line. -/
def State.bufRead (s : State) (p lq l : Nat) : Line :=
  match (s.part p).bufKey lq l with
  | some (q, k) => mget clearLine (s.quad q).qb.lines k
  | none => clearLine

/-- What the uncorrectable words of a buffer-space line raise as it is read (R209). -/
def State.bufMarks (s : State) (p job lq l : Nat) : State :=
  match (s.part p).bufKey lq l with
  | some (q, k) => ((List.range 8).filter (fun w => (s.bufRead p lq l).marks.testBit w)).foldl (fun (s : State) _ => s.noteUe (.buf q) 4 p job k) s
  | none => s

/-- Write a buffer-space line whole. -/
def State.bufWrite (s : State) (p lq l : Nat) (v : Line) : State :=
  match (s.part p).bufKey lq l with
  | some (q, k) => s.modQuad q (fun x => { x with qb := { x.qb with lines := mset clearLine x.qb.lines k v } })
  | none => s

/-! ### Step lists (R325, R326) -/

def leEpoch (w : Nat) : Nat := bitsOf w 20 4
def leRule (w : Nat) : Nat := bitsOf w 24 4
def leReserved (w : Nat) : Bool := bitsOf w 16 4 != 0 || bitsOf w 28 36 != 0

/-- A step list from host memory. -/
def State.readList (s : State) (addr n : Nat) : Option (List Nat) :=
  (s.hostRead addr (8 * n)).map (fun bs => (List.range n).map (fun i => fieldAt bs (8 * i) 8))

/-- Rule row `r` of a domain (Table 9.6). -/
def ruleRow (rules : List Byte) (r : Nat) : List Byte := slice rules (80 * r) 80
/-- VALID of a rule row. -/
def ruleValid (row : List Byte) : Bool := bitOf (fieldAt row 0x3C 4) 0

/-- Outcomes 3 to 7 of Table 8.7 for one list entry. `set` is the job's set: none where outcome 7 is not
tested; else its base digest, none when no such set is loaded, and whether it is retired. -/
def State.entryStatus (s : State) (p : Nat) (set : Option (Option Digest × Bool)) (w : Nat) : Nat :=
  let e := s.entry (leHandle w)
  if leEpoch w = 0 || e.state == .free || e.state == .registering || e.state == .retiring || e.part != p || leEpoch w != e.epoch then stStale
  else if !(s.dom e.domain).open_ || (s.dom e.domain).closing then stDomainFault
  else if e.state == .offloaded || e.state == .loading || (e.state == .evicting && e.binds == 0) then stEvicted
  else if e.baseRetired || (set.map Prod.snd).getD false then stBaseRetired
  else if (match set with
    | some (some b, _) => e.base != b
    | some (none, _) => true
    | none => false) then stBaseMismatch
  else stOk

/-- Steps 1 to 5 of R326: the first failure's status and detail. -/
def State.listCheck (s : State) (p : Nat) (set : Option (Option Digest × Bool)) (list : List Nat) : Option (Nat × Nat) :=
  if list.any leReserved then some (stReserved, 0)
  else if list.isEmpty || 64 < list.length then some (stAborted, 0x31)
  else match (list.map (s.entryStatus p set)).find? (· != stOk) with
  | some st => some (st, 0)
  | none =>
    let es := list.map (fun w => s.entry (leHandle w))
    let d := ((es.map DirEntry.domain).headD 0)
    if es.any (fun e => !e.trainable) then some (stFrozen, 0)
    else if es.any (fun e => e.domain != d) || !(list.map leHandle).Nodup then some (stAborted, 0x31)
    else if list.any (fun w => !ruleValid (ruleRow (s.dom d).rules (leRule w))) then some (stAborted, 0x35)
    else none

/-- End a command at a list failure: R282's and R328's events. -/
def State.listFail (s : State) (c : Cmd) (f : Nat × Nat) : State :=
  let s1 := if f.1 = stFrozen then
      { s with train := { s.train with frozen := bump s.train.freeze s.train.frozen } }.raise 0x03 0x123 c.part c.job.job 0xFFFFFFFF
    else if f.1 = stDomainFault then s.domainFault c.part c.job.job 0xFFFFFFFF 0x7
    else s
  s1.finish c.job f.1 f.2

/-! ### Gradient accumulation buffer (R331) -/

/-- One factor's lines in the line space. -/
structure GabPart where
  handle : Nat
  /-- EPOCH of its list entry: the issue of the handle that messages about it name (R310). -/
  epoch : Nat
  rule : Nat
  tensor : Nat
  /-- Factor B rather than A, its TENSOR_ID and its elements. -/
  isB : Bool
  tid : Nat
  elems : Nat
  lq : Nat
  /-- First line within the quadrant, counted from GAB_OFF, and first line of the line space. -/
  first : Nat
  glob : Nat
  lines : Nat
  deriving DecidableEq, Repr

/-- Lines of a factor in a gradient format. -/
def gabLines (fmt e : Nat) : Nat := ceilDiv (e * (if fmt = 0 then 4 else 2)) 64

/-- Lay out factors: per-quadrant counters and the global counter move along. -/
def gabLayout (fmt : Nat) : List (Nat × Nat × Nat × Nat × Bool × Nat × Nat × Nat) → List (Nat × Nat) → Nat → List GabPart
  | [], _, _ => []
  | (h, ep, r, i, b, tid, e, lq) :: rest, used, g =>
    let n := gabLines fmt e
    let u := mget 0 used lq
    ⟨h, ep, r, i, b, tid, e, lq, u, g, n⟩ :: gabLayout fmt rest (mput lq (u + n) used) (g + n)

/-- The parts of a list's line space, in line-space order. -/
def State.gabParts (s : State) (p fmt : Nat) (list : List Nat) : List GabPart :=
  let nq := max 1 (s.part p).quads.length
  let fs := list.flatMap (fun w =>
    let h := leHandle w
    let m := (s.entry h).manifestBytes
    (List.range (manTensors m)).flatMap (fun i =>
      let t := manTensor m i
      [(h, leEpoch w, leRule w, i, false, t.idA, t.k * manRank m, i % nq), (h, leEpoch w, leRule w, i, true, t.idB, manRank m * t.n, i % nq)]))
  gabLayout fmt fs [] 0

/-- Lines a quadrant's part takes. -/
def gabQuadLines (ps : List GabPart) (lq : Nat) : Nat := ((ps.filter (fun g => g.lq == lq)).map GabPart.lines).sum

/-- GAB_LINES: the size of the line space. -/
def gabTotal (ps : List GabPart) : Nat := (ps.map GabPart.lines).sum

/-- The part that holds line `g` of the line space. -/
def gabPartAt (ps : List GabPart) (g : Nat) : Option GabPart := ps.find? (fun x => decide (x.glob ≤ g) && decide (g < x.glob + x.lines))

/-- The quadrant line that holds line `g` of the line space. -/
def gabLine (ps : List GabPart) (g : Nat) : Option (Nat × Nat) := (gabPartAt ps g).map (fun x => (x.lq, x.first + (g - x.glob)))

/-- The row tag word that messages about a part carry (R310). -/
def GabPart.word (g : GabPart) (domain : Nat) : Nat := domain * 2 ^ 20 + g.handle * 16 + g.epoch

/-- Does the directory still hold the issue that a message names (R310)? -/
def State.sameIssue (s : State) (h epoch : Nat) : Bool := (s.entry h).state != .free && (s.entry h).epoch == epoch

/-- The elements of a line in a gradient format. -/
def lineElems (fmt : Nat) (l : Line) : List Nat :=
  let w := if fmt = 0 then 32 else 16
  (List.range (512 / w)).map (fun i => l.get (i * w) w)

/-- A line from its elements. -/
def elemsData (fmt : Nat) (es : List Nat) : BitVec 512 :=
  let w := if fmt = 0 then 32 else 16
  BitVec.ofNat 512 (es.zipIdx.foldl (fun a x => a + x.1 % 2 ^ w * 2 ^ (w * x.2)) 0)

/-- The range checks of R334, as a detail; 0 when all hold. -/
def State.gabRanges (s : State) (p : Nat) (ps : List GabPart) (gabOff qbOff qbLines stashOff stashBytes : Nat) : Nat :=
  let part := s.part p
  let qs := List.range part.quads.length
  if qs.any (fun lq => decide (part.bufLines lq < gabOff + gabQuadLines ps lq) && decide (0 < gabQuadLines ps lq)) then 0x30
  else if qs.any (fun lq => decide (0 < qbLines) && (decide (part.bufLines lq < qbOff + qbLines) ||
      (decide (0 < gabQuadLines ps lq) && decide (gabOff < qbOff + qbLines) && decide (qbOff < gabOff + gabQuadLines ps lq)))) ||
      decide (part.s * shareBytes < stashOff + 2 * stashBytes) then 0x32
  else 0

/-- A zero line of KIND DOMAIN. -/
def domainZero (d : Nat) : Line := { kind := .domain, tag := d * 2 ^ 20 }

/-- GAB_ZERO_DONE (R332): the slot's lines are zero lines of its domain. -/
def execGabZeroDone (p slot : Nat) (s : State) : Host.Outcome State Fault Refusal :=
  .next <|
    let t := s.slot p slot
    if t.zeroing.isNone then s
    else
      let ps := s.gabParts p t.gradFmt t.list
      let s1 := (List.range (s.part p).quads.length).foldl (fun s lq =>
        (List.range (gabQuadLines ps lq)).foldl (fun s i => s.bufWrite p lq (t.gabOff + i) (domainZero t.domain)) s) s
      s1.modSlot p slot (fun t => { t with zeroing := none })

/-! ### The update rule (R347, R348) -/

/-- powt, by squaring; `fuel` bounds the bits of t. -/
def powt : Nat → Nat → Nat → Nat → Nat
  | 0, _, _, r => r
  | fuel + 1, x, n, r =>
    if n = 0 then r
    else powt fuel (f32Mul x x).bits (n / 2) (if n % 2 = 1 then (f32Mul r x).bits else r)

/-- F32 one. -/
def f32One : Nat := 0x3F800000

/-- The quotient of two integers rounded once to F32. -/
def ratio (a b : Nat) : Nat := (fF32.divV (.fin false a 0) (.fin false b 0)).bits

/-- sched(t) (R347). -/
def sched (warmup decayEnd t : Nat) : Nat :=
  if 0 < warmup ∧ t ≤ warmup then ratio t warmup
  else if warmup < decayEnd then (if decayEnd ≤ t then 0 else ratio (decayEnd - t) (decayEnd - warmup))
  else f32One

/-- The coefficients of one entry's update. -/
structure Rule where
  k : List Nat
  p1 : Nat
  p2 : Nat
  q1 : Nat
  q0 : Nat
  wd : Nat
  eta : Nat
  gscale : Nat
  s1En : Bool
  s2En : Bool
  deriving DecidableEq, Repr

/-- The per-step coefficients from a rule row (R347). -/
def ruleAt (row : List Byte) (t : Nat) : Rule :=
  let f (o : Nat) : Nat := fieldAt row o 4
  let biased (p bc : Nat) : Nat :=
    if (f32 bc).isZero then p else (f32Div p (f32Sub f32One (powt 33 bc t f32One)).bits).bits
  { k := (List.range 6).map (fun i => f (4 * i))
    p1 := biased (f 0x18) (f 0x34), p2 := f 0x1C
    q1 := biased (f 0x20) (f 0x38), q0 := f 0x24
    wd := f 0x28, eta := (f32Mul (f 0x2C) (sched (f 0x40) (f 0x44) t)).bits, gscale := f 0x30
    s1En := bitOf (f 0x3C) 1, s2En := bitOf (f 0x3C) 2 }

/-- What the update of one element leaves: F32 weight and moments, and what it counts. -/
structure Upd where
  w : Nat
  s1 : Nat
  s2 : Nat
  nonfinite : Bool
  rsqrtZero : Bool
  deriving DecidableEq, Repr

/-- A value encoded in F32. -/
def toF32 (v : FV) : Nat := (fF32.encode v).bits

/-- The update of one element (R348). -/
def updElem (r : Rule) (w s1 s2 gab : FV) : Upd :=
  let g := (fF32.mulV gab (f32 r.gscale)).bits
  if !(f32 g).isFin then ⟨toF32 w, toF32 s1, toF32 s2, true, false⟩
  else
    let z : FV := .fin false 0 0
    let m1 := if r.s1En then s1 else z
    let m2 := if r.s2En then s2 else z
    let k (i : Nat) : FV := f32 (r.k.getD i 0)
    let gg := (f32Mul g g).bits
    let mom (a : FV) (i : Nat) : Nat :=
      (f32Add (f32Add (fF32.mulV (k i) a).bits (fF32.mulV (k (i + 1)) (f32 g)).bits).bits (fF32.mulV (k (i + 2)) (f32 gg)).bits).bits
    let n1 := if r.s1En then mom m1 0 else 0
    let n2 := if r.s2En then mom m2 3 else 0
    let d := (f32Add (f32Mul r.q1 n2).bits r.q0).bits
    let pos := z.lt (f32 d)
    let rs := if pos then (fF32.rsqrtV (f32 d)).bits else 0
    let u := (f32Mul (f32Add (f32Mul r.p1 n1).bits (f32Mul r.p2 g).bits).bits rs).bits
    let u2 := (f32Add u (fF32.mulV (f32 r.wd) w).bits).bits
    let wn := (fF32.addV w (f32 (f32Mul r.eta u2).bits).neg).bits
    ⟨wn, n1, n2, false, !pos⟩

/-- Sixteen-bit element `i` of a plane. -/
def plane16 (bs : List Byte) (i : Nat) : Nat := fieldAt bs (2 * i) 2

/-- A Q16 moment (R96): code × block scale. -/
def q16Value (codes scales : List Byte) (i : Nat) : FV :=
  let c := sint 16 (plane16 codes i)
  match (FV.fin (decide (c < 0)) c.natAbs 0).mul (fB16.decode (bitsOf (fieldAt scales (4 * (i / 32)) 4) 0 16)) with
  | some v => v
  | none => .nan

/-- One factor's live planes. -/
structure Planes where
  w : List Byte
  s1 : List Byte
  s1s : List Byte
  s2 : List Byte
  s2s : List Byte
  deriving DecidableEq, Repr

/-- Byte offsets of one factor's planes within a copy: weights, first moment, second moment. -/
def planeOffs (t : ManTensor) (rank : Nat) (isB : Bool) : Nat × Nat × Nat :=
  let a := t.k * rank
  let b := rank * t.n
  let ws := weightBytes a + weightBytes b
  let ms := momentBytes a + momentBytes b
  if isB then (weightBytes a, ws + momentBytes a, ws + ms + momentBytes a) else (0, ws, ws + ms)

/-- Store byte of a factor's copy in its quadrant. -/
def State.copyBase (s : State) (h i copy : Nat) : Nat :=
  let e := s.entry h
  let nq := max 1 (s.part e.part).quads.length
  let m := e.manifestBytes
  (e.offs.getD (i % nq) 0) * s.stripeBytes e.part (i % nq) + tensorOff m nq i + copy * copyBytes true (manRank m) (manTensor m i)

/-- The byte ranges of a factor's planes in a copy of the store: weights, then codes and scales of each moment. -/
def State.planeRanges (s : State) (h i copy : Nat) (isB : Bool) : List (Nat × Nat) :=
  let m := (s.entry h).manifestBytes
  let t := manTensor m i
  let n := if isB then manRank m * t.n else t.k * manRank m
  let o := planeOffs t (manRank m) isB
  let b := s.copyBase h i copy
  let nb := 4 * ceilDiv n 32
  [(b + o.1, 2 * n), (b + o.2.1, 2 * n), (b + o.2.1 + lineUp (2 * n), nb), (b + o.2.2, 2 * n), (b + o.2.2 + lineUp (2 * n), nb)]

/-- The logical quadrant that holds tensor entry i of an adapter. -/
def State.tensorQuad (s : State) (h i : Nat) : Nat := i % max 1 (s.part (s.entry h).part).quads.length

/-- The planes of a factor in a copy. -/
def State.readPlanes (s : State) (h i copy : Nat) (isB : Bool) : Planes :=
  let rs := s.planeRanges h i copy isB
  let rd (k : Nat) : List Byte := s.regionRead (s.entry h).part (s.tensorQuad h i) 1 (rs.getD k (0, 0)).1 (rs.getD k (0, 0)).2
  ⟨rd 0, rd 1, rd 2, rd 3, rd 4⟩

/-- Does a live plane of a factor hold an uncorrectable word? -/
def State.planesBad (s : State) (h i copy : Nat) (isB : Bool) : Bool :=
  (s.planeRanges h i copy isB).any (fun r => (s.regionLines (s.entry h).part (s.tensorQuad h i) 1 r.1 r.2).any (fun l => l.marks != 0))

/-- What the uncorrectable words of a factor's planes raise as they are read (R209, R245). -/
def State.planeMarks (s : State) (job h i copy : Nat) (isB : Bool) : State :=
  (s.planeRanges h i copy isB).foldl (fun (s : State) r => s.regionMarks (s.entry h).part job (s.tensorQuad h i) 1 r.1 r.2) s

/-- Write the planes of a factor to a copy. -/
def State.writePlanes (s : State) (h i copy : Nat) (isB : Bool) (x : Planes) : State :=
  ((s.planeRanges h i copy isB).zip [x.w, x.s1, x.s1s, x.s2, x.s2s]).foldl (fun (s : State) r =>
    s.placeBytes (s.entry h).part (s.tensorQuad h i) 1 r.1.1 (linesOf r.2)) s

/-- Counts of one factor's update. -/
structure UpdCount where
  elements : Nat := 0
  nonfinite : Nat := 0
  sat : Nat := 0
  rsqrtZero : Nat := 0
  /-- A NaN moment was written (R111). -/
  invalid : Bool := false
  deriving DecidableEq, Repr

/-- Moments of blocks of 32 written to Q16 (R111, R349): codes, scales, clamps and the invalid flag. -/
def momentBlocks : Nat → List Nat → List Nat → List Byte × List Byte × Nat × Bool
  | 0, _, _ => ([], [], 0, false)
  | n + 1, vs, us =>
    let pad (l : List Nat) : List Nat := l.take 32 ++ List.replicate (32 - (l.take 32).length) 0
    let q := q16Block (pad vs) (pad us)
    let rest := momentBlocks n (vs.drop 32) (us.drop 32)
    (q.elems.flatMap (fun e => leBytes 2 (uint 16 e.code)) ++ rest.1, leBytes 4 q.entry ++ rest.2.1,
      (q.elems.filter QElem.sat).length + rest.2.2.1, q.elems.any QElem.invalid || rest.2.2.2)

/-- The update of one factor from its live planes and summed gradients (R347 to R349). -/
def updFactor (r : Rule) (seed t tid n : Nat) (live : Planes) (grad : Nat → FV) : Planes × UpdCount :=
  let us := (List.range n).map (fun i => updElem r (fB16.decode (plane16 live.w i)) (q16Value live.s1 live.s1s i)
    (q16Value live.s2 live.s2s i) (grad i))
  let rnd := (List.range n).map (fun i => (rand64 seed t tid i).toNat)
  let ws := (us.zip rnd).map (fun x => srB16 x.1.w (bitsOf x.2 0 16))
  let nb := ceilDiv n 32
  let m1 := momentBlocks nb (us.map Upd.s1) (rnd.map (fun x => bitsOf x 16 24))
  let m2 := momentBlocks nb (us.map Upd.s2) (rnd.map (fun x => bitsOf x 40 24))
  (⟨ws.flatMap (fun w => leBytes 2 w.1), m1.1.take (2 * n), m1.2.1, m2.1.take (2 * n), m2.2.1⟩,
    { elements := n
      nonfinite := (us.filter Upd.nonfinite).length
      sat := (ws.filter Prod.snd).length + m1.2.2.1 + m2.2.2.1
      invalid := m1.2.2.2 || m2.2.2.2
      rsqrtZero := (us.filter Upd.rsqrtZero).length })

/-- The gradient element of a part: from the exchange's sums, or from the slot's own lines. -/
def State.gradAt (s : State) (p : Nat) (t : TrSlot) (cm : Commit) (g : GabPart) (i : Nat) : FV :=
  let per := if t.gradFmt = 0 then 16 else 32
  let raw := match cm.sums.find? (fun x => x.1 == g.glob + i / per) with
    | some x => x.2.getD (i % per) 0
    | none => (lineElems t.gradFmt (s.bufRead p g.lq (t.gabOff + g.first + i / per))).getD (i % per) 0
  if t.gradFmt = 0 then f32 raw else fH16.decode raw

/-- Change a quadrant's UPU. -/
def State.modUpu (s : State) (q : Nat) (f : Upu → Upu) : State := s.modQuad q (fun k => { k with upu := f k.upu })

/-- Update one factor of a slot into the shadow copy. The write names the adapter by its row tag word: where the directory
holds another issue of the handle by then, it is dropped (R310). -/
def State.updPart (s : State) (p : Nat) (t : TrSlot) (cm : Commit) (acc : UpdCount) (g : GabPart) : State × UpdCount :=
  let q := ((s.part p).quadAt g.lq).pq
  if !s.sameIssue g.handle g.epoch then (s.staleDrop (g.word t.domain) (0x100 + q), acc)
  else
    let e := s.entry g.handle
    let step := e.step + 1
    let r := updFactor (ruleAt (ruleRow cm.rules g.rule) step) (s.dom e.domain).seed step g.tid g.elems
      (s.readPlanes g.handle g.tensor e.live g.isB) (s.gradAt p t cm g)
    let s1 := s.writePlanes g.handle g.tensor (1 - e.live) g.isB r.1
    let s2 := s1.modUpu q (fun u => { u with
      part := p
      elements := bump u.freeze u.elements r.2.elements
      nonfinite := bump u.freeze u.nonfinite r.2.nonfinite
      sat := bump u.freeze u.sat r.2.sat
      rsqrtZero := bump u.freeze u.rsqrtZero r.2.rsqrtZero })
    (s2, { acc with nonfinite := acc.nonfinite + r.2.nonfinite, sat := acc.sat + r.2.sat, invalid := acc.invalid || r.2.invalid })

/-- The gradient lines of a part in the slot's own buffer, as quadrant lines. -/
def GabPart.bufLines (g : GabPart) (t : TrSlot) : List Nat := (List.range g.lines).map (fun i => t.gabOff + g.first + i)

/-- Does an update meet an uncorrectable word: in the live planes of a part or, without an exchange, in its gradient
lines? -/
def State.updBad (s : State) (p : Nat) (t : TrSlot) (cm : Commit) (g : GabPart) : Bool :=
  s.planesBad g.handle g.tensor (s.entry g.handle).live g.isB ||
  (cm.sums.isEmpty && (g.bufLines t).any (fun l => let x := s.bufRead p g.lq l; x.marks != 0 || x.poison != 0))

/-- What the uncorrectable words that an update meets raise (R209). -/
def State.updMarks (s : State) (p : Nat) (t : TrSlot) (cm : Commit) (g : GabPart) : State :=
  let s1 := s.planeMarks cm.job.job g.handle g.tensor (s.entry g.handle).live g.isB
  if cm.sums.isEmpty then (g.bufLines t).foldl (fun (s : State) l => s.bufMarks p cm.job.job g.lq l) s1 else s1

/-- Advance UPU_BUSY by a number of FCLK cycles that the manual leaves open (R350; a free value). -/
def State.upuBusy (s : State) (q : Nat) : State :=
  let d := s.draw 32
  d.2.modUpu q (fun u => if u.freeze then u else { u with busy := u.busy + d.1 })

/-! ### The commit's ends (R343, R351, R355, R356) -/

/-- PAR_TRAIN_TIMEOUT in ORBIT ticks. -/
def State.trTimeout (s : State) : Nat := 1200 * s.train.timeout

/-- Change the commit of a slot. -/
def TrSlot.modCommit (t : TrSlot) (f : Commit → Commit) : TrSlot := { t with commit := t.commit.map f }

/-- The other members. -/
def Commit.others (cm : Commit) (self : Nat) : List Nat := cm.members.filter (· != self)

/-- The commit message of an attempt. -/
def Commit.msg (cm : Commit) (self : Nat) (cause : Nat := 0) : CommitMsg :=
  { sender := self, step := cm.step, members := cm.members.length, cause := cause, check := cm.check }

/-- Send one commit message to a peer. -/
def State.sendCommit (s : State) (p d peer typ : Nat) (m : CommitMsg) : State := s.sendPeer p d peer 1 (.commit typ m)

/-- Record a decision among the last 16. -/
def TrSlot.decide_ (t : TrSlot) (step out : Nat) : TrSlot := { t with decisions := ((step, out) :: t.decisions).take 16 }

/-- A slot without its list: the handles leave it, its history stays. -/
def State.clearSlot (s : State) (p k : Nat) : State :=
  let t := s.slot p k
  let s1 := t.list.foldl (fun (s : State) w => s.modEntry (leHandle w) (fun e => if e.slot = some k then { e with slot := none } else e)) s
  s1.modSlot p k (fun t => { seq := t.seq, group := t.group, domain := t.domain, decisions := t.decisions, acking := t.acking })

/-- Release the references an IN_DOUBT slot held. -/
def State.dropHeld (s : State) (p k : Nat) : State :=
  ((s.slot p k).held.foldl (fun (s : State) h => s.modEntry h.1 (fun e => { e with jobs := e.jobs - 1 })) s).modSlot p k
    (fun t => { t with held := [] })

/-- The commit point (R343): LIVE and the step counter of every handle, the slot CLEAN, PAR_TRAIN_SEQ. -/
def State.commitPoint (s : State) (p k : Nat) : State :=
  let t := s.slot p k
  let s1 := t.list.foldl (fun (s : State) w => s.modEntry (leHandle w) (fun e => { e with live := 1 - e.live, step := e.step + 1 })) s
  let s2 := ((s1.dropHeld p k).clearSlot p k).modSlot p k (fun t => { t with seq := t.seq + 1 })
  { s2 with train := { s2.train with commits := bump s2.train.freeze s2.train.commits } }

/-- The commit point and what follows it: the command's end, ACK or COMMIT and the wait for ACKs. -/
def State.commitNow (s : State) (p k : Nat) : State :=
  let t := s.slot p k
  match t.resolver with
  | some j => (s.commitPoint p k).finish j stOk
  | none => match t.commit with
    | none => s
    | some cm =>
      let self := s.glb.cfg.selfPeer
      let s1 := (s.commitPoint p k).modCmd cm.job (fun c => { c with res0 := cm.nonfinite, res1 := cm.sat, vflags := c.vflags ||| cm.vflags })
      if cm.members = [self] then s1.finish cm.job stOk
      else if cm.coord then
        let s2 := (cm.others self).foldl (fun (s : State) m => s.sendCommit p t.domain m 0x03 (cm.msg self)) s1
        s2.modSlot p k (fun t => { t.decide_ cm.step 0 with
          acking := t.acking ++ [{ cm with phase := .decided, acks := [self], readyAt := s.now, parts := [], sums := [] }] })
      else (s1.sendCommit p t.domain cm.coordPeer 0x05 (cm.msg self)).finish cm.job stOk

/-- Reach the commit point, or wait while a snapshot is copied (R424). -/
def State.commitOrWait (s : State) (p k : Nat) : State :=
  if s.vault.copying then { s with vault := { s.vault with deferred := s.vault.deferred ++ [.step p k] } } else s.commitNow p k

/-- The coordinator decides once it holds every READY (R355). -/
def State.tryDecide (s : State) (p k : Nat) : State :=
  match (s.slot p k).commit with
  | some cm =>
    if cm.coord && cm.phase == .voted && cm.members.all (fun m => cm.ready.contains m) then
      (s.modSlot p k (fun t => t.modCommit (fun c => { c with phase := .decided }))).commitOrWait p k
    else s
  | none => s

/-- Roll an attempt back (R356). The command ends with `status`, EV_ROLLBACK carries the cause. -/
def State.rollBack (s : State) (p k cause : Nat) (status : Nat := stRolledBack) : State :=
  let t := s.slot p k
  match t.commit with
  | none => s
  | some cm =>
    let self := s.glb.cfg.selfPeer
    let s1 :=
      if cm.coord && cm.members != [self] then
        ((cm.others self).foldl (fun (s : State) m => s.sendCommit p t.domain m 0x04 (cm.msg self cause)) s).modSlot p k
          (fun t => t.decide_ cm.step cause)
      else if cm.members != [self] && (cm.phase == .exchange || cm.phase == .update) then
        s.sendCommit p t.domain cm.coordPeer 0x02 (cm.msg self cause)
      else s
    let s2 := s1.modSlot p k (fun t => { t with state := .accumulating, commit := none })
    let s3 := s2.finish cm.job status (if status = stRolledBack then cause else 0)
    State.raise (code := 0x0D) (source := 0x123) (part := p) (a0 := k) (a1 := cm.step) (a2 := cause)
      { s3 with train := { s3.train with rollbacks := bump s3.train.freeze s3.train.rollbacks } }

/-! ### COMMIT_STEP (R329, R351 to R353, R359) -/

/-- COMMIT_STEP's slot; a number above 15 gives detail 0x31. -/
def State.commitStepSlot (s : State) (c : Cmd) (k : State → Nat → State) : State :=
  let n := c.param 0x20 1
  if 15 < n then s.finish c.job stAborted 0x31 else k s n

/-- COMMIT_STEP with op COMMIT is accepted for its slot. -/
def execCommitStepCommit (j : JobRef) (s : State) : Host.Outcome State Fault Refusal :=
  .next <| match s.due j 0x03 with
  | none => s
  | some c =>
    if c.param 0x21 1 ≠ 0 then s
    else s.commitStepSlot c (fun s _ => s.modCmd j (fun c => { c with phase := .running }))

/-- An earlier TRAIN_STEP of the slot has not completed. -/
def State.trainsBefore (s : State) (c : Cmd) (k : Nat) : Bool :=
  s.host.cmds.any (fun d => d.op == 0x02 && d.part == c.part && d.param 0x20 1 == k && decide (d.order < c.order) && d.phase != .final)

/-- An earlier COMMIT_STEP of the slot has not taken effect: none has started, ended or resolved it (R329). -/
def State.commitsQueued (s : State) (c : Cmd) (k : Nat) : Bool :=
  let t := s.slot c.part k
  s.host.cmds.any (fun d => d.op == 0x03 && d.part == c.part && d.param 0x20 1 == k && decide (d.order < c.order) && d.phase != .final &&
    !t.acking.any (fun a => a.job == d.job) && t.resolver != some d.job &&
    (match t.commit with
      | some cm => cm.job != d.job
      | none => true))

/-- The ROLE of a listed device (R352): its own, or its peer session's. -/
def State.roleOf (s : State) (peer : Nat) : Nat :=
  if peer = s.glb.cfg.selfPeer then s.glb.cfg.role else (mget {} s.jan.sessions peer).role

/-- The list check of R352. -/
def State.listDigest (s : State) (list : List Nat) : Nat :=
  let bs := list.flatMap (fun w => digestBytes (s.entry (leHandle w)).manifest ++ leBytes 4 (s.entry (leHandle w)).step)
  leNat ((sha384B bs).take 8)

/-- The checks of a member list: detail 0x31 or the coordinator. -/
def State.membersOk (s : State) (ms : List Nat) : Option Nat :=
  let self := s.glb.cfg.selfPeer
  let coords := ms.filter (fun m => s.roleOf m == 2)
  if ms.isEmpty || 4096 < ms.length || !(ms.Pairwise (· < ·)) || !ms.contains self then none
  else if ms = [self] then some self
  else if s.roleOf self = 0 then none
  else match coords with
    | [c] => some c
    | _ => none

/-- The first phase of an exchange: every line goes to its owner (R353). -/
def State.sendParts (s : State) (p : Nat) (t : TrSlot) (cm : Commit) : State :=
  let ps := s.gabParts p t.gradFmt t.list
  let n := cm.members.length
  (List.range (gabTotal ps)).foldl (fun (s : State) l =>
    if l % n = cm.rank then s
    else match gabLine ps l with
      | none => s
      | some (lq, q) =>
        let x := s.bufRead p lq (t.gabOff + q)
        s.sendPeer p t.domain (cm.members.getD (l % n) 0) 0 (.exchPart l (lineElems t.gradFmt x) (x.marks != 0 || x.poison != 0))) s

/-- The lines of a slot's line space that its first phase sends to other members hold an uncorrectable word. -/
def State.partsBad (s : State) (p : Nat) (t : TrSlot) (cm : Commit) : Bool :=
  let ps := s.gabParts p t.gradFmt t.list
  (List.range (gabTotal ps)).any (fun l => l % cm.members.length != cm.rank && (match gabLine ps l with
    | some (lq, q) => (s.bufRead p lq (t.gabOff + q)).marks != 0 || (s.bufRead p lq (t.gabOff + q)).poison != 0
    | none => false))

/-- What the uncorrectable words raise that the first phase of an exchange meets (R209, R356). -/
def State.partsMarks (s : State) (p : Nat) (t : TrSlot) (cm : Commit) : State :=
  let ps := s.gabParts p t.gradFmt t.list
  (List.range (gabTotal ps)).foldl (fun (s : State) l =>
    if l % cm.members.length = cm.rank then s
    else match gabLine ps l with
      | some (lq, q) => s.bufMarks p cm.job.job lq (t.gabOff + q)
      | none => s) s

/-- An attempt begins: a device alone updates at once; in a group the parts go out, unless the exchange meets an
uncorrectable word (R353, R356). -/
def State.beginAttempt (s : State) (p k : Nat) (t : TrSlot) (cm : Commit) : State :=
  if cm.phase == .update then s
  else if s.partsBad p t cm then (s.partsMarks p t cm).rollBack p k 0x3B
  else s.sendParts p t cm

/-- A step list that fails a check ends the group's attempt (R356): a member votes, the coordinator tells the others. The
command itself ends with the check's status (log entry 76). -/
def State.refuseGroup (s : State) (c : Cmd) (ms : List Nat) : State :=
  let k := c.param 0x20 1
  let t := s.slot c.part k
  let self := s.glb.cfg.selfPeer
  let m : CommitMsg := { sender := self, step := c.param 0x24 4, members := ms.length, cause := 0x3D, check := s.listDigest t.list }
  match s.membersOk ms with
  | none => s
  | some coord =>
    if ms = [self] then s
    else if coord = self then
      ((ms.filter (· != self)).foldl (fun (s : State) x => s.sendCommit c.part t.domain x 0x04 m) s).modSlot c.part k
        (fun t => t.decide_ m.step 0x3D)
    else s.sendCommit c.part t.domain coord 0x02 m

/-- COMMIT_STEP_START: the checks again, then the slot is COMMITTING. -/
def execCommitStepStart (j : JobRef) (s : State) : Host.Outcome State Fault Refusal :=
  .next <| match s.cmd j with
  | none => s
  | some c =>
    let k := c.param 0x20 1
    if c.op ≠ 0x03 || c.param 0x21 1 ≠ 0 || c.phase != .running || !s.waitOk c || s.trainsBefore c k || s.commitsQueued c k ||
        (match (s.slot c.part k).commit with
          | some cm => cm.job == j
          | none => false) || (s.slot c.part k).acking.any (fun a => a.job == j) then s
    else
      let t := s.slot c.part k
      let nm := c.param 0x22 2
      match t.state with
      | .committing => s.finish j stSlotBusy
      | .inDoubt => s.finish j stAborted 0x34
      | .clean => s.finish j stAborted 0x31
      | .accumulating =>
        match s.readList (c.param 0x28 8) (c.param 0x38 1), s.hostRead (c.param 0x30 8) (2 * nm) with
        | some list, some mb =>
          let ms := (List.range nm).map (fun i => fieldAt mb (2 * i) 2)
          match s.listCheck c.part none list with
          | some f => (s.refuseGroup c ms).listFail c f
          | none =>
            if list ≠ t.list then (s.refuseGroup c ms).finish j stAborted 0x31
            else if t.partialG then s.finish j stAborted 0x36
            else if list.any (fun w => (s.entry (leHandle w)).step == 0xFFFFFFFF) then s.finish j stAborted 0x33
            else if ms.any (fun m => decide (4096 ≤ m)) then s.finish j stReserved
            else match s.membersOk ms with
              | none => s.finish j stAborted 0x31
              | some coord =>
                let self := s.glb.cfg.selfPeer
                let solo := ms == [self]
                let cm : Commit := { job := j, phase := if solo then .update else .exchange, members := ms
                                     rank := (ms.idxOf? self).getD 0, coord := coord == self, coordPeer := coord
                                     step := c.param 0x24 4, check := s.listDigest list, start := s.now }
                let s1 := list.foldl (fun (s : State) w => s.modEntry (leHandle w) (fun e => { e with jobs := e.jobs + 1 })) s
                let s2 := s1.modCmd j (fun c => { c with refs := list.map (fun w => (leHandle w, (s.entry (leHandle w)).live)) })
                let s3 := s2.modSlot c.part k (fun t => { t with state := .committing, group := cm.step, commit := some cm })
                s3.beginAttempt c.part k t cm
        | _, _ => s.finish j stAborted 0x51

/-- COMMIT_STEP with op DISCARD (R359). -/
def execCommitStepDiscard (j : JobRef) (s : State) : Host.Outcome State Fault Refusal :=
  .next <| match s.due j 0x03 with
  | none => s
  | some c =>
    if c.param 0x21 1 ≠ 1 then s
    else s.commitStepSlot c (fun s k =>
      if s.trainsBefore c k || s.commitsQueued c k then s
      else match (s.slot c.part k).state with
        | .committing => s.finish j stSlotBusy
        | .inDoubt => s.finish j stAborted 0x34
        | _ => ((s.clearSlot c.part k).modSlot c.part k (fun t => { t with group := c.param 0x24 4 })).finish j stOk)

/-- COMMIT_STEP with op RESOLVE_COMMIT (R357). -/
def execResolveCommit (j : JobRef) (s : State) : Host.Outcome State Fault Refusal :=
  .next <| match s.due j 0x03 with
  | none => s
  | some c =>
    if c.param 0x21 1 ≠ 2 then s
    else s.commitStepSlot c (fun s k =>
      if (s.trainsBefore c k && (s.slot c.part k).state != .inDoubt) || s.commitsQueued c k then s
      else if (s.slot c.part k).state = .inDoubt && (s.slot c.part k).resolver.isNone then
        ((s.modSlot c.part k (fun t => { t with resolver := some j, group := c.param 0x24 4 })).modCmd j
          (fun c => { c with phase := .running })).commitOrWait c.part k
      else s.finish j stAborted 0x31)

/-- COMMIT_STEP with op RESOLVE_ROLLBACK (R357): a rollback with cause 0x3C. -/
def execResolveRollback (j : JobRef) (s : State) : Host.Outcome State Fault Refusal :=
  .next <| match s.due j 0x03 with
  | none => s
  | some c =>
    if c.param 0x21 1 ≠ 3 then s
    else s.commitStepSlot c (fun s k =>
      if (s.trainsBefore c k && (s.slot c.part k).state != .inDoubt) || s.commitsQueued c k then s
      else if (s.slot c.part k).state = .inDoubt && (s.slot c.part k).resolver.isNone then
        let step := (((s.slot c.part k).commit).map Commit.step).getD 0
        let s1 := (s.dropHeld c.part k).modSlot c.part k (fun t => { t with state := .accumulating, commit := none, group := c.param 0x24 4 })
        let s2 := { s1 with train := { s1.train with rollbacks := bump s1.train.freeze s1.train.rollbacks } }
        (s2.raise 0x0D 0x123 c.part k step 0x3C).finish j stOk
      else s.finish j stAborted 0x31)

/-! ### Exchange and update -/

/-- The slot of a domain binding whose commit runs; with a step, the one of that attempt. -/
def State.slotOfBinding (s : State) (b : Binding) (step : Option Nat) : Option Nat :=
  (List.range 16).find? (fun k =>
    let t := s.slot b.part k
    match t.commit with
    | some cm => t.domain == b.domain && t.state == .committing && cm.members.contains b.peer &&
        (match step with
          | some n => cm.step == n
          | none => true)
    | none => false)

/-- Every line of the line space is summed: the update may follow. -/
def State.exchangeDone (s : State) (p k : Nat) : State :=
  let t := s.slot p k
  match t.commit with
  | some cm =>
    let n := gabTotal (s.gabParts p t.gradFmt t.list)
    if cm.phase == .exchange && (List.range n).all (fun l => cm.sums.any (fun x => x.1 == l)) then
      s.modSlot p k (fun t => t.modCommit (fun c => { c with phase := .update }))
    else s
  | none => s

/-- Does an exchange message about a line name an issue of a handle that the directory no longer holds (R310)? -/
def State.exchStale (s : State) (p k line : Nat) : Bool :=
  match gabPartAt (s.gabParts p (s.slot p k).gradFmt (s.slot p k).list) line with
  | some g => !s.sameIssue g.handle g.epoch
  | none => false

/-- Drop an exchange message about a line (R310). -/
def State.exchDrop (s : State) (p k line : Nat) : State :=
  match gabPartAt (s.gabParts p (s.slot p k).gradFmt (s.slot p k).list) line with
  | some g => s.staleDrop (g.word (s.slot p k).domain) (0x100 + ((s.part p).quadAt g.lq).pq)
  | none => s

/-- EXCH_PART: an owner receives a member's part (R353). -/
def execExchPart (binding line : Nat) (elems : List Nat) (bad : Bool) (s : State) : Host.Outcome State Fault Refusal :=
  .next <|
    let b := mget {} s.jan.bindings binding
    if b.state != .open_ || b.kind ≠ 2 then s
    else match s.slotOfBinding b none with
      | none => s
      | some k => match (s.slot b.part k).commit with
        | none => s
        | some cm =>
          if cm.phase != .exchange || line % cm.members.length != cm.rank then s
          else if s.exchStale b.part k line then s.exchDrop b.part k line
          else if bad then s.rollBack b.part k 0x3B
          else
            let r := (cm.members.idxOf? b.peer).getD 0
            s.modSlot b.part k (fun t => t.modCommit (fun c => { c with
              parts := c.parts.filter (fun x => !(x.1 == r && x.2.1 == line)) ++ [(r, line, elems)] }))

/-- A gradient element decoded exactly. -/
def gradVal (fmt raw : Nat) : FV := if fmt = 0 then f32 raw else fH16.decode raw

/-- The sum of one element over the ranks, rounded to GRAD_FMT (R353). -/
def sumElem (fmt : Nat) (raws : List Nat) : Nat :=
  let acc := raws.foldl (fun a r => (fF32.addV (f32 a) (gradVal fmt r)).bits) 0
  if fmt = 0 then acc else (fH16.encode (f32 acc)).bits

/-- EXCHANGE_SUM_DONE: an owner has summed a line in rank order and sends the sum (R353). -/
def execExchangeSumDone (p slot line : Nat) (s : State) : Host.Outcome State Fault Refusal :=
  .next <|
    let t := s.slot p slot
    match t.commit with
    | none => s
    | some cm =>
      let ps := s.gabParts p t.gradFmt t.list
      let n := cm.members.length
      match gabLine ps line with
      | none => s
      | some (lq, q) =>
        let own := s.bufRead p lq (t.gabOff + q)
        let part (r : Nat) : Option (List Nat) :=
          if r = cm.rank then some (lineElems t.gradFmt own)
          else (cm.parts.find? (fun x => x.1 == r && x.2.1 == line)).map (fun x => x.2.2)
        match (List.range n).mapM part with
        | none => s
        | some rows =>
          if cm.phase != .exchange || line % n != cm.rank || cm.sums.any (fun x => x.1 == line) then s
          else if own.marks != 0 || own.poison != 0 then
            (s.bufMarks p cm.job.job lq (t.gabOff + q)).rollBack p slot 0x3B
          else
            let w := if t.gradFmt = 0 then 16 else 32
            let sum := (List.range w).map (fun i => sumElem t.gradFmt (rows.map (fun r => r.getD i 0)))
            let s1 := s.modSlot p slot (fun t => t.modCommit (fun c => { c with
              sums := c.sums ++ [(line, sum)], parts := c.parts.filter (fun x => x.2.1 != line) }))
            let s2 := (s1.modUpu ((s.part p).quadAt lq).pq (fun u => { u with
              part := p, adds := bump u.freeze u.adds (n * w) })).upuBusy ((s.part p).quadAt lq).pq
            let s3 := (cm.others s.glb.cfg.selfPeer).foldl (fun (s : State) m =>
              s.sendPeer p t.domain m 0 (.exchSum line sum false)) s2
            s3.exchangeDone p slot

/-- EXCH_SUM: a member receives a summed line (R353). -/
def execExchSum (binding line : Nat) (elems : List Nat) (bad : Bool) (s : State) : Host.Outcome State Fault Refusal :=
  .next <|
    let b := mget {} s.jan.bindings binding
    if b.state != .open_ || b.kind ≠ 2 then s
    else match s.slotOfBinding b none with
      | none => s
      | some k => match (s.slot b.part k).commit with
        | none => s
        | some cm =>
          if cm.phase != .exchange || (cm.members.idxOf? b.peer) != some (line % cm.members.length) ||
              cm.sums.any (fun x => x.1 == line) then s
          else if s.exchStale b.part k line then s.exchDrop b.part k line
          else if bad then s.rollBack b.part k 0x3B
          else (s.modSlot b.part k (fun t => t.modCommit (fun c => { c with sums := c.sums ++ [(line, elems)] }))).exchangeDone b.part k

/-- A job other than the commit still holds a reference latched on a shadow copy (R344). -/
def State.shadowHeld (s : State) (t : TrSlot) (job : JobRef) : Bool :=
  s.host.cmds.any (fun c => c.job != job && c.refs.any (fun h =>
    t.list.any (fun w => leHandle w == h.1) && h.2 == 1 - (s.entry h.1).live))

/-- UPU_UPDATE_START (R344, R347). -/
def execUpuUpdateStart (p slot : Nat) (s : State) : Host.Outcome State Fault Refusal :=
  .next <|
    let t := s.slot p slot
    match t.commit with
    | none => s
    | some cm =>
      if cm.phase != .update || cm.updating || s.shadowHeld t cm.job then s
      else
        let s1 := s.modSlot p slot (fun t => t.modCommit (fun c => { c with updating := true, rules := (s.dom t.domain).rules }))
        (s.part p).quads.foldl (fun (s : State) k => s.modUpu k.pq (fun u => { u with part := p })) s1

/-- UPU_UPDATE_DONE (R348 to R351): the shadow copies are written; the device commits or votes. -/
def execUpuUpdateDone (p slot : Nat) (uncorrectable : Bool) (s : State) : Host.Outcome State Fault Refusal :=
  .next <|
    let t := s.slot p slot
    match t.commit with
    | none => s
    | some cm =>
      if cm.phase != .update || !cm.updating then s
      else
        let s0 := (s.part p).quads.foldl (fun (s : State) k => (s.upuBusy k.pq).fire (0x100 + k.pq)) s
        let ps := s.gabParts p t.gradFmt t.list
        if uncorrectable || ps.any (s.updBad p t cm) then (ps.foldl (fun (s : State) g => s.updMarks p t cm g) s0).rollBack p slot 0x3B
        else
          let r := ps.foldl (fun (a : State × UpdCount) g => a.1.updPart p t cm a.2 g) (s0, {})
          let self := s.glb.cfg.selfPeer
          let s1 := r.1.modSlot p slot (fun t => t.modCommit (fun c => { c with
            updating := false, nonfinite := r.2.nonfinite, sat := r.2.sat, vflags := if r.2.invalid then flInvalid else 0, phase := .voted, readyAt := s.now, ready := c.ready ++ [self] }))
          if cm.members = [self] then s1.commitOrWait p slot
          else if cm.coord then s1.tryDecide p slot
          else s1.sendCommit p t.domain cm.coordPeer 0x01 (cm.msg self)

/-! ### Commit messages (R355 to R357) -/

/-- READY at the coordinator. -/
def execReady (p slot : Nat) (m : CommitMsg) (s : State) : Host.Outcome State Fault Refusal :=
  .next <| match (s.slot p slot).commit with
  | none => s
  | some cm =>
    if !cm.coord || cm.phase == .decided || !cm.members.contains m.sender then s
    else if m.step ≠ cm.step || m.members ≠ cm.members.length || m.check ≠ cm.check then s.rollBack p slot 0x3D
    else (s.modSlot p slot (fun t => t.modCommit (fun c => { c with
      ready := if c.ready.contains m.sender then c.ready else c.ready ++ [m.sender] }))).tryDecide p slot

/-- COMMIT at a member. -/
def execCommit (p slot : Nat) (m : CommitMsg) (s : State) : Host.Outcome State Fault Refusal :=
  .next <| match (s.slot p slot).commit with
  | none => s
  | some cm =>
    if cm.coord || cm.phase != .voted || (s.slot p slot).state != .committing || m.step ≠ cm.step || m.sender ≠ cm.coordPeer then s
    else (s.modSlot p slot (fun t => t.modCommit (fun c => { c with phase := .decided }))).commitOrWait p slot

/-- Complete a decided commit with its missing ACKs (R355). -/
def State.ackEnd (s : State) (p slot : Nat) (cm : Commit) : State :=
  (s.modSlot p slot (fun t => { t with acking := t.acking.filter (fun a => a.job != cm.job) })).finish cm.job stOk
    (cm.members.length - cm.acks.length)

/-- ACK at the coordinator. -/
def execAck (p slot : Nat) (m : CommitMsg) (s : State) : Host.Outcome State Fault Refusal :=
  .next <| match (s.slot p slot).acking.find? (fun a => a.step == m.step) with
  | none => s
  | some cm =>
    if !cm.members.contains m.sender || cm.acks.contains m.sender then s
    else
      let cm' := { cm with acks := cm.acks ++ [m.sender] }
      let s1 := s.modSlot p slot (fun t => { t with acking := t.acking.map (fun a => if a.job = cm.job then cm' else a) })
      if cm'.acks.length = cm.members.length then s1.ackEnd p slot cm' else s1

/-- ACK_TIMEOUT. -/
def execAckTimeout (p slot : Nat) (s : State) : Host.Outcome State Fault Refusal :=
  .next <| match (s.slot p slot).acking with
  | [] => s
  | cm :: _ => if cm.readyAt + s.trTimeout ≤ s.now then s.ackEnd p slot cm else s

/-- ROLLBACK_VOTE at the coordinator. -/
def execRollbackVote (p slot : Nat) (m : CommitMsg) (s : State) : Host.Outcome State Fault Refusal :=
  .next <| match (s.slot p slot).commit with
  | none => s
  | some cm =>
    if cm.coord && cm.phase != .decided && cm.members.contains m.sender && m.step == cm.step then s.rollBack p slot 0x38 else s

/-- ROLLBACK at a member. -/
def execRollback (p slot : Nat) (m : CommitMsg) (s : State) : Host.Outcome State Fault Refusal :=
  .next <| match (s.slot p slot).commit with
  | none => s
  | some cm =>
    if !cm.coord && cm.phase != .decided && (s.slot p slot).state == .committing && m.step == cm.step && m.sender == cm.coordPeer then
      -- no vote answers a ROLLBACK
      (s.modSlot p slot (fun t => t.modCommit (fun c => { c with phase := .voted }))).rollBack p slot m.cause
    else s

/-- QUERY at the coordinator: answered from the recorded decisions. -/
def execQuery (p slot : Nat) (m : CommitMsg) (s : State) : Host.Outcome State Fault Refusal :=
  .next <|
    let t := s.slot p slot
    let self := s.glb.cfg.selfPeer
    let d := (t.commit.map (fun _ => t.domain)).getD t.domain
    match t.decisions.find? (fun x => x.1 == m.step) with
    | some (_, 0) => s.sendCommit p d m.sender 0x03 { m with sender := self, cause := 0 }
    | some (_, c) => s.sendCommit p d m.sender 0x04 { m with sender := self, cause := c }
    | none => s.sendCommit p d m.sender 0x07 { m with sender := self, cause := 0 }

/-- UNKNOWN at a member: it keeps waiting. -/
def execUnknown (_p _slot : Nat) (_m : CommitMsg) (s : State) : Host.Outcome State Fault Refusal := .next s

/-- COMMIT_QUERY_TIMER: a member that waits for the decision sends QUERY, every 100 µs (R357). -/
def execCommitQueryTimer (p slot : Nat) (s : State) : Host.Outcome State Fault Refusal :=
  .next <|
    let t := s.slot p slot
    match t.commit with
    | none => s
    | some cm =>
      if !cm.coord && cm.phase == .voted && t.state == .committing && decide (max cm.readyAt cm.askedAt + 120000 ≤ s.now) then
        (s.sendCommit p t.domain cm.coordPeer 0x06 (cm.msg s.glb.cfg.selfPeer)).modSlot p slot
          (fun t => t.modCommit (fun c => { c with askedAt := s.now }))
      else s

/-- COMMIT_TIMEOUT: a coordinator that has not decided. -/
def execCommitTimeout (p slot : Nat) (s : State) : Host.Outcome State Fault Refusal :=
  .next <| match (s.slot p slot).commit with
  | none => s
  | some cm =>
    if cm.coord && cm.members != [s.glb.cfg.selfPeer] && cm.phase != .decided && decide (cm.start + s.trTimeout ≤ s.now) then
      s.rollBack p slot 0x39
    else s

/-- EXCHANGE_PART_TIMEOUT. -/
def execExchangePartTimeout (p slot : Nat) (s : State) : Host.Outcome State Fault Refusal :=
  .next <| match (s.slot p slot).commit with
  | none => s
  | some cm => if cm.phase == .exchange && decide (cm.start + s.trTimeout ≤ s.now) then s.rollBack p slot 0x39 else s

/-- IN_DOUBT_TIMEOUT (R357): the shadow copies and the references stay. -/
def execInDoubtTimeout (p slot : Nat) (s : State) : Host.Outcome State Fault Refusal :=
  .next <|
    let t := s.slot p slot
    match t.commit with
    | none => s
    | some cm =>
      if cm.coord || cm.phase != .voted || t.state != .committing || s.now < cm.readyAt + s.trTimeout then s
      else
        let refs := ((s.cmd cm.job).map Cmd.refs).getD []
        let s1 := (s.finish cm.job stAborted 0x34).modCmd cm.job (fun c => { c with refs := [] })
        let s2 := s1.modSlot p slot (fun t => { t with state := .inDoubt, held := refs })
        ({ s2 with train := { s2.train with inDoubt := bump s2.train.freeze s2.train.inDoubt } }).fire 0x123

/-- A lost link to a peer rolls attempts back (R356): the coordinator before its decision, a member before
its vote. -/
def State.linkLostCommits (s : State) (peer : Nat) : State :=
  s.train.slots.foldl (fun (s : State) e =>
    let p := e.1 / 16
    let k := e.1 % 16
    match (s.slot p k).commit with
    | some cm =>
      if (s.slot p k).state == .committing && cm.members.contains peer && cm.phase != .decided && (cm.coord || cm.phase != .voted) then
        s.rollBack p k 0x3A
      else s
    | none => s) s

/-- ABORT of a COMMIT_STEP (R358): whether it takes effect. -/
def State.abortCommit (s : State) (c : Cmd) : State × Bool :=
  let k := c.param 0x20 1
  match (s.slot c.part k).commit with
  | some cm =>
    if cm.job = c.job then
      let solo := cm.members == [s.glb.cfg.selfPeer]
      if cm.phase == .decided || (cm.phase == .voted && !cm.coord) || (cm.phase == .voted && solo) then (s, false)
      else (s.rollBack c.part k 0x3C stAborted, true)
    else if (s.slot c.part k).acking.any (fun a => a.job == c.job) then (s, false)
    else (s.finish c.job stAborted, true)
  | none => if (s.slot c.part k).acking.any (fun a => a.job == c.job) then (s, false) else (s.finish c.job stAborted, true)

end Sys2Proof.Machine
end

