-- ==== Sys2Proof/Machine/Run.lean ====
section
/-! DEFINITION. Jobs: RUN and TRAIN_STEP with their rows and inputs (R296, R326, R490), dispatch and its
checks (R146, R162, R255, R334, R336, R375), the collectors' drain and a job's final status (R299, R495),
and what the end of a job releases (R77, R274, R297, R337). -/

namespace Sys2Proof.Machine

/-! ### Sets that retire (R77, R274) -/

/-- The set number of a job. -/
def Cmd.setNum (c : Cmd) : Nat := if c.op = 0x01 then c.param 0x20 1 else c.param 0x21 1

/-- The order of acceptance of the RETIRE_BASE that took set number `n`; none while no such command stands. -/
def Part.retireOrder (x : Part) (n : Nat) : Option Nat := (x.retiredAt.find? (fun e => e.1 == n)).map Prod.snd

/-- Was a command that names set `n` accepted after a RETIRE_BASE of it: one that has taken effect, or one that still
waits (R77, R270)? -/
def State.retiredFor (s : State) (c : Cmd) (n : Nat) : Bool :=
  (match (s.part c.part).retireOrder n with
    | some o => decide (o < c.order)
    | none => false) ||
  (((s.part c.part).set? n).isSome && s.host.cmds.any (fun d => d.op == 0x12 && d.part == c.part && d.param 0x20 1 == n &&
    d.phase != .final && decide (d.order < c.order)))

/-- Is a job of the set still to complete? A job accepted before the set's RETIRE_BASE counts, dispatched or not. -/
def State.setBusy (s : State) (p n : Nat) : Bool :=
  s.host.cmds.any (fun c => isJobOp c.op && c.part == p && c.phase != .final && c.setNum == n &&
    (c.phase != .accepted || (match (s.part p).retireOrder n with
      | some o => decide (c.order < o)
      | none => true)))

/-- Does a stream of the set still run in a tile: a fill in progress of a job that has left it (R256, R274)? -/
def Tile.streams (t : Tile) (n : Nat) : Bool := t.ctxs.any (fun c => c.2.dying.any (fun r => r.set == n))

/-- Empty a tile's slots of a set, but for the one a running slice uses. -/
def Tile.dropSet (t : Tile) (n : Nat) : Tile :=
  let used := (t.running.map Running.slot).toList ++ (t.switching.map Switching.slot).toList
  { t with slots := t.slots.zipIdx.map (fun x => if x.1.set = n && x.1.valid && !used.contains x.2 then {} else x.1) }

/-- Stripes of the base region that a set takes in a logical quadrant: first stripe and count. -/
def State.setStripesOf (s : State) (p lq : Nat) (c : CfgSet) : Nat × Nat :=
  let b := max 1 (s.stripeBytes p lq)
  (c.baseOff / b, ceilDiv c.lqBytes b)

/-- The base pages of a set go to the zero-fill. -/
def State.dropBase (s : State) (p : Nat) (c : CfgSet) : State :=
  (List.range (s.part p).quads.length).foldl (fun (s : State) lq =>
    s.dropStripes p lq 0 (s.setStripesOf p lq c).1 (s.setStripesOf p lq c).2) s

/-- The pages of the configuration store go to the zero-fill. -/
def State.dropCfgStore (s : State) (p : Nat) : State :=
  (List.range (s.part p).quads.length).foldl (fun (s : State) lq => s.dropStripes p lq 3 0 (s.regionStripes 3)) s

/-- Remove a set: its base pages become free, its host-tier extent is freed, and so is its room in the
configuration store, whose pages go with the last set. -/
def State.removeSet (s : State) (p : Nat) (c : CfgSet) : State :=
  let s1 := s.dropBase p c
  let s2 := if c.hostUnits = 0 then s1 else s1.hostFree p c.hostIndex c.hostUnits
  let s3 := s2.modPart p (fun x => { x with sets := x.sets.filter (fun d => d.num != c.num) })
  if (s3.part p).sets.isEmpty then s3.dropCfgStore p
  else s3.cfgTable p

/-- Retired sets whose last job has completed leave the slots, and then the partition; a slot that is being filled with
one, and a stream of one in progress, keep it till they end. -/
def State.retireSweep (s : State) (p : Nat) : State :=
  ((s.part p).sets.filter (fun c => c.retired)).foldl (fun (s : State) c =>
    if s.setBusy p c.num then s
    else
      let s1 := (s.part p).tiles.foldl (fun (s : State) tl => s.modTile tl (fun t => t.dropSet c.num)) s
      if (s.part p).tiles.any (fun tl => (s1.tile tl).streams c.num ||
          (s1.tile tl).slots.any (fun k => (k.valid || k.filling) && k.set == c.num)) then s1
      else s1.removeSet p c) s

/-! ### The end of a job (R299, R495) -/

/-- The spill pages of one record, of `n` bytes a tile, go to the zero-fill. -/
def State.dropRecord (s : State) (p n : Nat) (r : StashRec) : State :=
  if r.place = 0 then s
  else (List.range (s.part p).quads.length).foldl (fun (s : State) lq =>
    s.dropStripes p lq 2 (r.place - 1) (ceilDiv (((s.part p).quadAt lq).tiles.length * n) (max 1 (s.stripeBytes p lq)))) s

/-- A job's stash records leave the slot, their spill pages to the zero-fill (R337). -/
def State.releaseStash (s : State) (p k : Nat) (j : JobRef) : State :=
  let t := s.slot p k
  let s1 := (t.stash.filter (fun r => r.job == j)).foldl (fun (s : State) r => s.dropRecord p t.stashBytes r) s
  s1.modSlot p k (fun t => { t with
    stash := t.stash.filter (fun r => r.job != j), replayable := t.replayable.filter (fun r => r.job != j)
    dropped := t.dropped.filter (fun x => x.1 != j) })

/-- Fix a job's final status: an abort, a failure recorded while it ran, or its rows'. -/
def State.fixJob (s : State) (j : JobRef) : State :=
  match s.cmd j with
  | none => s
  | some c =>
    if c.phase == .final then s
    else
      let bad := c.rows.filter (fun r => r.status != stOk)
      -- a job in which no row is poisoned, but whose results an uncorrectable word has reached (R209)
      let ecc := c.reached && !bad.any (fun r => !r.void)
      let st := if c.aborted then (stAborted, 0) else if c.status ≠ 0 then (c.status, c.detail)
        else if ecc then (stEcc, 0)
        else (((bad.head?).map Row.status).getD stOk, 0)
      let s1 := s.modCmd j (fun c => { Cmd.finish { c with count := if st.1 = stAborted then c.rows.length else bad.length } st.1 st.2 with
        res1 := if c.op = 0x01 then (c.rows.filter (fun r => !r.void)).length
          else min 0xFFFF c.spills + 0x10000 * min 0xFFFF c.drops
        res2 := if c.op = 0x01 then c.res2 else c.replays })
      let s2 := if c.aborted || c.stopped then s1.dropRefs c else s1
      let s3 := if c.op = 0x02 && !c.rows.isEmpty then
          let k := c.param 0x20 1
          let t := s2.releaseStash c.part k j
          t.modSlot c.part k (fun t =>
            if t.state = .clean then t
            else if st.1 = stAborted then { t with partialG := true } else { t with micro := min 0xFFFF (t.micro + 1) })
        else s2
      (s3.retireSweep c.part).resched c.part

/-- The status that a post can carry: ST_STASH_EXHAUSTED is never returned (R23, Table 13.7). -/
def postStatus (st : Nat) : Nat := if st < 0x0F then st else stOk

/-- COLLECTOR_DRAIN: the oldest entry reaches the command processor; when the last tile has posted, the
job's status is fixed (R40, R495, R524). -/
def execCollectorDrain (q : Nat) (s : State) : Host.Outcome State Fault Refusal :=
  match (s.quad q).cc.entries with
  | [] => .next s
  | p :: ps =>
    let s1 := s.modQuad q (fun k => { k with cc := { k.cc with entries := ps } })
    let s2 := s1.modCmd p.job (fun c => { c with
      vflags := c.vflags ||| p.vflags
      res0 := min 0xFFFFFFFF (c.res0 + p.stall)
      posted := if c.posted.contains p.source then c.posted else c.posted ++ [p.source]
      lastPost := max c.lastPost p.stamp
      status := if c.phase = .final || c.status ≠ 0 then c.status else postStatus p.status })
    .next <| match s2.cmd p.job with
      | some c => if c.dispatched && c.expect.all (fun x => c.posted.contains x) then s2.fixJob p.job else s2
      | none => s2

/-! ### Rows (R296 to R299, R490) -/

/-- A row table: the tag words, or none where a reserved byte is set (§8.4). -/
def rowWords (n : Nat) (bs : List Byte) : Option (List Nat) :=
  if (List.range n).any (fun i => fieldAt bs (8 * i + 4) 4 != 0) then none
  else some ((List.range n).map (fun i => fieldAt bs (8 * i) 4))

/-- The plaintext of a row's input block; none where its tag fails or its nonce is of the output space. -/
def State.openInput (s : State) (w inBytes : Nat) (blk : List Byte) : Option (List Byte) :=
  let nonce := slice blk 0 12
  if fieldAt nonce 8 4 = 0xFFFFFFFF then none
  else gcmOpen (s.dom (bitsOf w 20 12)).rowKey nonce (leBytes 4 w) (slice blk 32 inBytes) (slice blk 16 16)

/-- Check the inputs of accepted rows: a failure makes the row void (R490). -/
def State.checkInputs (s : State) (c : Cmd) (input inBytes : Nat) (rows : List Row) : State × List Row × Map (List Byte) :=
  rows.zipIdx.foldl (fun a x =>
    if x.1.void then (a.1, a.2.1 ++ [x.1], a.2.2)
    else match a.1.openInput x.1.word inBytes (Mem.readN a.1.host.mem (input + x.2 * (inBytes + 32)) (inBytes + 32)) with
      | some pt => (a.1, a.2.1 ++ [x.1], a.2.2 ++ [(x.2, pt)])
      | none => (a.1.domainFault c.part c.job.job x.2 0x6, a.2.1 ++ [{ x.1 with void := true, status := stDomainFault, adapter := false }], a.2.2))
    (s, [], [])

/-- Take a job's references (R297). -/
def State.takeRefs (s : State) (refs : List (Nat × Nat)) : State :=
  refs.foldl (fun (s : State) h => s.modEntry h.1 (fun e => { e with jobs := e.jobs + 1 })) s

/-- Is a block size in range (R490)? -/
def blockOk (n : Nat) : Bool := decide (64 ≤ n) && decide (n ≤ 65536) && n % 64 == 0

/-- Resolve a job's rows and read its inputs; `only` is a TRAIN_STEP's list. Ends the command or leaves it
waiting for its dispatch. -/
def State.resolveJob (s : State) (c : Cmd) (set : CfgSet) (nRows table input inBytes : Nat) (only : Option (List Nat))
    (k : State → State) : State :=
  match s.hostRead table (8 * nRows) with
  | none => s.finish c.job stAborted 0x51
  | some tb =>
    match rowWords nRows tb with
    | none => s.finish c.job stReserved
    | some ws =>
      let rows := s.resolveRows c.part set.file.base only ws
      let s1 := s.noteRows c.part c.job.job rows
      if !s1.hostOk input (nRows * (inBytes + 32)) then s1.finish c.job stAborted 0x51
      else
        let r := s1.checkInputs c input inBytes rows
        let refs := rowRefs rows
        k ((r.1.takeRefs refs).modCmd c.job (fun c => { c with phase := .running, rows := r.2.1, inputs := r.2.2, refs := refs }))

/-- RUN: the set, the ranges, and the rows.

DESIGN CHOICE (log entry 49): a RUN that names a number under which no set was ever loaded, or none since the last
disable, ends ST_BASE_MISMATCH; R77 gives the status only of a set that a RETIRE_BASE took. -/
def execRun (j : JobRef) (s : State) : Host.Outcome State Fault Refusal :=
  .next <| match s.fresh? j 0x01 with
  | none => s
  | some c =>
    if s.retiredFor c (c.param 0x20 1) then (s.finish j stBaseRetired).resched c.part
    else match (s.part c.part).set? (c.param 0x20 1) with
    | none => (s.finish j stBaseMismatch).resched c.part
    | some set =>
      let n := c.param 0x24 4
      if n < 1 || 16384 < n || !blockOk (c.param 0x48 4) || !blockOk (c.param 0x4C 4) then
        (s.finish j stAborted 0x23).resched c.part
      else (s.resolveJob c set n (c.param 0x28 8) (c.param 0x30 8) (c.param 0x48 4) none id).resched c.part

/-- An earlier COMMIT_STEP of the slot has not taken effect. -/
def State.commitsBefore (s : State) (c : Cmd) (k : Nat) : Bool :=
  s.host.cmds.any (fun d => d.op == 0x03 && d.part == c.part && d.param 0x20 1 == k && decide (d.order < c.order) &&
    d.phase != .final && !(s.slot c.part k).acking.any (fun a => a.job == d.job))

/-- An earlier TRAIN_STEP of the slot has not been resolved (R329). -/
def State.stepsBefore (s : State) (c : Cmd) (k : Nat) : Bool :=
  s.host.cmds.any (fun d => d.op == 0x02 && d.part == c.part && d.param 0x20 1 == k && decide (d.order < c.order) && d.phase == .accepted)

/-- The parameters a slot fixes (R326, step 7). -/
def TrSlot.same (t : TrSlot) (list : List Nat) (c : Cmd) : Bool :=
  t.list == list && t.gradFmt == c.param 0x24 1 && t.gabOff == c.param 0x30 4 && t.stashOff == c.param 0x34 4 &&
    t.stashBytes == c.param 0x38 4 && t.qbOff == c.param 0x3C 4 && t.qbLines == c.param 0x40 4

/-- TRAIN_STEP (R326 to R328): its list, its slot, then its rows. -/
def execTrainStep (j : JobRef) (s : State) : Host.Outcome State Fault Refusal :=
  .next <| match s.fresh? j 0x02 with
  | none => s
  | some c =>
    let k := c.param 0x20 1
    if 15 < k then (s.finish j stAborted 0x31).resched c.part
    else if (s.slot c.part k).state = .committing || (s.slot c.part k).state = .inDoubt || s.commitsBefore c k || s.stepsBefore c k then s
    else State.resched (p := c.part) <|
      let n := c.param 0x25 1
      match s.readList (c.param 0x28 8) n with
      | none => s.finish j stAborted 0x51
      | some list =>
        let set := (s.part c.part).set? (c.param 0x21 1)
        -- a set that is not loaded or is retired fails as outcomes 7 and 6 of each entry (log entry 32)
        match s.listCheck c.part (some (set.map (fun x => x.file.base), s.retiredFor c (c.param 0x21 1))) list, set with
        | some f, _ => s.listFail c f
        | none, none => s.finish j stBaseMismatch
        | none, some set =>
            let t := s.slot c.part k
            let d := (s.entry (leHandle (list.headD 0))).domain
            if list.any (fun w => (s.listed (leHandle w)).any (fun x => x != c.part * 16 + k)) then s.finish j stSlotBusy
            else if t.state = .accumulating && !t.same list c then s.finish j stAborted 0x31
            else
              let det := s.gabRanges c.part (s.gabParts c.part (c.param 0x24 1) list) (c.param 0x30 4) (c.param 0x3C 4)
                (c.param 0x40 4) (c.param 0x34 4) (c.param 0x38 4)
              let rows := c.param 0x44 4
              if det ≠ 0 then s.finish j stAborted det
              else if rows < 1 || 16384 < rows || !blockOk (c.param 0x60 4) then s.finish j stAborted 0x23
              else s.resolveJob c set rows (c.param 0x48 8) (c.param 0x50 8) (c.param 0x60 4) (some (list.map leHandle)) (fun s =>
                if t.state = .accumulating then s
                else
                  let s1 := list.foldl (fun (s : State) w => s.modEntry (leHandle w) (fun e => { e with slot := some k })) s
                  s1.modSlot c.part k (fun t => { t with
                    state := .accumulating, list := list, gradFmt := c.param 0x24 1, gabOff := c.param 0x30 4
                    stashOff := c.param 0x34 4, stashBytes := c.param 0x38 4, qbOff := c.param 0x3C 4, qbLines := c.param 0x40 4
                    partialG := false, micro := 0, domain := d, zeroing := some j }))

/-! ### Dispatch -/

/-- The row count of a job. -/
def Cmd.nRows (c : Cmd) : Nat := if c.op = 0x01 then c.param 0x24 4 else c.param 0x44 4

/-- The configurations a job can run in a logical tile. -/
def CfgSet.jobCfgs (set : CfgSet) (plans : List (Nat × Bool)) (l : Nat) : List TileCfg :=
  plans.flatMap (fun pl => match set.seqFor pl.1 l with
    | some q => q.steps.filterMap (fun st => set.cfgFor st.id l)
    | none => [])

/-- The plan entries that name a logical tile. -/
def CfgSet.tileEntries (set : CfgSet) (plan l : Nat) : List (PlanEntry × Nat) :=
  (set.entries.zipIdx).filter (fun e => e.1.plan == plan && bitOf e.1.mask l)

/-- The windows a configuration sets. -/
def windowsOf (c : TileCfg) : List Window := (c.uops.filter (fun u => u.opcode == 0x01)).map wsetWindow

/-- A tile register's entries that a configuration's drain fills (R146). -/
def tregNeed (c : TileCfg) : Nat := if c.outDst = 6 then c.m * c.n * (if c.outlierEn || c.escapeEn then 2 else 1) else 0

/-- The STASH fields of the frames that FWD_PLAN names as CONSUMER are equal (R336). -/
def CfgSet.stashEqual (set : CfgSet) (fwd : Nat) : Bool :=
  let ids := (set.entries.filter (fun e => e.plan == fwd)).map PlanEntry.consumer
  let cs := set.file.tiles.filter (fun t => ids.contains t.id)
  match cs with
  | [] => true
  | c :: rest => rest.all (fun d => d.stash == c.stash && d.spillEn == c.spillEn)

/-- A range of buffer lines lies in the context's window (R375). -/
def Ctx.inWindow (c : Ctx) (off n : Nat) : Bool :=
  c.bufLines == 0 || n == 0 || (decide (c.bufBase ≤ off) && decide (off + n ≤ c.bufBase + c.bufLines))

/-- The dispatch checks: a detail code, 0 when all hold. -/
def State.dispatchDetail (s : State) (c : Cmd) (set : CfgSet) : Nat :=
  let part := s.part c.part
  let nl := part.tiles.length
  let space := part.s * shareBytes
  let cfgs := (List.range nl).flatMap (set.jobCfgs c.plans)
  let ctx := part.ctxs.getD c.ctx {}
  let ents := c.plans.flatMap (fun pl => (List.range nl).flatMap (fun l => (set.tileEntries pl.1 l).map Prod.fst))
  if cfgs.any (fun x => decide (256 * part.s < tregNeed x)) then 0x21
  else if cfgs.any (fun x => (windowsOf x).any (fun w => decide (space < w.limit))) then 0x22
  else if ents.any (fun e => decide (space < e.ring + e.nbuf * e.bufLines * 64)) then 0x25
  else if c.op = 0x02 then
    let t := s.slot c.part (c.param 0x20 1)
    let ps := s.gabParts c.part t.gradFmt t.list
    let det := s.gabRanges c.part ps t.gabOff t.qbOff t.qbLines t.stashOff t.stashBytes
    if det ≠ 0 then det
    else if !set.stashEqual (c.param 0x22 1) then 0x32
    else if (List.range part.quads.length).any (fun lq => !ctx.inWindow t.gabOff (gabQuadLines ps lq)) ||
        !ctx.inWindow t.qbOff t.qbLines then 0x40
    else 0
  else 0

/-- A job's position in a logical tile, where it runs slices (R624). -/
def CfgSet.tjob (set : CfgSet) (c : Cmd) (l : Nat) : Option TJob :=
  match c.plans.find? (fun pl => (set.seqFor pl.1 l).isSome) with
  | none => none
  | some pl => (set.seqFor pl.1 l).map (fun q =>
    { job := c.job, set := set.num, plan := pl.1, backward := pl.2, groups := ceilDiv c.nRows (max 1 q.rowGroup) })

/-- The fills of a plan in a tile, in fill order (R249, R259). -/
def CfgSet.fills (set : CfgSet) (plan l : Nat) : List Fill :=
  ((set.tileEntries plan l).flatMap (fun e =>
    (List.range (e.1.tileBytes / max 64 (e.1.bufLines * 64))).map (fun j => (e.2, j)))).zipIdx.map (fun x =>
      { num := x.2, entry := x.1.1, index := x.1.2 })

/-- A job's ring in a tile (R249). -/
def CfgSet.ring (set : CfgSet) (j : JobRef) (plan l : Nat) : Option Ring :=
  match set.tileEntries plan l with
  | [] => none
  | e :: _ => some { job := j, set := set.num, nbuf := e.1.nbuf, bufLines := e.1.bufLines, base := e.1.ring, fills := [], next := set.fills plan l }

/-- Does a job's backward pass in a tile, still to come, have a ring? -/
def State.laterRing (s : State) (p l : Nat) (j : TJob) : Bool :=
  match s.cmd j.job, (s.part p).set? j.set with
  | some c, some set => c.op == 0x02 && !j.backward && (set.seqFor (c.param 0x23 1) l).isSome && !(set.tileEntries (c.param 0x23 1) l).isEmpty
  | _, _ => false

/-- The first ring among jobs of a context in a tile, in order; a pass still to come of an earlier one comes first. -/
def State.firstRing (s : State) (p l : Nat) : List TJob → Option Ring
  | [] => none
  | j :: js =>
    match ((s.part p).set? j.set).bind (fun set => set.ring j.job j.plan l) with
    | some r => some r
    | none => if s.laterRing p l j then none else State.firstRing s p l js

/-- The ring that a context's tile turns to: its first job's, or, once a job's ring has released every buffer, the next
job's (R254). -/
def State.ringDue (s : State) (p l : Nat) (c : TCtx) : Option Ring :=
  match c.ring with
  | none => s.firstRing p l c.jobs
  | some r =>
    if !(r.fills.isEmpty && r.next.isEmpty) then none
    else
      let rest := c.jobs.dropWhile (fun j => j.job != r.job)
      if rest.head?.any (fun j => s.laterRing p l j) then none
      else s.firstRing p l (if rest.isEmpty then c.jobs else rest.drop 1)

/-- A context's tile turns to the ring that is due, if any. -/
def State.nextRing (s : State) (p : Nat) (tl : TileId) (ctx : Nat) : State :=
  match (s.part p).logical tl with
  | none => s
  | some l => match s.ringDue p l (mget {} (s.tile tl).ctxs ctx) with
    | some r => s.modTile tl (fun t => { t with ctxs := mmod {} t.ctxs ctx (fun c => { c with ring := some r }) })
    | none => s

/-- JOB_DISPATCH: an accepted job of a resident context goes to the Quadrant Sequencers. -/
def execJobDispatch (j : JobRef) (s : State) : Host.Outcome State Fault Refusal :=
  .next <| match s.cmd j with
  | none => s
  | some c =>
    let part := s.part c.part
    if !isJobOp c.op || c.phase != .running || c.dispatched || !s.waitOk c || part.state != .active ||
        (part.ctxs.getD c.ctx {}).res != .resident || (c.op == 0x02 && (s.slot c.part (c.param 0x20 1)).zeroing.isSome) then s
    else match part.set? c.setNum with
    | none => s
    | some set =>
      let det := s.dispatchDetail c set
      if det ≠ 0 then (s.modCmd j (fun c => { c with status := stAborted, detail := det })).fixJob j
      else
        let named := (part.tiles.zipIdx).filterMap (fun x => (set.tjob c x.2).map (fun t => (x.1, x.2, t)))
        let s1 := named.foldl (fun (s : State) x => (s.modTile x.1 (fun t => { t with ctxs := mmod {} t.ctxs c.ctx (fun y => { y with
          jobs := y.jobs ++ [x.2.2] }) })).nextRing c.part x.1 c.ctx) s
        let s2 := s1.modCmd j (fun c => { c with dispatched := true, expect := named.map (fun x => tileSource x.1) })
        if named.isEmpty then s2.fixJob j else s2.resched c.part

end Sys2Proof.Machine
end

