-- ==== Sys2Proof/Machine/Base.lean ====
section
/-! DEFINITION. Bases: LOAD_BASE with its image, plan and outlier checks (R103, R260, R273, R491),
RETIRE_BASE (R77, R313) and layer patches (R267 to R271, R492). -/

namespace Sys2Proof.Machine

/-! ### Signers (R71, R411) -/

/-- Unsigned files are taken in MANUFACTURE and RMA_DEBUG (R71). -/
def State.unsignedOk (s : State) : Bool := s.lc == 1 || s.lc == 4

/-- The key of an enrolled slot whose KINDS bit is set (R411). -/
def State.signerKey (s : State) (kind slot : Nat) : Option (List Byte) :=
  match s.vault.signers[slot]? with
  | some x => if !x.key.isEmpty && bitOf x.kinds kind then some x.key else none
  | none => none

/-- The signer view of the loader for a file kind. -/
def State.signer (s : State) (kind : Nat) : Signer := { key := s.signerKey kind, unsignedOk := s.unsignedOk }

/-- Count a signature that failed verification (R435). -/
def State.sigFail (s : State) : State := { s with tri := { s.tri with sigFails := bump s.tri.freeze s.tri.sigFails } }

/-! ### The base image (R491) -/

/-- The header's fields (Table 13.10). -/
structure ImgHdr where
  lquads : Nat
  tensors : Nat
  tableOff : Nat
  planOff : Nat
  planLen : Nat
  lqBytes : Nat
  stackOff : Nat
  hostOff : Nat
  hostBytes : Nat
  outOff : Nat
  outLen : Nat
  deriving DecidableEq, Repr

def imgHdr (m : List Byte) : ImgHdr :=
  ⟨fieldAt m 5 1, fieldAt m 8 4, fieldAt m 0x10 8, fieldAt m 0x18 8, fieldAt m 0x20 8, fieldAt m 0x28 8, fieldAt m 0x30 8,
   fieldAt m 0x38 8, fieldAt m 0x40 8, fieldAt m 0x48 8, fieldAt m 0x50 8⟩

/-- The blocks of an image: (offset, length), empty ones left out. -/
def ImgHdr.blocks (h : ImgHdr) : List (Nat × Nat) :=
  ([(h.tableOff, 16 * h.tensors), (h.planOff, h.planLen), (h.outOff, h.outLen), (h.stackOff, h.lquads * h.lqBytes),
    (h.hostOff, h.hostBytes)].filter (fun b => b.2 != 0))

/-- One outlier entry: TENSOR_ID, its reserved field, and its channels. -/
structure OutlierEntry where
  tensor : Nat
  resv : Nat
  count : Nat
  chans : List Nat
  padOk : Bool
  deriving DecidableEq, Repr

/-- The outlier block's entries; none where an entry overruns the block. -/
def outlierEntries : Nat → List Byte → Option (List OutlierEntry)
  | 0, bs => if bs.isEmpty then some [] else none
  | n + 1, bs =>
    if bs.isEmpty then some []
    else
      let c := fieldAt bs 4 2
      let raw := 8 + 2 * c
      let len := ceilDiv raw 8 * 8
      if bs.length < len then none
      else
        let e : OutlierEntry := ⟨fieldAt bs 0 4, fieldAt bs 6 2, c, (List.range c).map (fun i => fieldAt bs (8 + 2 * i) 2),
          allZero (slice bs raw (len - raw))⟩
        (outlierEntries n (bs.drop len)).map (fun r => e :: r)

/-- Tensor table entry i. -/
def imgTensor (m : List Byte) (off i : Nat) : BaseTensor :=
  let o := off + 16 * i
  ⟨fieldAt m o 4, fieldAt m (o + 4) 2, fieldAt m (o + 6) 1, fieldAt m (o + 8) 4, fieldAt m (o + 12) 4⟩

/-- The image layout: status and detail of the first failure. -/
def imageFormat (m : List Byte) (level nq : Nat) : Option (Nat × Nat) :=
  let h := imgHdr m
  let tab := (List.range h.tensors).map (fun i => h.tableOff + 16 * i)
  let outs := outlierEntries (h.outLen / 8 + 1) (slice m h.outOff h.outLen)
  if fieldAt m 6 2 != 0 || fieldAt m 12 4 != 0 || !allZero (slice m 0x58 40) ||
      (decide (h.tableOff + 16 * h.tensors ≤ m.length) && tab.any (fun o => fieldAt m (o + 7) 1 != 0)) ||
      (match outs with
        | some es => es.any (fun e => e.resv != 0 || !e.padOk)
        | none => false) then some (stReserved, 0)
  else if h.lquads ≠ nq then some (stAborted, 0x52)
  else if slice m 0 4 != [0x4A, 0x4C, 0x42, 0x49] || fieldAt m 4 1 != level || m.length < 128 || h.tensors = 0 ||
      h.lqBytes % 64 != 0 || h.hostBytes % 4096 != 0 || (h.outLen == 0 && h.outOff != 0) ||
      h.blocks.any (fun b => b.1 % 64 != 0 || decide (b.1 < 128) || decide (m.length < b.1 + b.2)) ||
      !decide (h.blocks.Pairwise (fun a b => a.1 + a.2 ≤ b.1 ∨ b.1 + b.2 ≤ a.1)) || outs.isNone ||
      (List.range h.tensors).any (fun i => let t := imgTensor m h.tableOff i; t.expert != 0xFF && decide (15 < t.expert)) ||
      (match outs with
        | some es => es.any (fun e => e.count == 0 || decide (256 < e.count)) || !decide ((es.map OutlierEntry.tensor).Pairwise (· < ·))
        | none => true) then some (stAborted, 0x52)
  else none

/-- The outlier lists (R103). -/
def outliersOk (ts : List BaseTensor) (es : List OutlierEntry) : Bool :=
  es.all (fun e => match ts.find? (fun t => t.id == e.tensor) with
    | some t => decide (e.count ≤ min 256 (t.k / 32)) && decide (e.chans.Pairwise (· < ·)) && e.chans.all (fun c => decide (c < t.k))
    | none => false)

/-! ### The stream plan (R258, R260) -/

/-- Plan entry e (Table 7.2). -/
def planEntry (m : List Byte) (e : Nat) : PlanEntry :=
  let o := 0x10 + 72 * e
  { plan := fieldAt m o 1, source := fieldAt m (o + 1) 1, layer := fieldAt m (o + 2) 2, nbuf := fieldAt m (o + 4) 1
    consumer := fieldAt m (o + 5) 1, perBuf := fieldAt m (o + 6) 1, bufLines := fieldAt m (o + 8) 2, shards := fieldAt m (o + 10) 2
    peer := fieldAt m (o + 12) 2, ring := fieldAt m (o + 16) 4, src := fieldAt m (o + 24) 8, tileBytes := fieldAt m (o + 32) 4
    mask := fieldAt m (o + 40) 32 }

/-- Reserved fields of entry e. -/
def planEntryReserved (m : List Byte) (e : Nat) : Bool :=
  let o := 0x10 + 72 * e
  fieldAt m (o + 7) 1 != 0 || bitsOf (fieldAt m (o + 12) 2) 12 4 != 0 || fieldAt m (o + 14) 2 != 0 || fieldAt m (o + 20) 4 != 0 ||
    fieldAt m (o + 36) 4 != 0

/-- The field checks of one entry that give detail 0x24. -/
def planEntryOk (cfg : StructCfg) (f : CfgFile) (layers plans : Nat) (e : PlanEntry) : Bool :=
  let buf := e.bufLines * 64
  let cons := f.tiles.filter (fun t => t.id == e.consumer)
  let cover := cons.foldl (fun a t => a ||| t.mask) 0
  decide (e.plan < plans) && decide (e.layer < layers) && inRange 2 8 e.nbuf && decide (1 ≤ e.perBuf) && inRange 1 24576 e.bufLines &&
  (if e.source = 1 then inRange 1 4096 e.shards else e.shards == 1) && e.ring % 64 == 0 && e.tileBytes != 0 &&
  e.tileBytes % max 1 buf == 0 && buf % (64 * max 1 e.shards) == 0 && decide (e.peer + e.shards - 1 ≤ 4095) && e.mask != 0 &&
  decide (e.mask < 2 ^ f.logicalTiles) && !cons.isEmpty &&
  cons.all (fun t => (e.mask &&& t.mask) == 0 || inRange 1 8 t.mode) && (e.mask &&& cover) == e.mask &&
  !(e.source == 1 && !cfg.peerTier) &&
  !(e.source == 2 && (cfg.hostTierGib == 0 || e.src % 4096 != 0 || e.tileBytes % 4096 != 0 || buf % 4096 != 0))

/-- The checks of the entries in order. -/
def planEntriesCheck (cfg : StructCfg) (f : CfgFile) (m : List Byte) (layers plans : Nat) : List Nat → Option (Nat × Nat)
  | [] => none
  | e :: rest =>
    if planEntryReserved m e then some (stReserved, 0)
    else if 2 < (planEntry m e).source then some (stVersion, 0)
    else if !planEntryOk cfg f layers plans (planEntry m e) then some (stAborted, 0x24)
    else planEntriesCheck cfg f m layers plans rest

/-- Whole-plan rules. -/
def planWholeOk (f : CfgFile) (plans : Nat) (es : List PlanEntry) : Bool :=
  decide (es.Pairwise (fun a b => ¬(a.plan = b.plan ∧ a.mask &&& b.mask ≠ 0) ∨ (a.ring = b.ring ∧ a.nbuf = b.nbuf ∧ a.bufLines = b.bufLines))) &&
  (List.range plans).all (fun n => es.any (fun e => e.plan == n) && f.seqs.any (fun q => q.plan == n)) &&
  f.seqs.all (fun q => decide (q.plan < plans))

/-- R260: the first failure of the plan. -/
def planCheck (cfg : StructCfg) (f : CfgFile) (level : Nat) (m : List Byte) : Option (Nat × Nat) :=
  let n := fieldAt m 2 2
  let layers := fieldAt m 4 2
  let plans := fieldAt m 6 1
  if fieldAt m 1 1 != 0 || !allZero (slice m 7 9) then some (stReserved, 0)
  else if fieldAt m 0 1 ≠ level then some (stVersion, 0)
  else if n = 0 || !inRange 1 4096 layers || !inRange 1 16 plans || m.length != 16 + 72 * n then some (stAborted, 0x24)
  else match planEntriesCheck cfg f m layers plans (List.range n) with
    | some e => some e
    | none => if planWholeOk f plans ((List.range n).map (planEntry m)) then none else some (stAborted, 0x24)

/-! ### Placement (R273, R491) -/

/-- Bytes between candidate offsets of the base region: a whole number of stripes in every quadrant. -/
def State.baseStep (s : State) (p : Nat) : Nat :=
  (List.range (s.part p).quads.length).foldl (fun a lq => Nat.lcm a (max 1 (s.stripeBytes p lq))) 1

/-- The lowest base-region offset that is free in every logical quadrant. -/
def State.baseRoom (s : State) (p bytes : Nat) : Option Nat :=
  let step := s.baseStep p
  let nq := (s.part p).quads.length
  ((List.range (s.regionBytes p 0 0 / step + 1)).map (· * step)).find? (fun o =>
    (List.range nq).all (fun lq =>
      let b := max 1 (s.stripeBytes p lq)
      decide (o + bytes ≤ s.regionBytes p lq 0) && (List.range (ceilDiv bytes b)).all (fun i => s.stripeFree p lq 0 (o / b + i))))

/-- Place the stack block and its pages. -/
def State.placeBase (s : State) (p off : Nat) (h : ImgHdr) (m : List Byte) : State :=
  (List.range h.lquads).foldl (fun (s : State) lq =>
    let b := max 1 (s.stripeBytes p lq)
    let s1 := s.setStripes p lq 0 (off / b) (ceilDiv h.lqBytes b) { valid := true, shared := true, frozen := true }
    s1.placeBytes p lq 0 off (linesOf (slice m (h.stackOff + lq * h.lqBytes) h.lqBytes))) s

/-- LOAD_BASE commands of the partition that name the same SET and are not yet decided. -/
def State.sameSetLoads (s : State) (c : Cmd) : List Cmd :=
  s.host.cmds.filter (fun d => d.op == 0x10 && d.part == c.part && d.param 0x20 1 == c.param 0x20 1 && d.phase == .accepted && d.job != c.job)

/-- The loader's outcome of a tile configuration file named by the command: status, detail, or the set.

DESIGN CHOICE (log entry 48): a file whose TC_MODEL.SET differs from the descriptor's SET ends ST_ABORTED 0x0D, before the
base and the set number are compared; no reason of Table 2.16 names it. -/
def State.loadFile (s : State) (c : Cmd) (bs : List Byte) : Except (Nat × Nat) CfgFile :=
  let part := s.part c.part
  let base := digestOf (slice bs 0x50 48)
  match checkFile 2 s.glb.level part.tiles.length (privLenOf s.glb.cfg base) (s.signer 1) bs with
  | .error e => .error (reasonStatus e.1, e.1)
  | .ok fs =>
    let f := cfgFileOf bs fs
    if f.set ≠ c.param 0x20 1 then .error (stAborted, 0x0D)
    else if f.base ≠ digestOf (slice c.desc 0x40 48) then .error (stBaseMismatch, 0x13)
    else if (part.set? f.set).isSome then .error (stSlotBusy, 0x14)
    else .ok f

/-- A set's record in the configuration store: a line of lengths, then the file, the plan, the tensor table and the
outlier block. The manual gives the store no layout; this one is the model's. -/
def cfgRecord (bs plan table outs : List Byte) (tensors lqBytes : Nat) : List Byte :=
  leBytes 8 bs.length ++ leBytes 8 plan.length ++ leBytes 8 tensors ++ leBytes 8 outs.length ++ leBytes 8 lqBytes ++ leBytes 24 0 ++
    bs ++ plan ++ table ++ outs

/-- The set of a record, its file already accepted. -/
def setOfRecord (level : Nat) (r : List Byte) : CfgSet :=
  let fl := fieldAt r 0 8
  let pl := fieldAt r 8 8
  let nt := fieldAt r 16 8
  let bs := slice r 64 fl
  let plan := slice r (64 + fl) pl
  let table := slice r (64 + fl + pl) (16 * nt)
  let outs := (outlierEntries (fieldAt r 24 8 / 8 + 1) (slice r (64 + fl + pl + 16 * nt) (fieldAt r 24 8))).getD []
  let f := match walkFrames level (bs.length / 24 + 1) 0 (bs.drop 64) with
    | .ok fs => cfgFileOf bs fs
    | .error _ => {}
  { num := f.set, file := f, layers := fieldAt plan 4 2, plans := fieldAt plan 6 1
    entries := (List.range (fieldAt plan 2 2)).map (planEntry plan)
    tensors := (List.range nt).map (imgTensor table 0)
    outliers := outs.foldl (fun a e => mput e.tensor e.chans a) []
    lqBytes := fieldAt r 32 8, baseOff := 0, cfgLen := r.length }

/-- The host block of an image takes its units; none where they cannot be written. -/
def State.loadHostBlock (s : State) (p units ix : Nat) (bs : List Byte) : Option State :=
  if units = 0 then some s else s.hostPlace p ix none [] bs

/-- The placed base: its bytes, the set with its record, and the partition's measurement (R72, R258). -/
def State.loadPlaced (s : State) (c : Cmd) (f : CfgFile) (r m : List Byte) (off at_ ix : Nat) : State :=
  let set := { setOfRecord s.glb.level r with baseOff := off, hostIndex := ix, hostUnits := (imgHdr m).hostBytes / 4096, cfgOff := at_ }
  let s1 := (s.placeBase c.part off (imgHdr m) m).modPart c.part (fun x => { x with
    meas := sha384 (digestBytes x.meas ++ digestBytes f.digest)
    sets := x.sets ++ [set]
    retiredAt := mdel f.set x.retiredAt })
  ((s1.cfgWrite c.part at_ (linesOf r)).cfgTable c.part).finish c.job stOk

/-- A checked image goes to its rooms: stacks at `off`, record at `at_`, host block at `ix`; each may be lacking. -/
def State.loadAt (s : State) (c : Cmd) (f : CfgFile) (r m : List Byte) : Option Nat → Option Nat → Option Nat → State
  | some off, some at_, some ix =>
    match s.loadHostBlock c.part ((imgHdr m).hostBytes / 4096) ix (slice m (imgHdr m).hostOff (imgHdr m).hostBytes) with
    | none => s.finish c.job stAborted 0x27
    | some s1 => s1.loadPlaced c f r m off at_ ix
  | some _, some _, none => s.finish c.job stAborted 0x27
  | _, _, _ => s.finish c.job stAborted 0x23

/-- Host-tier room for `units` units: none needed is room. -/
def State.hostRoomFor (s : State) (units : Nat) : Option Nat :=
  if units = 0 then some 0 else if s.hostTierOn then s.hostRoom units else none

/-- Load a checked file and image: placement, host block, measurement and the set. -/
def State.loadSet (s : State) (c : Cmd) (f : CfgFile) (bs m : List Byte) : State :=
  let h := imgHdr m
  let r := cfgRecord bs (slice m h.planOff h.planLen) (slice m h.tableOff (16 * h.tensors)) (slice m h.outOff h.outLen) h.tensors h.lqBytes
  s.loadAt c f r m (s.baseRoom c.part h.lqBytes) (s.cfgRoom c.part r.length) (s.hostRoomFor (h.hostBytes / 4096))

/-- LOAD_BASE (R69, R491). -/
def execLoadBase (j : JobRef) (s : State) : Host.Outcome State Fault Refusal :=
  .next <| match s.due j 0x10 with
  | none => s
  | some c =>
    if (s.sameSetLoads c).any (fun d => decide (d.order < c.order)) then s.finish j stSlotBusy 0x14
    else
      let s0 := (s.sameSetLoads c).foldl (fun (s : State) d => s.finish d.job stSlotBusy 0x14) s
      match s0.hostRead (c.param 0x28 8) (c.param 0x24 4) with
      | none => s0.finish j stAborted 0x51
      | some bs =>
        match s0.loadFile c bs with
        | .error e => (if e.2 = 0x12 then s0.sigFail else s0).finish j e.1 e.2
        | .ok f =>
          match s0.hostRead (c.param 0x30 8) (c.param 0x38 8) with
          | none => s0.finish j stAborted 0x51
          | some m =>
            let h := imgHdr m
            if sha384 m ≠ digestOf (slice c.desc 0x40 48) then s0.finish j stBaseMismatch 0x13
            else match imageFormat m s0.glb.level (s0.part c.part).quads.length with
            | some e => s0.finish j e.1 e.2
            | none =>
              let outs := (outlierEntries (h.outLen / 8 + 1) (slice m h.outOff h.outLen)).getD []
              if !outliersOk ((List.range h.tensors).map (imgTensor m h.tableOff)) outs then s0.finish j stAborted 0x52
              else match planCheck s0.glb.cfg f s0.glb.level (slice m h.planOff h.planLen) with
              | some e => s0.finish j e.1 e.2
              | none => s0.loadSet c f bs m

/-! ### RETIRE_BASE (R77, R116, R313) -/

/-- Saturation entries of the partition whose tensor no loaded set names any more are freed. -/
def State.satRetire (s : State) (p n : Nat) : State :=
  let names (c : CfgSet) (t : Nat) : Bool := c.file.tiles.any (fun x => x.tensor == t)
  let part := s.part p
  let gone (e : SatEntry) : Bool := e.valid && e.part == p && part.sets.any (fun c => c.num == n && names c e.tensor) &&
    !(part.sets.any (fun c => c.num != n && !c.retired && names c e.tensor))
  { s with quads := s.quads.map (fun k => { k with sat := k.sat.filter (fun e => !gone e.2) }) }

/-- RETIRE_BASE takes effect: jobs accepted before it finish (R77, R274). -/
def State.retireNow (s : State) (p n : Nat) (j : JobRef) : State :=
  match (s.part p).set? n with
  | none => s.finish j stBaseMismatch
  | some c =>
    if c.retired then s.finish j stAlreadyDone
    else
      let s1 := (s.satRetire p n).modPart p (fun x => { (x.modSet n (fun c => { c with retired := true })) with
        retiredAt := mput n (((s.cmd j).map Cmd.order).getD 0) x.retiredAt })
      let s2 := { s1 with dir := { s1.dir with entries := s1.dir.entries.map (fun (e : Nat × DirEntry) =>
        if e.2.part == p && e.2.base == c.file.base && e.2.state != HState.free then (e.1, { e.2 with baseRetired := true }) else e) } }
      (s2.retireSweep p).finish j stOk

/-- A PATCH_LAYER of a partition that was accepted before an order and has not staged yet; of set `n`, where one is given. -/
def State.patchesBefore (s : State) (p order : Nat) (n : Option Nat) : Bool :=
  s.host.cmds.any (fun d => d.op == 0x11 && d.part == p && d.phase == .accepted && decide (d.order < order) &&
    (match n with
      | some n => d.param 0x20 1 == n
      | none => true))

/-- RETIRE_BASE: after the release of every patch of the set accepted before it (R270). -/
def execRetireBase (j : JobRef) (s : State) : Host.Outcome State Fault Refusal :=
  .next <| match s.due j 0x12 with
  | none => s
  | some c =>
    let n := c.param 0x20 1
    if s.patchesBefore c.part c.order (some n) then s
    else match ((s.part c.part).patches.filter (fun x => x.set == n)).getLast? with
    | some x => (s.modPart c.part (fun y => { y with patches := y.patches.map (fun z => if z.job = x.job then { z with retire := z.retire ++ [j] } else z) })).modCmd j
        (fun c => { c with phase := .running })
    | none => s.retireNow c.part n j

/-! ### Layer patches (R267 to R271) -/

/-- The ranges of a patch body after its header (Table 13.11), as LQ, OFFSET, whether a reserved byte is set,
and bytes; none where they do not fill it. -/
def patchRanges : Nat → List Byte → Option (List (Nat × Nat × Nat × List Byte))
  | 0, bs => if bs.isEmpty then some [] else none
  | n + 1, bs =>
    let len := fieldAt bs 4 4
    if bs.length < 64 + len then none
    else (patchRanges n (bs.drop (64 + len))).map (fun r =>
      (fieldAt bs 0 1, fieldAt bs 8 8, b2n (fieldAt bs 1 3 != 0 || !allZero (slice bs 16 48)), (bs.drop 64).take len) :: r)

/-- The body's layout: a failure, or its ranges (LQ, OFFSET, bytes). -/
def patchBody (level layer nq : Nat) (base : Digest) (m : List Byte) : Except (Nat × Nat) (List (Nat × Nat × List Byte)) :=
  match patchRanges (fieldAt m 8 4) (m.drop 0x40) with
  | none => .error (stAborted, 0x52)
  | some rs =>
    if fieldAt m 5 1 != 0 || fieldAt m 12 4 != 0 || rs.any (fun r => r.2.2.1 != 0) then .error (stReserved, 0)
    else if slice m 0 4 != [0x4A, 0x4C, 0x50, 0x49] then .error (stAborted, 0x52)
    else if fieldAt m 4 1 != level then .error (stVersion, 0)
    else if fieldAt m 6 2 != layer ||
        !inRange 1 4096 (fieldAt m 8 4) || rs.any (fun r => decide (nq ≤ r.1) || r.2.1 % 64 != 0 || r.2.2.2.length % 64 != 0) then
      .error (stAborted, 0x52)
    else if digestOf (slice m 0x10 48) ≠ base then .error (stBaseMismatch, 0)
    else .ok (rs.map (fun r => (r.1, r.2.1, r.2.2.2)))

/-- Set bits of a mask below bit t. -/
def maskRank (mask t : Nat) : Nat := ((List.range t).filter (fun i => bitOf mask i)).length

/-- The byte ranges of a layer's SOURCE 0x00 entries in a logical quadrant (R259). -/
def layerRanges (part : Part) (set : CfgSet) (layer lq : Nat) : List (Nat × Nat) :=
  (set.entries.filter (fun e => e.source == 0 && e.layer == layer)).flatMap (fun e =>
    ((List.range part.tiles.length).filter (fun t => bitOf e.mask t &&
      (match part.tiles[t]? with
        | some tl => part.lqOf tl.q == some lq
        | none => false))).map (fun t => (e.src + maskRank e.mask t * e.tileBytes, e.tileBytes)))

/-- Does every byte of a patch lie in its layer's ranges? -/
def patchInside (part : Part) (set : CfgSet) (layer : Nat) (rs : List (Nat × Nat × List Byte)) : Bool :=
  rs.all (fun r => (List.range (r.2.2.length / 64)).all (fun i =>
    (layerRanges part set layer r.1).any (fun x => decide (x.1 ≤ r.2.1 + 64 * i) && decide (r.2.1 + 64 * i + 64 ≤ x.1 + x.2))))

/-- Bytes that the ranges of a patch before range `i` stage in a logical quadrant. -/
def stagedBefore (rs : List (Nat × Nat × Nat)) (i lq : Nat) : Nat :=
  (((rs.take i).filter (fun r => r.1 == lq)).map (fun r => r.2.2)).sum

/-- General-region stripes for `n` staged bytes in a logical quadrant: first stripe and count; none where they have no
room. -/
def State.stageRoom (s : State) (p lq n : Nat) : Option (Nat × Nat) :=
  let k := ceilDiv n (max 1 (s.stripeBytes p lq))
  if k = 0 then some (0, 0)
  else match s.findStripes p lq 4 k with
    | some a => if a + k ≤ s.generalStripes p lq then some (a, k) else none
    | none => none

/-- Offset in the general region at which range `i` of a patch is staged. -/
def State.stageOff (s : State) (p : Nat) (x : Patch) (i lq : Nat) : Nat :=
  (x.staged.getD lq (0, 0)).1 * s.stripeBytes p lq + stagedBefore x.ranges i lq

/-- The load engine writes the bytes of a patch into the general region (R267). -/
def State.stageBytes (s : State) (p : Nat) (x : Patch) (bs : List (List Byte)) : State :=
  let s1 := (x.staged.zipIdx).foldl (fun (s : State) y =>
    s.setStripes p y.2 4 y.1.1 y.1.2 { valid := true, shared := true }) s
  ((x.ranges.zip bs).zipIdx).foldl (fun (s : State) y =>
    s.placeBytes p y.1.1.1 4 (s.stageOff p x y.2 y.1.1.1) (linesOf y.1.2)) s1

/-- The staged bytes of a patch are discarded. -/
def State.unstage (s : State) (p : Nat) (x : Patch) : State :=
  (x.staged.zipIdx).foldl (fun (s : State) y => s.dropStripes p y.2 4 y.1.1 y.1.2) s

/-- MUL_PATCH_STATUS describes the patch most recently accepted (R278): a later one takes its place. -/
def State.patchNew (s : State) (p : Nat) (x : Patch) : State :=
  if s.mul.patchOrder.any (fun o => decide (x.order < o)) then s
  else { s with mul := { s.mul with
    patchActive := true, patchPhase := 0, patchSet := x.set, patchLayer := x.layer, patchPart := p, patchOrder := some x.order } }

/-- Order of a partition's patches: that of their acceptance (R270). -/
def Patch.le (a b : Patch) : Bool := decide (a.order ≤ b.order)

/-- A checked patch is staged. Its bytes take the lowest free stripes of the general region outside the save area, their
pages VALID and SHARED; without room the command ends ST_ABORTED 0x23 (log entry 59). -/
def State.stagePatch (s : State) (c : Cmd) (n layer : Nat) (dig : Digest) (rs : List (Nat × Nat × List Byte)) : State :=
  let ranges := rs.map (fun r => (r.1, r.2.1, r.2.2.length))
  let nq := (s.part c.part).quads.length
  match (List.range nq).mapM (fun lq => s.stageRoom c.part lq (stagedBefore ranges ranges.length lq)) with
  | none => s.finish c.job stAborted 0x23
  | some at_ =>
    let x : Patch := { job := c.job, order := c.order, set := n, layer := layer, digest := dig, ranges := ranges, staged := at_ }
    let s1 := (s.modPart c.part (fun y => { y with patches := insertBy Patch.le x y.patches })).modCmd c.job (fun c => { c with phase := .running })
    ((s1.stageBytes c.part x (rs.map (fun r => r.2.2))).patchNew c.part x).fire 0x121

/-- PATCH_LAYER: TRITON's checks and the staging. -/
def execPatchLayer (j : JobRef) (s : State) : Host.Outcome State Fault Refusal :=
  .next <| match s.due j 0x11 with
  | none => s
  | some c =>
    let part := s.part c.part
    let n := c.param 0x20 1
    let layer := c.param 0x22 2
    let len := c.param 0x24 4
    if s.retiredFor c n then s.finish j stBaseRetired
    else match part.set? n with
    | none => s.finish j stBaseMismatch
    | some set =>
      match s.hostRead (c.param 0x28 8) len with
      | none => s.finish j stAborted 0x51
      | some m =>
        if len < 0x40 + 104 then s.finish j stAborted 0x52
        else
          let body := m.take (len - 104)
          let tr := m.drop (len - 104)
          match patchBody s.glb.level layer part.quads.length set.file.base body with
          | .error e => s.finish j e.1 e.2
          | .ok rs =>
            if !allZero (slice tr 1 7) then s.finish j stReserved
            else
            let dig := sha384 (m.take (len - 96))
            let slot := fieldAt tr 0 1
            let r := beNat (slice tr 8 48)
            let sg := beNat (slice tr 0x38 48)
            let go : State := if !patchInside part set layer rs then s.finish j stAborted 0x24 else s.stagePatch c n layer dig rs
            if slot = 0xFF then
              if !s.unsignedOk then s.finish j stAborted 0x11
              else if r ≠ 0 || sg ≠ 0 then s.sigFail.finish j stAborted 0x12 else go
            else match s.signerKey 2 slot with
              | none => s.finish j stAborted 0x11
              | some k => if ecdsaVerify k dig r sg then go else s.sigFail.finish j stAborted 0x12

/-- The entry a fill carries. -/
def State.fillEntry (s : State) (p : Nat) (r : Ring) (f : Fill) : Option PlanEntry :=
  ((s.part p).set? r.set).bind (fun c => c.entries[f.entry]?)

/-- Show a phase of a patch, where MUL_PATCH_STATUS describes it (R278); a phase change fires source 0x121. -/
def State.patchShow (s : State) (x : Patch) (phase : Nat) (active : Bool) : State :=
  let s1 := if s.mul.patchOrder = some x.order then { s with mul := { s.mul with patchPhase := phase, patchActive := active } } else s
  s1.fire 0x121

/-- Change the front patch of a partition. -/
def State.modPatch (s : State) (p : Nat) (f : Patch → Patch) : State :=
  s.modPart p (fun x => { x with patches := match x.patches with
    | [] => []
    | y :: ys => f y :: ys })

/-- Fills of a layer held by HOLD are cancelled and requeued behind the barrier. -/
def State.requeueHeld (s : State) (p set layer : Nat) : State :=
  let mine (g : Gather) : Bool := g.part == p && g.hold &&
    (match (mget {} (s.tile g.tile).ctxs g.ctx).ring with
      | some r => r.set == set && (r.fills.any (fun f => f.num == g.fill &&
          (match s.fillEntry p r f with
            | some e => e.layer == layer
            | none => false)))
      | none => false)
  let gs := s.mul.gathers.filter mine
  let s1 := gs.foldl (fun (s : State) g => s.modTile g.tile (fun t => { t with ctxs := mmod {} t.ctxs g.ctx (fun c => { c with
    ring := c.ring.map (fun r => { r with fills := r.fills.map (fun f => if f.num = g.fill then { f with started := false, ownDone := false, barrier := true } else f) }) }) })) s
  let fills := (gs.map (fun g => (g.tile, g.ctx, g.fill))).eraseDups
  let s2 := fills.foldl (fun (s : State) x => s.modQuad x.1.q (fun q => { q with mul := { q.mul with
    barrierWaits := bump s.mul.freeze q.mul.barrierWaits } })) s1
  { s2 with mul := { s2.mul with gathers := s2.mul.gathers.filter (fun g => !(fills.contains (g.tile, g.ctx, g.fill))) } }

/-- The fills of a layer among some. -/
def CfgSet.ofLayer (set : CfgSet) (layer : Nat) (fs : List Fill) : List Fill :=
  fs.filter (fun f => (set.entries[f.entry]?).map PlanEntry.layer == some layer)

/-- Has a fill begun: started, and not held by HOLD? -/
def State.fillBegun (s : State) (tl : TileId) (ctx : Nat) (f : Fill) : Bool :=
  f.started && (f.done || !s.mul.gathers.any (fun g => g.hold && g.tile == tl && g.ctx == ctx && g.fill == f.num))

/-- The fills of a layer that a dispatched job has still to start in a tile, of this pass and of one to come. -/
def State.toStart (s : State) (set : CfgSet) (layer : Nat) (c : Cmd) (tl : TileId) (l : Nat) : List Fill :=
  let tc := mget {} (s.tile tl).ctxs c.ctx
  match tc.jobs.find? (fun j => j.job == c.job) with
  | none => []
  | some j =>
    let later := if c.op = 0x02 && !j.backward then set.fills (c.param 0x23 1) l else []
    let here := match tc.ring with
      | some r =>
        if r.job = c.job then r.fills.filter (fun f => !s.fillBegun tl c.ctx f) ++ r.next
        else if (tc.jobs.takeWhile (fun x => x.job != c.job)).any (fun x => x.job == r.job) then set.fills j.plan l else []
      | none => set.fills j.plan l
    set.ofLayer layer (here ++ later)

/-- Has a job started some, but not all, of its fills of a layer, over the tiles of its partition? -/
def State.partWay (s : State) (set : CfgSet) (layer : Nat) (c : Cmd) : Bool :=
  let tls := (s.part c.part).tiles.zipIdx
  let all := (tls.map (fun x => (set.ofLayer layer (c.plans.flatMap (fun pl => set.fills pl.1 x.2))).length)).sum
  let left := (tls.map (fun x => (s.toStart set layer c x.1 x.2).length)).sum
  decide (0 < left) && decide (left < all)

/-- May the barrier of a patch be placed? Patches accepted before it come first (R270), and no job may be partway through
its fills of the layer: each reads the layer wholly before the patch or wholly after it (R268; log entry 60). -/
def State.mayPlace (s : State) (p : Nat) (x : Patch) : Bool :=
  x.phase == .staging && !s.patchesBefore p x.order none &&
  (match (s.part p).set? x.set with
    | some set => !s.host.cmds.any (fun c => isJobOp c.op && c.part == p && c.phase != .final && c.dispatched && !c.aborted && !c.stopped &&
        c.setNum == x.set && s.partWay set x.layer c)
    | none => true)

/-- PATCH_PLACEMENT: the barrier is placed for the oldest patch. -/
def execPatchPlacement (p : Nat) (s : State) : Host.Outcome State Fault Refusal :=
  .next <| match (s.part p).patches with
  | [] => s
  | x :: _ =>
    if !s.mayPlace p x then s
    else ((s.modPatch p (fun y => { y with phase := .drain })).requeueHeld p x.set x.layer).patchShow x 1 true

/-- The rings of a context in a tile whose fills may be in progress: its own, and those of jobs that have left (R256). -/
def TCtx.rings (c : TCtx) : List Ring := c.dying ++ c.ring.toList

/-- A fill of the layer in progress reads the stacks for all of its bytes. -/
def State.layerReads (s : State) (p set layer : Nat) : Bool :=
  (s.part p).tiles.any (fun tl => (s.tile tl).ctxs.any (fun c => c.2.rings.any (fun r =>
    r.set == set && r.fills.any (fun f => f.started && !f.done &&
      (match s.fillEntry p r f with
        | some e => e.layer == layer && e.source == 0
        | none => false)))))

/-- Set the marks of a stored word. -/
def State.markWord (s : State) (l : LineLoc) (w : Nat) : State :=
  s.storeRaw l { s.getLine l with marks := (s.getLine l).marks ||| 2 ^ w }

/-- A staged word, (range, word), is found uncorrectable. -/
def State.patchMark (s : State) (p : Nat) (x : Patch) (b : Nat × Nat) : State :=
  match x.ranges[b.1]? with
  | some r => match s.pma p r.1 4 (s.stageOff p x b.1 r.1 + b.2 * 8) with
    | some l => if b.2 * 8 < r.2.2 then s.markWord l (b.2 % 8) else s
    | none => s
  | none => s

/-- The staged lines of range `i` of a patch. -/
def State.stagedLines (s : State) (p : Nat) (x : Patch) (i : Nat) (r : Nat × Nat × Nat) : List Line :=
  s.regionLines p r.1 4 (s.stageOff p x i r.1) r.2.2

/-- Is any staged word uncorrectable? -/
def State.stagedBad (s : State) (p : Nat) (x : Patch) : Bool :=
  x.ranges.zipIdx.any (fun y => (s.stagedLines p x y.2 y.1).any (fun l => l.marks != 0))

/-- Copy the staged bytes over the base, an uncorrectable word as a poison marker (R270); each such word is counted and
reported as it is read (R209). -/
def State.patchCopy (s : State) (p : Nat) (x : Patch) (off : Nat) : State :=
  x.ranges.zipIdx.foldl (fun (s : State) y =>
    (s.regionMarks p x.job.job y.1.1 4 (s.stageOff p x y.2 y.1.1) y.1.2.2).placeLines p y.1.1 0 (off + y.1.2.1)
      ((s.stagedLines p x y.2 y.1).map Line.toStack)) s

/-- The release: patch count and measurement advance, the staged bytes go, and the waiting RETIRE_BASEs follow (R271). -/
def State.patchRelease (s : State) (p : Nat) : State :=
  match (s.part p).patches with
  | [] => s
  | x :: rest =>
    if x.phase != .released then s
    else
      let s1 := (s.unstage p x).modPart p (fun y => { (y.modSet x.set (fun c => { c with
        patchCount := c.patchCount + 1, patchMeas := sha384 (digestBytes c.patchMeas ++ digestBytes x.digest) })) with patches := rest })
      let n := (((s1.part p).set? x.set).map CfgSet.patchCount).getD 0
      let st := ((s1.cmd x.job).map Cmd.status).getD 0
      let s2 := ((s1.modCmd x.job (fun c => { c with res0 := n })).finish x.job st).patchShow x 3 false
      x.retire.foldl (fun (s : State) j => s.retireNow p x.set j) s2

/-- PATCH_COPY_DONE: the staged bytes lie over the FROZEN pages and the patch is released, unless an attestation copies the
registers meanwhile (R424). `badWords` lists the uncorrectable staged words: range and word. -/
def execPatchCopyDone (p : Nat) (badWords : List (Nat × Nat)) (s : State) : Host.Outcome State Fault Refusal :=
  .next <| match (s.part p).patches with
  | [] => s
  | x :: _ =>
    if x.phase != .copy then s
    else
      let off := (((s.part p).set? x.set).map CfgSet.baseOff).getD 0
      let s0 := badWords.foldl (fun (s : State) b => s.patchMark p x b) s
      let s1 := (s0.patchCopy p x off).modPatch p (fun y => { y with phase := .released })
      let s2 := s1.modCmd x.job (fun c => if s0.stagedBad p x then { c with status := stEcc } else c)
      if s2.vault.copying then
        { s2.patchShow x 3 true with vault := { s2.vault with deferred := s2.vault.deferred ++ [.patch p] } }
      else s2.patchRelease p

end Sys2Proof.Machine
end

