-- ==== Sys2Proof/Machine/Flags.lean ====
section
/-! DEFINITION. What reads and results raise: corrected and uncorrectable words (R206 to R209), poisoned
rows (R150, R198), collisions (R202), range drops (R215), saturation entries (R112 to R116) and VFLAGS
(R173). -/

namespace Sys2Proof.Machine

/-! ### Scratchpad words (R208, R209, R237) -/

/-- TILE_SP_UE_LOC of a word: VALID, META, BANK and ROW (R239). -/
def ueLoc (isMeta : Bool) (line word : Nat) : Nat :=
  if isMeta then 2 ^ 31 + 2 ^ 30 + line
  else 2 ^ 31 + (line * 8 + word) % 32 * 2 ^ 15 + (line * 8 + word) / 32

/-- Record the first uncorrectable word since VALID was cleared. -/
def Scratch.noteLoc (x : Scratch) (isMeta : Bool) (line word : Nat) : Scratch :=
  if x.ueValid then x
  else { x with
    ueValid := true
    ueMeta := isMeta
    ueBank := if isMeta then 0 else (line * 8 + word) % 32
    ueRow := if isMeta then line else (line * 8 + word) / 32 }

/-- An uncorrectable scratchpad word. -/
def State.tileUe (s : State) (t : TileId) (part job line word : Nat) : State :=
  (s.modTile t (fun x => { x with scratch := x.scratch.noteLoc (word == 8) line word })).noteUe (.tile t)
    (if word = 8 then 2 else 1) part job (ueLoc (word == 8) line word)

/-- A line with word `w` found uncorrectable: a poison marker, or, for its metadata (word 8), a poisoned line. -/
def Line.mark (l : Line) (w : Nat) : Line :=
  if w = 8 then { l with poison := 2 } else { l with marks := l.marks ||| 2 ^ w }

/-- Word `w` of a line; word 8 is the metadata entry. -/
def Line.word (l : Line) (w : Nat) : Nat := if w = 8 then l.metaWord else l.get (64 * w) 64

/-- A line of a scratchpad changed. -/
def State.modLine (s : State) (t : TileId) (line : Nat) (f : Line → Line) : State :=
  s.modTile t (fun x => { x with scratch := { x.scratch with lines := mmod clearLine x.scratch.lines line f } })

/-- One upset that a read of a scratchpad meets: the reader sees the word that Table 6.5 decodes. -/
def State.tileUpset (s : State) (t : TileId) (part job : Nat) (u : Upset) : State :=
  if 24576 ≤ u.line then s
  else
    let l := mget clearLine (s.tile t).scratch.lines u.line
    match eccRead (l.word u.word) (u.word != 8 && l.marks.testBit u.word) u.mask with
    | .clean d => s.modLine t u.line (fun l => l.setWord u.word d)
    | .corrected d => (s.modLine t u.line (fun l => l.setWord u.word d)).noteCe (.tile t) (if u.word = 8 then 2 else 1) part
    | .uncorrectable _ =>
      if l.marks.testBit u.word then s
      else (s.modLine t u.line (fun l => l.mark u.word)).tileUe t part job u.line u.word

/-- Upsets that reads of a scratchpad meet. -/
def State.tileUpsets (s : State) (t : TileId) (part job : Nat) (us : List Upset) : State :=
  us.foldl (fun (s : State) u => s.tileUpset t part job u) s

/-- Words that stand as poison markers in the lines read: each is an uncorrectable read. -/
def State.tileMarks (s : State) (t : TileId) (part job : Nat) (lines : List Nat) : State :=
  lines.foldl (fun (s : State) x =>
    let l := mget clearLine (s.tile t).scratch.lines x
    ((List.range 8).filter (fun w => l.marks.testBit w)).foldl (fun (s : State) w => s.tileUe t part job x w) s) s

/-! ### Poisoned rows (R150, R198) -/

/-- A row's status after a poison cause: a tag failure stands over an uncorrectable error. -/
def Row.poison (r : Row) (cause : Nat) : Row :=
  if r.void then r
  else if cause = 1 then { r with status := stDomainFault }
  else if cause = 2 && r.status == stOk then { r with status := stEcc } else r

/-- Poison row `x` of a job in a tile: its status, and EV_DOMAIN_FAULT once in each quadrant for a tag failure. -/
def State.poisonRow (s : State) (t : TileId) (j : JobRef) (x cause : Nat) : State :=
  match s.cmd j with
  | none => s
  | some c =>
    if ((c.rows[x]?).map Row.void).getD true then s
    else
      let s1 := s.modCmd j (fun c => { c with rows := c.rows.modify x (fun r => r.poison cause) })
      if cause = 1 && !c.noted.contains (t.q, x) then
        (s1.modCmd j (fun c => { c with noted := c.noted ++ [(t.q, x)] })).raise 0x07 (tileSource t) c.part j.job x 0x2
      else s1

/-- A job's failure found while it runs; the first one stands. -/
def State.failJob (s : State) (j : JobRef) (status detail : Nat) : State :=
  s.modCmd j (fun c => if c.phase = .final || c.status ≠ 0 then c else { c with status := status, detail := detail })

/-- An access of a tile beyond its range: counted, and its job ends with RANGE (R215, R221). -/
def State.rangeDrop (s : State) (t : TileId) (j : Option JobRef) : State :=
  let s1 := s.modTile t (fun x => { x with scratch := { x.scratch with rangeDrops := bump x.scratch.freeze x.scratch.rangeDrops } })
  match j with
  | some j => s1.failJob j stAborted 0x23
  | none => s1

/-! ### Collisions (R200, R202) -/

/-- A COLLIDE: counted, with EV_COLLIDE for the first since the counter was cleared and each time the counter passes a
further multiple of 65,536 (R202). -/
def State.collide (s : State) (t : TileId) : State :=
  let x := (s.tile t).scratch
  let s1 := s.modTile t (fun x => { x with scratch := { x.scratch with
    collides := bump x.scratch.freeze x.scratch.collides, collSeen := true } })
  if !x.collSeen || (!x.freeze && (s1.tile t).scratch.collides.toNat % 65536 == 0) then
    s1.raise 0x06 (tileSource t) ((s.ownerOf t).getD 0xFF) (tileSource t) (s1.tile t).scratch.collides.toNat
  else s1

/-! ### Saturation entries (R113 to R116) -/

/-- Ticks of an entry's window. -/
def SatEntry.ticks (e : SatEntry) : Nat := e.window * 1024

/-- The entry at a tick: a window that has begun since starts from zero (R114). -/
def SatEntry.roll (e : SatEntry) (now : Nat) : SatEntry :=
  if e.window = 0 || now / e.ticks = e.winStart / e.ticks then e
  else { e with count := 0, drift := false, winStart := now / e.ticks * e.ticks }

/-- Count n saturations in entry i. -/
def State.satAdd (s : State) (q i n : Nat) : State :=
  let e := (mget {} (s.quad q).sat i).roll s.now
  let cnt := min 0xFFFFFFFF (e.count + n)
  let hit := e.threshold != 0 && !e.drift && decide (e.count < e.threshold) && decide (e.threshold ≤ cnt)
  let s1 := s.modQuad q (fun x => { x with sat := mset {} x.sat i { e with
    count := cnt, total := min 0xFFFFFFFF (e.total + n), drift := e.drift || hit } })
  if hit then s1.raise 0x02 (0x100 + q) e.part e.tensor cnt i else s1

/-- n saturations of a tensor in a slice whose frame sets SAT_COUNT_EN. -/
def State.satCount (s : State) (q part : Nat) (cfg : TileCfg) (n : Nat) : State :=
  if n = 0 || !cfg.satEn then s
  else match (s.quad q).sat.find? (fun e => e.2.valid && e.2.tensor == cfg.tensor && e.2.part == part) with
    | some e => s.satAdd q e.1 n
    | none => match (List.range 64).find? (fun i => !(mget {} (s.quad q).sat i).valid) with
      | some i =>
        let s1 := s.modQuad q (fun x => { x with sat := mset {} x.sat i { valid := true, tensor := cfg.tensor, part := part, threshold := cfg.satThreshold, window := cfg.satWindow, winStart := s.now } })
        (s1.raise 0x01 (0x100 + q) part cfg.tensor 0 i).satAdd q i n
      | none =>
        let first := (s.quad q).untracked == 0
        let s1 := s.modQuad q (fun x => { x with untracked := min 0xFFFFFFFF (x.untracked + n) })
        if first then s1.raise 0x01 (0x100 + q) part cfg.tensor 1 0xFF else s1

/-- SAT_WINDOW_START: a window of entry e has begun (R114). -/
def execSatWindowStart (q e : Nat) (s : State) : Host.Outcome State Fault Refusal :=
  .next (if (mget {} (s.quad q).sat e).valid then s.modQuad q (fun x => { x with sat := mmod {} x.sat e (fun y => y.roll s.now) }) else s)

/-- SAT_ENTRY_FREE: a write to QD_SAT_ENTRYe with VALID 1 frees the entry (R116, R123). -/
def execSatEntryFree (q e value : Nat) (s : State) : Host.Outcome State Fault Refusal :=
  .next (if bitOf value 31 && decide (e < 64) then s.modQuad q (fun x => { x with sat := mset {} x.sat e {} }) else s)

/-! ### VFLAGS (R173) -/

/-- OR flags into the context's VFLAGS in a tile. -/
def Tile.orFlags (t : Tile) (ctx fl : Nat) : Tile :=
  { t with ctxs := mmod {} t.ctxs ctx (fun c => { c with vflags := c.vflags ||| fl % 64 }) }

end Sys2Proof.Machine
end

