-- ==== Sys2Proof/Machine/Vector.lean ====
section
/-! DEFINITION. The vector engine (chapter 5): one micro-op over windows of a share space, and a chain
of them, with flags, poison and saturations. -/

namespace Sys2Proof.Machine

/-- What a chain is run against: the tile's lines and shares, the readers of the slice's rows, the
windows whose rows serve rows, and the frame's settings. -/
structure VEnv where
  shares : List Nat
  readers : List Reader
  /-- Bit w: row r of window w serves row r of the slice (log entry 20). -/
  serve : Nat
  test : Bool
  escapeEn : Bool
  sideLen : Nat
  treg : Map Word32
  /-- Reads of [base, base + len) are redirected by a shift (R251). -/
  redirect : Option (Nat × Nat × Nat) := none
  deriving DecidableEq, Repr

/-- The byte that a read of byte x reaches (R251). -/
def VEnv.rd (e : VEnv) (x : Nat) : Nat :=
  match e.redirect with
  | some (base, len, shift) => if base ≤ x && x < base + len then x + shift else x
  | none => x

/-- What a chain has done so far. -/
structure VState where
  lines : Map Line
  wins : Map Window := []
  flags : Nat := 0
  /-- Elements that saturated (R112): (0, row, lane) where a slice row is served, else (1 + window, row, lane). -/
  sats : List (Nat × Nat × Nat) := []
  escFaults : Nat := 0
  cleared : Nat := 0
  /-- Uncorrectable words read: line and word. -/
  ue : List (Nat × Nat) := []
  uops : Nat := 0
  busy : Nat := 0
  invalidUops : Nat := 0
  satUops : Nat := 0
  /-- Causes by slice row, for rows poisoned in a read. -/
  poisoned : Map Nat := []
  deriving DecidableEq, Repr

/-- The window named i. -/
def VState.win (v : VState) (i : Nat) : Window := mget ⟨0, 0, 0, 0⟩ v.wins i

/-- The byte of lane i of a window row. -/
def Window.laneByte (w : Window) (r i : Nat) : Nat := w.base + r * w.stride + i * fmtBits w.fmt / 8

/-- The line that stands where a read of byte x goes. -/
def VState.stored (v : VState) (e : VEnv) (x : Nat) : Line := storedAt v.lines e.shares (e.rd x)

/-- The raw element of lane i of a window row, as its reader sees it. The test port reads what the bank holds (R194). -/
def VState.lane (v : VState) (e : VEnv) (rd : Reader) (w : Window) (r i : Nat) : Nat :=
  let x := w.laneByte r i
  let l := if e.test then v.stored e x else (v.stored e x).seenBy rd
  l.get (e.rd x % 64 * 8 + i * fmtBits w.fmt % 8) (fmtBits w.fmt)

/-- The row of a source that row r uses: its own row, or its only row. -/
def Window.rowFor (w : Window) (r : Nat) : Nat := if w.rows = 1 then 0 else r

/-- The reader of row r of window i. -/
def VEnv.readerOf (e : VEnv) (i r : Nat) : Reader :=
  if e.serve.testBit i then e.readers.getD r (.free none) else .free none

/-- The lines of a window row that hold a lane of `need`. -/
def Window.rowLines (w : Window) (r : Nat) (need : List Bool) : List Nat :=
  let ls := lineStarts (w.base + r * w.stride) (rowBytes w.fmt)
  if need.all id then ls
  else ls.filter (fun x => (need.zipIdx).any (fun p => p.1 && w.laneByte r p.2 / 64 * 64 == x))

/-- Every lane. -/
def allLanes : List Bool := List.replicate 64 true

/-- Read some lines for a reader: the reader after them and the poison cause (R163, R300, R301). -/
def VState.checkLines (v : VState) (e : VEnv) (rd : Reader × Nat) (xs : List Nat) : Reader × Nat :=
  if e.test then rd else
  xs.foldl (fun acc x =>
    let q := readLine acc.1 false (v.stored e x)
    (q.reader, joinCause acc.2 q.cause)) rd

/-- Poison rows of the slice by their words: those for which `hit` holds. -/
def VState.poisonWhere (v : VState) (e : VEnv) (cause : Nat) (hit : Nat → Bool) : VState :=
  { v with poisoned := (e.readers.zipIdx).foldl (fun m p => match p.1 with
      | .row w => if hit w then mset 0 m p.2 (joinCause (mget 0 m p.2) cause) else m
      | _ => m) v.poisoned }

/-- Uncorrectable words in the lines that a reader reads: each is noted; a SHARED line's word poisons every row of
the slice and a DOMAIN line's every row of its domain (R209). Nothing is noted for a void or padding row (R298,
R624). -/
def VState.noteMarks (v : VState) (e : VEnv) (rd : Reader) (xs : List Nat) : VState :=
  if e.test || rd == .void then v else
  xs.foldl (fun (v : VState) x =>
    let l := v.stored e x
    if l.marks = 0 || l.kind == .clear then v
    else
      let v1 := { v with ue := v.ue ++ ((List.range 8).filter (fun i => l.marks.testBit i)).map (fun i =>
        ((shareLine e.shares (e.rd x)).getD 0, i)) }
      match l.kind with
      | .shared => v1.poisonWhere e 2 (fun _ => true)
      | .domain => v1.poisonWhere e 2 (fun w => bitsOf w 20 12 == l.domain)
      | _ => v1) v

/-- Bytes of a window row that the written lanes cover. -/
def Window.cover (w : Window) (ls : List Bool) : Nat :=
  (ls.zipIdx).foldl (fun a p => if p.1 then a ||| byteMask (p.2 * fmtBits w.fmt / 8) (ceilDiv (fmtBits w.fmt) 8) else a) 0

/-- The byte mask, within the line at x, of a window row's written lanes. -/
def Window.lineMask (w : Window) (r x : Nat) (ls : List Bool) : Nat :=
  let start := w.base + r * w.stride
  let lo := max x start
  let hi := min (x + 64) (start + rowBytes w.fmt)
  bitsOf (w.cover ls) (lo - start) (hi - lo) * 2 ^ (lo - x)

/-- Poison cause of the lines that a write of some lanes covers only in part: an output that touches a poisoned
line poisons its row (R198). -/
def VState.dstCause (v : VState) (e : VEnv) (w : Window) (r : Nat) (ls : List Bool) : Nat :=
  if e.test then 0 else
  (lineStarts (w.base + r * w.stride) (rowBytes w.fmt)).foldl (fun a x =>
    let m := w.lineMask r x ls
    if m = 0 || m = fullMask then a
    else match shareLine e.shares x with
      | some pl => joinCause a (mget clearLine v.lines pl).poison
      | none => a) 0

/-- Write some lanes of a window row, line by line, with the writer's metadata (R197, R198). The test port writes
data and leaves the metadata (log entry 53). -/
def VState.putLanes (v : VState) (e : VEnv) (w : Window) (r : Nat) (vals : List (Option Nat)) (rd : Reader)
    (poison : Nat) : VState :=
  let start := w.base + r * w.stride
  let wd := fmtBits w.fmt
  let ls := vals.map Option.isSome
  let all := (vals.zipIdx).foldl (fun a p => a + p.1.getD 0 % 2 ^ wd * 2 ^ (p.2 * wd)) 0
  (lineStarts start (rowBytes w.fmt)).foldl (fun v x =>
    let m := w.lineMask r x ls
    match (if m = 0 then none else shareLine e.shares x) with
    | none => v
    | some pl =>
      let old := mget clearLine v.lines pl
      let lo := max x start
      let hi := min (x + 64) (start + rowBytes w.fmt)
      let chunk := bitsOf all ((lo - start) * 8) ((hi - lo) * 8)
      let km := if e.test then (old.kind, old.tag) else rd.meta
      let q := old.write m (BitVec.ofNat 512 (chunk * 2 ^ ((lo - x) * 8))) km.1 km.2 poison
      { v with lines := mset clearLine v.lines pl q.line, cleared := v.cleared + b2n q.cleared }) v

/-! ### Lane operations -/

/-- Saturate an integer result to its format (R170). -/
def satInt (fmt : Nat) (i : Int) : FR :=
  let w := fmtBits fmt
  let hi : Int := 2 ^ (w - 1) - 1
  let lo : Int := -(2 ^ (w - 1))
  let c := clampC lo hi i
  ⟨uint w c.1, if c.2 then flSaturate else 0⟩

/-- The integer value of a lane. -/
def intOf (fmt x : Nat) : Int := sint (fmtBits fmt) x

/-- Nearest integer in an integer format (R170). -/
def toIntFmt (fmt : Nat) : FV → FR
  | .nan => ⟨0, flInvalid⟩
  | .inf n => satInt fmt (if n then -(2 ^ 40) else 2 ^ 40)
  | .fin n m e =>
    let r := rneInt n m e
    let s := satInt fmt r
    let exact := decide (0 ≤ e) || m % 2 ^ (-e).toNat == 0
    ⟨s.bits, s.flags ||| (if exact then 0 else flInexact)⟩

/-- The exact value of a lane in any element format of CVT. -/
def laneVal (fmt x : Nat) : FV :=
  match fmtOf fmt with
  | some f => f.decode x
  | none => let i := intOf fmt x; .fin (decide (i < 0)) i.natAbs 0

/-- CVT (R170). -/
def laneCvt (src dst x : Nat) : FR :=
  match fmtOf dst with
  | some f => f.encode (laneVal src x)
  | none =>
    match fmtOf src with
    | some f => toIntFmt dst (f.decode x)
    | none => satInt dst (intOf src x)

/-- imm as a value of the format: an F32 pattern for float formats, else sign-extended (R170). -/
def immVal (fmt imm : Nat) : FV :=
  if isF fmt then f32 imm else let i := sint 32 imm; .fin (decide (i < 0)) i.natAbs 0

/-- One float lane. -/
def floatLane (f : FFmt) (op : Nat) (a b c : FV) (imm : FV) : FR :=
  match op with
  | 0x10 => f.encode a
  | 0x11 => f.addV a b
  | 0x12 => f.addV a b.neg
  | 0x13 => f.mulV a b
  | 0x14 => f.fromExact (FV.fma a b c)
  | 0x15 => f.encode (FV.min a b)
  | 0x16 => f.encode (FV.max a b)
  | 0x17 => f.encode a.abs
  | 0x18 => f.encode a.neg
  | 0x19 => f.addV a imm
  | 0x1A => f.mulV a imm
  | 0x1B => f.encode imm
  | 0x38 => f.divV (.fin false 1 0) a
  | 0x39 => f.divV a b
  | 0x3A => f.sqrtV a
  | 0x3B => f.rsqrtV a
  | 0x3C => f.expV a
  | 0x3D => f.exp2V a
  | 0x3E => f.logV a
  | 0x3F => f.log2V a
  | _ => f.encode a

/-- One integer lane. -/
def intLane (fmt op : Nat) (a b : Int) (imm : Int) : FR :=
  match op with
  | 0x10 => satInt fmt a
  | 0x11 => satInt fmt (a + b)
  | 0x12 => satInt fmt (a - b)
  | 0x13 => satInt fmt (a * b)
  | 0x15 => satInt fmt (min a b)
  | 0x16 => satInt fmt (max a b)
  | 0x17 => satInt fmt (a.natAbs : Int)
  | 0x18 => satInt fmt (-a)
  | 0x19 => satInt fmt (a + imm)
  | 0x1A => satInt fmt (a * imm)
  | 0x1B => satInt fmt imm
  | _ => satInt fmt a

/-- A comparison's word: all ones or zero. -/
def cmpWord (b : Bool) : FR := ⟨if b then 0xFFFFFFFF else 0, 0⟩

/-- A comparison over exact values (R170: false on NaN, save CMPUN). -/
def cmpLane (op : Nat) (a b : FV) : FR :=
  match op with
  | 0x20 => cmpWord (a.eqv b)
  | 0x21 => cmpWord (a.lt b)
  | 0x22 => cmpWord (!a.isNan && !b.isNan && !b.lt a)
  | _ => cmpWord (a.isNan || b.isNan)

/-- A bitwise or shift lane. -/
def bitLane (op a b imm : Nat) : FR :=
  let s := imm % 32
  match op with
  | 0x28 => ⟨a &&& b, 0⟩
  | 0x29 => ⟨a ||| b, 0⟩
  | 0x2A => ⟨a ^^^ b, 0⟩
  | 0x2B => ⟨a * 2 ^ s % 2 ^ 32, 0⟩
  | 0x2C => ⟨a / 2 ^ s, 0⟩
  | _ => ⟨uint 32 (sint 32 a / 2 ^ s), 0⟩

/-- A lane of an element-wise micro-op from its raw sources. -/
def laneOp (u : UOp) (a b c : Nat) : FR :=
  -- a selected or moved value is a result of its format: a NaN becomes the canonical NaN (R90)
  if u.opcode = 0x1C then laneCvt u.fmt u.fmt (if c ≠ 0 then a else b)
  else if u.opcode = 0x1D || u.opcode = 0x2E then laneCvt u.fmt u.fmt a
  else if inRange 0x28 0x2D u.opcode then bitLane u.opcode a b u.imm
  else if u.opcode = 0x30 then laneCvt (bitsOf u.imm 0 4) u.fmt a
  else if inRange 0x20 0x23 u.opcode then cmpLane u.opcode (laneVal u.fmt a) (laneVal u.fmt b)
  else match fmtOf u.fmt with
    | some f => floatLane f u.opcode (f.decode a) (f.decode b) (f.decode c) (immVal u.fmt u.imm)
    | none => intLane u.fmt u.opcode (intOf u.fmt a) (intOf u.fmt b) (sint 32 u.imm)

/-! ### Reductions (R175 to R177) -/

/-- One tree combination in a format. -/
def redOp (fmt op : Nat) (a b : Nat) : FR :=
  let o := if op = 0x40 then 0x11 else if op = 0x41 then 0x16 else if op = 0x42 then 0x15 else 0x13
  match fmtOf fmt with
  | some f => floatLane f o (f.decode a) (f.decode b) (.fin false 0 0) (.fin false 0 0)
  | none => intLane fmt o (intOf fmt a) (intOf fmt b) 0

/-- The six steps of the shuffle tree over a power of two of lanes: v[i] with v[i + d]. -/
def shuffleTree (g : Nat → Nat → FR) : Nat → List Nat → Nat → FR
  | 0, l, fl => ⟨l.headD 0, fl⟩
  | n + 1, l, fl =>
    let h := l.length / 2
    let ps := (l.take h).zipWith (fun a b => g a b) (l.drop h)
    shuffleTree g n (ps.map FR.bits) (ps.foldl (fun x p => x ||| p.flags) fl)

/-- The identity of a reduction (Table 5.4). -/
def redIdentity (fmt op : Nat) : Nat :=
  match fmtOf fmt with
  | some f =>
    if op = 0x41 then f.inf true else if op = 0x42 then f.inf false
    else if op = 0x43 then (f.round false 1 0).bits else 0
  | none =>
    let w := fmtBits fmt
    if op = 0x41 then 2 ^ (w - 1) else if op = 0x42 then 2 ^ (w - 1) - 1
    else if op = 0x43 then 1 else 0

/-- A row reduction over 64 lanes with the active lanes given. -/
def rowReduce (fmt op : Nat) (xs : List Nat) (act : List Bool) : FR :=
  let idn := redIdentity fmt op
  let v := List.zipWith (fun x a => if a then x else idn) xs act
  let none? := !(act.any id)
  if none? then ⟨idn, flEmpty⟩
  else shuffleTree (redOp fmt op) 6 v 0

/-- RARGMAX (R177). -/
def rowArgmax (fmt : Nat) (xs : List Nat) (act : List Bool) : FR :=
  let vs := (List.zipWith (fun x a => (laneVal fmt x, a)) xs act).zipIdx
  let on := vs.filter (fun p => p.1.2)
  match on.find? (fun p => p.1.1.isNan) with
  | some p => ⟨p.2, flInvalid⟩
  | none =>
    match on with
    | [] => ⟨0xFFFF, flEmpty⟩
    | p :: ps => ⟨(ps.foldl (fun b q => if b.1.1.lt q.1.1 then q else b) p).2, 0⟩

/-! ### Softmax (R179) -/

/-- One softmax row of L window rows: outputs and flags. Positions are F32 values in order. -/
def softmaxRow (fmt : Nat) (xs : List FV) (act : List Bool) : List FR :=
  match fmtOf fmt with
  | none => xs.map (fun _ => ⟨0, 0⟩)
  | some f =>
    let on := List.zipWith (fun x a => (x, a)) xs act
    let live := (on.filter (·.2)).map (·.1)
    if live.isEmpty then xs.map (fun _ => ⟨0, flEmpty⟩)
    else if live.any FV.isNan then xs.map (fun _ => ⟨f.nan, flInvalid⟩)
    else
      let k := (live.filter (fun x => x == .inf false)).length
      if k > 0 then on.map (fun p =>
        if p.2 && p.1 == .inf false then f.divV (.fin false 1 0) (.fin false k 0) else ⟨0, 0⟩)
      else
        let m := live.foldl FV.max (.inf true)
        if m == .inf true then xs.map (fun _ => ⟨0, flEmpty⟩)
        else
          let es := on.map (fun p =>
            if p.2 then
              let d := fF32.addV p.1 m.neg
              let e := fF32.expV (f32 d.bits)
              (⟨e.bits, d.flags ||| e.flags⟩ : FR)
            else ⟨0, 0⟩)
          let sums := (pieces 64 (es.length / 64 + 1) es).map (fun row =>
            shuffleTree f32Add 6 (row.map FR.bits) 0)
          let s := sums.foldl (fun (a : FR) t =>
            let r := f32Add a.bits t.bits
            ⟨r.bits, a.flags ||| t.flags ||| r.flags⟩) (⟨0, 0⟩ : FR)
          List.zipWith (fun (p : FV × Bool) (e : FR) =>
            if p.2 then
              let q := f.divV (f32 e.bits) (f32 s.bits)
              ⟨q.bits, e.flags ||| s.flags ||| q.flags⟩
            else ⟨0, s.flags⟩) on es

/-! ### One micro-op -/

/-- The lanes of a window row as their reader sees them. -/
def VState.lanes (v : VState) (e : VEnv) (rd : Reader) (w : Window) (r : Nat) : List Nat :=
  (List.range 64).map (fun i => v.lane e rd w r i)

/-- Does a micro-op take a mask window? -/
def UOp.masked (u : UOp) : Bool := isMasked u.opcode && u.src3 != 0

/-- The active lanes of row r (R171). -/
def VState.active (v : VState) (e : VEnv) (u : UOp) (rd : Reader) (r : Nat) : List Bool :=
  if u.masked then
    let mw := v.win u.src3
    (v.lanes e rd mw (mw.rowFor r)).map (· != 0)
  else allLanes

/-- The window rows that row r of a micro-op reads, its mask first; the side list apart. A QUANT reads its scale
entries only when they are static (R180). -/
def VState.uopReads (v : VState) (u : UOp) (r : Nat) : List (Window × Nat) :=
  let n := uopSources u.opcode
  let at_ (i : Nat) : Window × Nat := (v.win i, (v.win i).rowFor r)
  (if u.masked then [at_ u.src3] else []) ++
  (if n ≥ 1 || u.opcode = 0x50 || u.opcode = 0x51 then [at_ u.src1] else []) ++
  (if n ≥ 2 then [at_ u.src2] else []) ++
  (if n ≥ 3 then [at_ u.src3] else []) ++
  (if u.opcode = 0x51 || (u.opcode = 0x50 && bitOf u.imm 4) then [(v.win u.src2, r / 32)] else [])

/-- The lines of some window rows. -/
def readsLines (rs : List (Window × Nat)) : List Nat := rs.flatMap (fun x => x.1.rowLines x.2 allLanes)

/-- Scale entry of a block: lane 2(r mod 32) + h of row r div 32 of the scale window (R180). -/
def VState.scaleEntry (v : VState) (e : VEnv) (rd : Reader) (sw : Window) (r h : Nat) : Nat :=
  v.lane e rd sw (r / 32) (2 * (r % 32) + h)

/-- The j-th lane's escape order within its block of 32 codes. -/
def escOrder (codes : List Nat) (i : Nat) : Nat :=
  ((codes.take i).drop (i / 32 * 32)).countP (fun c => c == 8)

/-- SIDE_LEN of a DEQUANT whose escapes decode; 0 where an escape decodes as +0 (R181). -/
def VState.sideLenOf (v : VState) (e : VEnv) (u : UOp) : Nat :=
  if bitOf u.imm 8 && (e.escapeEn || e.test) then
    if e.test then (v.win (u.imm % 32)).rows * 64 else e.sideLen
  else 0

/-- The side-list index of each escape code of row r of a DEQUANT that lies in the list; none for another code. -/
def VState.sideIndex (v : VState) (e : VEnv) (u : UOp) (rd : Reader) (r : Nat) : List (Option Nat) :=
  if u.fmt ≠ 1 then List.replicate 64 none
  else
    let codes := v.lanes e rd (v.win u.src1) r
    (codes.zipIdx).map (fun p =>
      if p.1 = 8 then
        let ix := bitsOf (v.scaleEntry e rd (v.win u.src2) r (p.2 / 32)) 16 12 + escOrder codes p.2
        if ix < v.sideLenOf e u then some ix else none
      else none)

/-- The rows of the side list that row r of a DEQUANT reads. -/
def VState.sideRows (v : VState) (e : VEnv) (u : UOp) (rd : Reader) (r : Nat) : List (Window × Nat) :=
  (((v.sideIndex e u rd r).filterMap id).map (· / 64)).eraseDups.map (fun k => (v.win (u.imm % 32), k))

/-- DEQUANT of one row (R181): values with flags, and the escape faults among them. -/
def VState.dequantRow (v : VState) (e : VEnv) (u : UOp) (rd : Reader) (r : Nat) : List FR × Nat :=
  let codes := v.lanes e rd (v.win u.src1) r
  let sideW := v.win (u.imm % 32)
  let one (p : (Nat × Option Nat) × Nat) : FR × Nat :=
    match p.1.2 with
    | some ix => (fF32.encode (fH16.decode (v.lane e rd sideW (ix / 64) (ix % 64))), 0)
    | none =>
      if u.fmt = 1 && p.1.1 = 8 then (⟨0, flInvalid⟩, 1)
      else (fF32.fromExact (blockExact u.fmt (v.scaleEntry e rd (v.win u.src2) r (p.2 / 32)) p.1.1), 0)
  let rs := ((codes.zip (v.sideIndex e u rd r)).zipIdx).map one
  (rs.map (·.1), (rs.map (·.2)).sum)

/-- The two blocks that QUANT makes of the 64 values of row r (R180). -/
def VState.quantRow (v : VState) (e : VEnv) (u : UOp) (rd : Reader) (r : Nat) (xs : List FV) : List QBlock :=
  [0, 1].map (fun h =>
    quantBlock u.fmt (bitOf u.imm 5) (if bitOf u.imm 4 then some (v.scaleEntry e rd (v.win u.src2) r h) else none)
      ((xs.drop (32 * h)).take 32))

/-- Flags of quantised elements. -/
def quantFlags (els : List QElem) : Nat :=
  els.foldl (fun a (q : QElem) => a ||| (if q.sat then flSaturate else 0) ||| (if q.invalid then flInvalid else 0)) 0

/-- What one row of a micro-op makes: the lanes it writes, flags, saturated lanes, escape faults and, for a QUANT
that writes them, its scale entries. -/
structure UOut where
  vals : List (Option Nat)
  flags : Nat := 0
  sats : List Nat := []
  escFaults : Nat := 0
  entries : List Nat := []
  deriving DecidableEq, Repr

/-- The lanes that row r of a micro-op writes (R169, R171). -/
def VState.written (v : VState) (e : VEnv) (u : UOp) (rd : Reader) (r : Nat) : List Bool :=
  if isRed u.opcode then (List.range 64).map (· == 0) else v.active e u rd r

/-- The result of row r of an element-wise, reduction, quantise or dequantise micro-op. -/
def VState.rowOut (v : VState) (e : VEnv) (u : UOp) (rd : Reader) (r : Nat) : UOut :=
  if u.opcode = 0x51 then
    let q := v.dequantRow e u rd r
    { vals := q.1.map (fun x => some x.bits), flags := q.1.foldl (fun a (x : FR) => a ||| x.flags) 0, escFaults := q.2 }
  else if u.opcode = 0x50 then
    let bs := v.quantRow e u rd r ((v.lanes e rd (v.win u.src1) r).map f32)
    let els := bs.flatMap (·.elems)
    { vals := els.map (fun q => some (uint (fmtBits u.fmt) q.code)), flags := quantFlags els
      sats := ((els.zipIdx).filter (·.1.sat)).map (·.2), entries := bs.map (·.entry) }
  else
    let act := v.active e u rd r
    if isRed u.opcode then
      let xs := v.lanes e rd (v.win u.src1) r
      let o := if u.opcode = 0x44 then rowArgmax u.fmt xs act else rowReduce u.fmt u.opcode xs act
      { vals := some o.bits :: List.replicate 63 none, flags := o.flags }
    else
      let src (i n : Nat) : List Nat :=
        if uopSources u.opcode ≥ n then v.lanes e rd (v.win i) ((v.win i).rowFor r) else List.replicate 64 0
      let a0 := src u.src1 1
      let a := if u.opcode = 0x1D then List.replicate 64 (a0.headD 0)
        else if u.opcode = 0x2E then (List.range 64).map (fun i => a0.getD (i ^^^ (u.imm % 64)) 0)
        else a0
      let b := src u.src2 2
      let c := src u.src3 3
      let os := (List.range 64).map (fun i => laneOp u (a.getD i 0) (b.getD i 0) (c.getD i 0))
      { vals := (os.zip act).map (fun p => if p.2 then some p.1.bits else none)
        flags := (os.zip act).foldl (fun x p => if p.2 then x ||| p.1.flags else x) 0 }

/-- The result of a poisoned or void row: +0 in every lane it writes, with no flag (R163, R298). The +0 of a poisoned
row's QUANT is quantised as any +0 (R150); a void row's codes are zeros. DESIGN CHOICE (log entry 53): a void row
raises no flag. -/
def VState.deadOut (v : VState) (e : VEnv) (u : UOp) (rd : Reader) (r : Nat) : UOut :=
  if u.opcode = 0x50 then
    let bs := if rd = .void then [] else v.quantRow e u rd r (List.replicate 64 (.fin false 0 0))
    let els := bs.flatMap (·.elems)
    { vals := if rd = .void then List.replicate 64 (some 0) else els.map (fun q => some (uint (fmtBits u.fmt) q.code))
      entries := if rd = .void then [0, 0] else bs.map (·.entry) }
  else { vals := (v.written e u rd r).map (fun b => if b then some 0 else none) }

/-- The lanes of the scale window that a QUANT of row r writes. -/
def scaleLanes (r : Nat) (es : List Nat) : List (Option Nat) :=
  (List.range 64).map (fun i => if i / 2 = r % 32 then es[i % 2]? else none)

/-- The poison cause of row r of a micro-op: its reads, and the poisoned lines that its results touch. -/
def VState.rowCause (v : VState) (e : VEnv) (u : UOp) (rd : Reader × Nat) (r : Nat) : Nat :=
  let sc := if u.opcode = 0x50 && !bitOf u.imm 4 then
      v.dstCause e (v.win u.src2) (r / 32) ((scaleLanes r [0, 0]).map Option.isSome)
    else 0
  joinCause rd.2 (joinCause (v.dstCause e (v.win u.dst) r (v.written e u rd.1 r)) sc)

/-- Lay down what row r of a micro-op made. -/
def VState.putOut (v : VState) (e : VEnv) (u : UOp) (rd : Reader) (cause r : Nat) (o : UOut) : VState :=
  let v1 := { v with
    flags := v.flags ||| o.flags
    sats := v.sats ++ o.sats.map (fun j => (if e.serve.testBit u.dst then 0 else u.dst + 1, r, j))
    escFaults := v.escFaults + o.escFaults }
  let v2 := v1.putLanes e (v1.win u.dst) r o.vals rd cause
  if u.opcode = 0x50 && !bitOf u.imm 4 then v2.putLanes e (v2.win u.src2) (r / 32) (scaleLanes r o.entries) rd cause
  else v2

/-- Row r of the slice is poisoned, where the window's rows serve the slice's. -/
def VState.poisonRow (v : VState) (e : VEnv) (i r cause : Nat) : VState :=
  if e.serve.testBit i && cause != 0 then { v with poisoned := mset 0 v.poisoned r (joinCause (mget 0 v.poisoned r) cause) }
  else v

/-- Run row r of an element-wise, reduction, quantise or dequantise micro-op. -/
def VState.uopRow (e : VEnv) (u : UOp) (v : VState) (r : Nat) : VState :=
  let rd0 := e.readerOf u.dst r
  let xs := readsLines (v.uopReads u r ++ (if u.opcode = 0x51 then v.sideRows e u rd0 r else []))
  let rd := v.checkLines e (rd0, 0) xs
  let cause := if rd0 = .void then 0 else v.rowCause e u rd r
  let o := if cause ≠ 0 || rd0 = .void then v.deadOut e u rd.1 r else v.rowOut e u rd.1 r
  ((v.noteMarks e rd0 xs).poisonRow e u.dst r cause).putOut e u rd.1 cause r o

/-- One row of a SOFTMAX group: its reader after the reads and its poison cause, its active lanes, and the lines
it read. Positions that are not active are not read (R179). -/
structure SoftRow where
  row : Nat
  reader : Reader
  cause : Nat
  act : List Bool
  lines : List Nat
  deriving DecidableEq, Repr

/-- Read one row of a SOFTMAX group: its mask row, then the lines that hold an active position. -/
def VState.softRow (v : VState) (e : VEnv) (u : UOp) (r : Nat) : SoftRow :=
  let rd0 := e.readerOf u.dst r
  let ms := if u.masked then readsLines [(v.win u.src3, (v.win u.src3).rowFor r)] else []
  let act := v.active e u rd0 r
  let xs := ms ++ (v.win u.src1).rowLines r act
  let rd := v.checkLines e (rd0, 0) xs
  { row := r, reader := rd.1, act := act, lines := xs
    cause := if rd0 = .void then 0 else joinCause rd.2 (v.dstCause e (v.win u.dst) r allLanes) }

/-- SOFTMAX over groups of L rows (R179). A void or padding row of a group reads as zero, takes zero and raises no
flag. -/
def VState.softmax (v : VState) (e : VEnv) (u : UOp) : VState :=
  let d := v.win u.dst
  let w := v.win u.src1
  let l := bitsOf u.imm 0 6 + 1
  (List.range (d.rows / l)).foldl (fun v g =>
    let rows := (List.range l).map (fun i => v.softRow e u (g * l + i))
    let cause := rows.foldl (fun a c => joinCause a c.cause) 0
    let xs := rows.flatMap (fun q => (v.lanes e q.reader w q.row).map (laneVal u.fmt))
    let outs : List FR := if cause ≠ 0 then xs.map (fun _ => ⟨0, 0⟩) else softmaxRow u.fmt xs (rows.flatMap SoftRow.act)
    (rows.zipIdx).foldl (fun v p =>
      let mine := (outs.drop (64 * p.2)).take 64
      let dead := p.1.reader == .void
      let c := if dead then 0 else cause
      let o : UOut := if dead then { vals := List.replicate 64 (some 0) }
        else { vals := mine.map (fun x => some x.bits), flags := mine.foldl (fun a (x : FR) => a ||| x.flags) 0 }
      ((v.noteMarks e p.1.reader p.1.lines).poisonRow e u.dst p.1.row c).putOut e u p.1.reader c p.1.row o) v) v

/-- TRED over the tile register (R178). -/
def tredValues (treg : Map Word32) (fmt imm : Nat) : List FR :=
  let ent (x y : Nat) : Nat := (mget 0 treg (64 * x + y)).toNat
  let op := bitsOf imm 1 2
  let code := if op = 0 then 0x40 else if op = 1 then 0x41 else 0x42
  (List.range 64).map (fun i =>
    (List.range 64).foldl (fun (a : FR) j =>
      let x := if bitOf imm 0 then ent j i else ent i j
      if op = 3 then ⟨a.bits ^^^ x, a.flags⟩
      else ⟨(redOp fmt code a.bits x).bits, a.flags ||| (redOp fmt code a.bits x).flags⟩)
      (⟨if op = 3 then 0 else redIdentity fmt code, 0⟩ : FR))

/-- Run one micro-op of a chain. WAIT, SIGNAL, SYNC and NOP change no data here (R164 to R167). -/
def VState.step (e : VEnv) (v : VState) (u : UOp) : VState :=
  let before := v.flags
  let v0 := { v with flags := 0 }
  let v1 :=
    if u.opcode = 0x01 then { v0 with wins := mput u.dst (wsetWindow u) v0.wins }
    else if u.opcode ≤ 0x04 then v0
    else if u.opcode = 0x48 then v0.softmax e u
    else if u.opcode = 0xF0 then
      let rs := tredValues e.treg u.fmt u.imm
      let v0 := { v0 with flags := rs.foldl (fun a (o : FR) => a ||| o.flags) 0 }
      v0.putLanes e (v0.win u.dst) 0 (rs.map (fun x => some x.bits)) (.free none) 0
    else (List.range (v0.win u.dst).rows).foldl (VState.uopRow e u) v0
  { v1 with
    flags := before ||| v1.flags
    uops := v.uops + 1
    busy := v.busy + uopCycles u.opcode (uopRows v1.wins u)
    invalidUops := v.invalidUops + b2n (bitOf v1.flags 0)
    satUops := v.satUops + b2n (bitOf v1.flags 4) }

/-- Run a chain. -/
def VState.run (e : VEnv) (v : VState) (us : List UOp) : VState := us.foldl (VState.step e) v

/-- The chain split at SYNC: the pre-part and the post-part, which SYNC opens; without SYNC it is wholly post-part
(R165). -/
def splitChain (us : List UOp) : List UOp × List UOp :=
  match us.findIdx? (fun u => u.opcode == 0x02) with
  | some i => (us.take i, us.drop i)
  | none => ([], us)

end Sys2Proof.Machine
end

