-- ==== Sys2Proof/Machine/Matrix.lean ====
section
/-! DEFINITION. The matrix engine (chapter 4): one slice's products, accumulation order, side products,
correction, merge and quantise stage, over the operands a layout names. -/

namespace Sys2Proof.Machine

/-- One operand element on an integer path: its code less the zero point, its block scale (B16), and
whether it is an escape code. -/
structure IntEl where
  q : Int
  scale : Nat
  esc : Bool
  /-- The decoded value (R96), or an escape's side-list value. -/
  val : FV
  /-- An escape that decodes as +0 (R105). -/
  fault : Bool
  deriving DecidableEq, Repr

/-- A slice's inputs. -/
structure MxIn where
  cfg : TileCfg
  lay : SliceLayout
  lines : Map Line
  shares : List Nat
  /-- Outlier channels of the frame's tensor, ascending. -/
  outliers : List Nat
  /-- SIDE_LEN while the frame decodes escapes; 0 otherwise. -/
  sideLen : Nat
  /-- Each row's gathered segment, as a byte of the share space; none for a row with no adapter. -/
  segs : List (Option Nat)
  /-- Starting accumulators and side sums of a continued chain, row-major; empty for none. -/
  accs : List Nat
  sides : List Nat
  /-- The readers of the slice's rows; none for a padding row. -/
  readers : List (Option Reader)
  deriving DecidableEq, Repr

/-- Element index of (line, position) of a plane. -/
def planeIndex (p : PlaneRef) (l x : Nat) : Nat := (p.line0 + l) * p.pitch + p.at0 + x

/-- The raw code at an element index. -/
def rawAt (i : MxIn) (off w ix : Nat) : Nat := elemAt i.lines i.shares (off + ix * w / 8) w (ix * w % 8)

/-- An H16 or B16 element of an array of 2-byte elements. -/
def halfAt (i : MxIn) (off ix : Nat) : Nat := rawAt i off 16 ix

/-- The scale entry of the block that holds an element. -/
def entryAt (i : MxIn) (p : PlaneRef) (ix : Nat) : Nat := elemAt i.lines i.shares (p.scaleOff + ix / 32 * 4) 32

/-- One element of an integer-path operand (R135, R141): `side` is the side-list length that its
escapes may use, 0 where an escape decodes as +0. -/
def intEl (i : MxIn) (p : PlaneRef) (fmt side ix : Nat) : IntEl :=
  let raw := rawAt i p.off (fmtBits fmt) ix
  let ent := entryAt i p ix
  if fmt = 1 && raw = 8 then
    let base := ix / 32 * 32
    let j := ((List.range (ix - base)).filter (fun d => rawAt i p.off 4 (base + d) == 8)).length
    let e := bitsOf ent 16 12 + j
    if e < side then ⟨0, ent % 65536, true, fH16.decode (halfAt i i.lay.side e), false⟩
    else ⟨0, ent % 65536, true, .fin false 0 0, true⟩
  else ⟨codeInt fmt raw - entryZp fmt ent, ent % 65536, false, blockDecode fmt ent raw, false⟩

/-- The inputs as row r reads them: a void or padding row reads zero from DOMAIN and ROW lines (R298, R624). -/
def MxIn.forRow (i : MxIn) (r : Nat) : MxIn :=
  match i.readers.getD r none with
  | some (.row _) => i
  | _ => { i with lines := i.lines.map (fun e => (e.1, e.2.seenBy .void)) }

/-- Format of the A operand (Table 4.1). -/
def aFmt (mode : Nat) : Nat :=
  if mode = 1 || mode = 2 then 1 else if mode = 3 || mode = 4 then 3 else if mode = 5 || mode = 7 then 4 else 5
/-- Format of the B operand (Table 4.1). -/
def bFmt (mode : Nat) : Nat :=
  if mode ≤ 3 then 1 else if mode = 4 then 2 else if mode = 5 || mode = 7 then 4 else 5

/-- Index of A element (r, k): a transposed read takes the stored element (k, r) (R140). -/
def aIndex (i : MxIn) (r k : Nat) : Nat := if i.cfg.aSrc = 1 then planeIndex i.lay.a k r else planeIndex i.lay.a r k
/-- Index of B element (k, j). -/
def bIndex (i : MxIn) (k j : Nat) : Nat := if i.cfg.bSrc = 1 then planeIndex i.lay.b k j else planeIndex i.lay.b j k

/-! ### Integer paths (R135) -/

/-- Close a run into the accumulator. -/
def closeRun (run : Option (Nat × Nat × Int)) (acc : FR) : FR :=
  match run with
  | none => acc
  | some (sa, sb, n) =>
    let t := f32OfInt n
    let sig := fF32.mulV (fB16.decode sa) (fB16.decode sb)
    let c := f32Mul t.bits sig.bits
    let s := f32Add acc.bits c.bits
    ⟨s.bits, acc.flags ||| t.flags ||| sig.flags ||| c.flags ||| s.flags⟩

/-- Sum the products of one output by runs of equal scale pairs. -/
def runSum : List (IntEl × IntEl) → Option (Nat × Nat × Int) → FR → FR
  | [], run, acc => closeRun run acc
  | (a, b) :: ps, run, acc =>
    let prod : Int := if a.esc || b.esc then 0 else a.q * b.q
    match run with
    | some (sa, sb, n) =>
      if sa = a.scale && sb = b.scale then runSum ps (some (sa, sb, n + prod)) acc
      else runSum ps (some (a.scale, b.scale, prod)) (closeRun run acc)
    | none => runSum ps (some (a.scale, b.scale, prod)) acc

/-! ### Float paths (R134) -/

/-- Round a pair's sum to F32. -/
def pairSum (a b : FV × Nat) : FV × Nat :=
  let r := fF32.sumV a.1 b.1
  (f32 r.bits, a.2 ||| b.2 ||| r.flags)

/-- Halve a level of the adder tree until one value is left. -/
def treeSum : Nat → List (FV × Nat) → FV × Nat
  | 0, l => l.headD (.fin false 0 0, 0)
  | n + 1, l =>
    if l.length ≤ 1 then l.headD (.fin false 0 0, 0)
    else treeSum n ((List.range (l.length / 2)).map (fun u =>
      pairSum (l.getD (2 * u) (.fin false 0 0, 0)) (l.getD (2 * u + 1) (.fin false 0 0, 0))))

/-- Accumulate exact products in groups of g. -/
def floatSum (f : FFmt) (g : Nat) : Nat → List (FV × Nat) → FR → FR
  | 0, _, acc => acc
  | fuel + 1, ps, acc =>
    if ps.isEmpty then acc
    else
      let lev := ps.take g ++ List.replicate (g - (ps.take g).length) (.fin false 0 0, 0)
      let t := treeSum 5 lev
      let r := f.sumV (f.decode acc.bits) t.1
      floatSum f g fuel (ps.drop g) ⟨r.bits, acc.flags ||| t.2 ||| r.flags⟩

/-- An exact product with the flag of an invalid one. -/
def prodFV (a b : FV) : FV × Nat :=
  match a.mul b with
  | some v => (v, 0)
  | none => (.nan, flInvalid)

/-! ### Side products (R106, R137) -/

/-- The side product of output (r, j) at contraction index k, if it has one: of an outlier channel, or of an
escape, whose product is zero where it decodes as +0 (R105).

DEDUCED (log entry 54): such an escape takes a place of R137's count only in a frame that sets ESCAPE_EN. -/
def sideProd (i : MxIn) (r j k : Nat) (a b : IntEl) : Option (FV × FV) :=
  match (if i.cfg.outlierEn then i.outliers.idxOf? (i.lay.k0 + k) else none) with
  | some c =>
    some (fH16.decode (halfAt i i.lay.bOutlier (c * i.cfg.n + j)),
      fH16.decode (halfAt i i.lay.aOutlier (r * i.outliers.length + c)))
  | none =>
    if !b.esc || !i.cfg.escapeEn then none
    else if b.fault then some (.fin false 0 0, .fin false 0 0) else some (b.val, a.val)

/-- Add the side products that the side unit takes. -/
def sideSum (ps : List (FV × FV)) (s0 : FR) : FR :=
  ps.foldl (fun (s : FR) p =>
    let pr := fF32.mulV p.1 p.2
    let t := f32Add s.bits pr.bits
    ⟨t.bits, s.flags ||| pr.flags ||| t.flags⟩) s0

/-! ### The correction (R152) -/

/-- l of output (r, j): the row's low-rank vector against its segment. -/
def correction (i : MxIn) (r j : Nat) : FR :=
  match i.segs.getD r none with
  | none => ⟨0, 0⟩
  | some seg =>
    (List.range i.cfg.rank).foldl (fun (l : FR) k =>
      let t := fB16.decode (halfAt i i.lay.lowRank (r * i.cfg.rank + k))
      let u := fB16.decode (halfAt i seg (k * i.cfg.n + j))
      let s := fF32.fromExact (FV.fma t u (f32 l.bits))
      ⟨s.bits, l.flags ||| s.flags⟩) (⟨0, 0⟩ : FR)

/-! ### One slice -/

/-- One output: running accumulator, side sum, result, and what its forming raised. -/
structure MxCell where
  acc : Nat
  side : Nat
  res : Nat
  flags : Nat
  drops : Nat
  deriving DecidableEq, Repr

/-- The format of the running accumulator (Table 4.1). -/
def accFmt (mode : Nat) : FFmt := if mode = 5 || mode = 6 then fH16 else fF32

/-- Output (r, j) from the row's A elements. -/
def mxCell (i : MxIn) (r j : Nat) (as : List IntEl) (bs : List IntEl) : MxCell :=
  let c := i.cfg
  let ix := r * c.n + j
  let acc0 := i.accs.getD ix 0
  let side0 := i.sides.getD ix 0
  let ks := List.range c.k
  let main : FR :=
    if intMode c.mode then runSum (as.zip bs) none ⟨acc0, 0⟩
    else if c.fused && (i.segs.getD r none).isNone then ⟨0, 0⟩
    else
      let prods := ks.map (fun k =>
        let a := (fmtOf (aFmt c.mode)).getD fF32 |>.decode (rawAt (i.forRow r) i.lay.a.off 16 (aIndex i r k))
        let b := match c.fused, i.segs.getD r none with
          | true, some seg => fB16.decode (halfAt i seg (k * c.rank + j))
          | _, _ => (fmtOf (bFmt c.mode)).getD fF32 |>.decode (rawAt i i.lay.b.off 16 (bIndex i k j))
        prodFV a b)
      floatSum (accFmt c.mode) (groupSize c) (c.k + 1) prods ⟨acc0, 0⟩
  let sps := if intMode c.mode then
      (ks.zip (as.zip bs)).filterMap (fun p => sideProd i r j p.1 p.2.1 p.2.2)
    else []
  let cap := computeLen c.mode c.k / 2
  let s := sideSum (sps.take cap) ⟨side0, 0⟩
  let drops := sps.length - (sps.take cap).length
  let m32 : FR := fconv (accFmt c.mode) fF32 main.bits
  let m2 : FR := if c.fused && intMode c.mode && c.outDst != 6 then
      let l := correction i r j
      let t := f32Add m32.bits l.bits
      ⟨t.bits, l.flags ||| t.flags⟩
    else ⟨m32.bits, 0⟩
  let res := f32Add m2.bits s.bits
  { acc := main.bits, side := s.bits, res := res.bits, drops := drops
    flags := main.flags ||| s.flags ||| (if c.outDst = 6 then 0 else m2.flags ||| res.flags) |||
      (if drops > 0 then flInvalid else 0) }

/-- All outputs of a slice, row by row, with the escape faults of its operands (R105). -/
structure MxOut where
  rows : List (List MxCell)
  escFaults : Nat
  deriving DecidableEq, Repr

/-- Run the products of a slice. -/
def mxSlice (i : MxIn) : MxOut :=
  let c := i.cfg
  if intMode c.mode then
    let aRows := (List.range c.m).map (fun r =>
      let ir := i.forRow r
      (List.range c.k).map (fun k => intEl ir i.lay.a (aFmt c.mode) 0 (aIndex i r k)))
    let bCols := (List.range c.n).map (fun j =>
      (List.range c.k).map (fun k => intEl i i.lay.b (bFmt c.mode) i.sideLen (bIndex i k j)))
    { rows := (aRows.zipIdx).map (fun p => (bCols.zipIdx).map (fun q => mxCell i p.2 q.2 p.1 q.1))
      escFaults := (aRows.zipIdx.map (fun p => if (i.readers.getD p.2 none).isNone then 0 else p.1.countP (·.fault))).sum + (bCols.map (fun l => l.countP (·.fault))).sum }
  else
    { rows := (List.range c.m).map (fun r => (List.range c.n).map (fun j => mxCell i r j [] []))
      escFaults := 0 }

/-! ### The quantise stage of a drained row -/

/-- A drained row: element codes, scale entries of its blocks, the H16 elements of its outlier channels, flags and
saturated elements. -/
structure OutRow where
  codes : List Nat
  entries : List Nat
  outliers : List Nat := []
  flags : Nat
  sats : List Bool
  deriving DecidableEq, Repr

/-- The element format of an OUT_FORMAT byte; no quantise stage leaves F32. -/
def outFmt (b : Nat) : Nat := if b % 16 = 0 then 8 else b % 16

/-- Convert one value to a plain format. -/
def plainOut (fmt : Nat) (x : Nat) : FR :=
  match fmtOf fmt with
  | some f => fconv fF32 f x
  | none => toIntFmt fmt (f32 x)

/-- The element of an outlier channel: its value in H16, and whether it saturates (R91, R112). -/
def outlierEl (x : Nat) : Nat × QElem :=
  let r := fconv fF32 fH16 x
  (r.bits, ⟨0, bitOf r.flags 4 || (f32 x).isNan, (f32 x).isNan⟩)

/-- Quantise one row of results (R100, R112). `static` gives the scale entry of block b of the row, and `outCols`
the columns that are outlier channels: their H16 elements go to the outlier plane, the main plane holds zero there.

DESIGN CHOICE (log entry 42): an outlier channel's column takes no part in its block's scale. -/
def outRow (outFormat : Nat) (static : Nat → Nat) (outCols : List Nat) (xs : List Nat) : OutRow :=
  let fmt := outFmt outFormat
  if inRange 1 3 fmt then
    let vals := (xs.zipIdx).map (fun p => if outCols.contains p.2 then FV.fin false 0 0 else f32 p.1)
    let nb := ceilDiv xs.length 32
    let padded := vals ++ List.replicate (nb * 32 - vals.length) (.fin false 0 0)
    let blocks := (List.range nb).map (fun b =>
      quantBlock fmt (bitOf outFormat 5) (if bitOf outFormat 4 then some (static b) else none)
        ((padded.drop (32 * b)).take 32))
    let els := blocks.flatMap (·.elems)
    let live := ((els.take xs.length).zip xs).zipIdx.map (fun p =>
      if outCols.contains p.2 then (outlierEl p.1.2).2 else p.1.1)
    -- a padding element, and an outlier channel's place, carries the code whose value is zero
    let codes := (els.zipIdx).map (fun p =>
      let zp := entryZp fmt ((blocks.map (·.entry)).getD (p.2 / 32) 0)
      let z := decide (p.2 ≥ xs.length) || outCols.contains p.2
      uint (fmtBits fmt) (if z then zp else p.1.code))
    { codes := codes, entries := blocks.map (·.entry), outliers := outCols.map (fun j => (outlierEl (xs.getD j 0)).1)
      flags := live.foldl (fun a (q : QElem) => a ||| (if q.sat then flSaturate else 0) |||
        (if q.invalid then flInvalid else 0)) 0
      sats := live.map (·.sat) }
  else
    let rs := xs.map (plainOut fmt)
    { codes := rs.map FR.bits, entries := [], outliers := outCols.map (fun j => (outlierEl (xs.getD j 0)).1)
      flags := rs.foldl (fun a (q : FR) => a ||| q.flags) 0
      sats := rs.map (fun q => bitOf q.flags 4) }

end Sys2Proof.Machine
end

