-- ==== Sys2Proof/Machine/Seed.lean ====
section
/-! DEFINITION. The residual seeding kernel (R182 to R185): the sketch, the damped factorisation and the
factors it writes. -/

namespace Sys2Proof.Machine

/-- A dot product: products rounded to F32, chunks of 64 by the shuffle tree, chunks in order from +0. -/
def seedDot (ps : List Nat) : Nat :=
  (pieces 64 (ps.length + 1) ps).foldl (fun a c =>
    let act := (List.range 64).map (fun i => decide (i < c.length))
    (f32Add a (rowReduce 8 0x40 ((List.range 64).map (fun i => c.getD i 0)) act).bits).bits) 0

/-- Entry (i, j) of a matrix of rows. -/
def matAt (m : List (List Nat)) (i j : Nat) : Nat := (m.getD i []).getD j 0

/-- An ordered sum of rounded products, from +0. -/
def seqSum (ps : List (Nat × Nat)) : Nat := ps.foldl (fun a p => (f32Add a (f32Mul p.1 p.2).bits).bits) 0

/-- x − sum, then the quotient by a pivot: one entry of a triangular solve. -/
def triEntry (x : Nat) (ps : List (Nat × Nat)) (piv : Nat) : Nat := (f32Div (f32Sub x (seqSum ps)).bits piv).bits

/-- The entries before the pivot of row i, left to right. -/
def cholRow (m l : List (List Nat)) (i : Nat) : Nat → List Nat → List Nat
  | 0, row => row
  | n + 1, row =>
    let j := row.length
    let lj := l.getD j []
    cholRow m l i n (row ++ [triEntry (matAt m i j) (row.zip lj) (lj.getD j 0)])

/-- The rows of the factor: none where a pivot is NaN or not above the tolerance (R184). -/
def cholRows (m : List (List Nat)) (tol : Nat) : Nat → List (List Nat) → Option (List (List Nat))
  | 0, l => some l
  | n + 1, l =>
    let i := l.length
    let row := cholRow m l i i []
    let d := (f32Sub (matAt m i i) (seqSum (row.zip row))).bits
    if (f32 d).isNan || !((f32 tol).lt (f32 d)) then none
    else cholRows m tol n (l ++ [row ++ [(fF32.sqrtV (f32 d)).bits]])

/-- chol(m) (R184). -/
def chol (r : Nat) (m : List (List Nat)) : Option (List (List Nat)) :=
  let top := (List.range r).foldl (fun a i => if i = 0 then matAt m 0 0 else (toF32 ((f32 a).max (f32 (matAt m i i))))) 0
  cholRows m (fF32.mulV (.fin false 1 (-24)) (f32 top)).bits r []

/-- damped_cholesky(g): the attempt that succeeds and its factor; none where all fail. -/
def dampedChol (r : Nat) (g : List (List Nat)) : Option (Nat × List (List Nat)) :=
  let trace := (List.range r).foldl (fun a i => (f32Add a (matAt g i i)).bits) 0
  let lam := (fF32.divV (f32 (fF32.mulV (.fin false 1 (-10)) (f32 trace)).bits) (.fin false r 0)).bits
  (List.range 4).findSome? (fun k =>
    let add := (fF32.mulV (.fin false k 0) (f32 lam)).bits
    let m := g.zipIdx.map (fun x => x.1.zipIdx.map (fun y => if x.2 = y.2 then (f32Add y.1 add).bits else y.1))
    (chol r m).map (fun l => (k, l)))

/-- One row of q: the forward substitution of q × transpose(l) = y. -/
def solveRow (l : List (List Nat)) (y : List Nat) : List Nat :=
  y.zipIdx.foldl (fun q x =>
    let lj := l.getD x.2 []
    q ++ [triEntry x.1 (q.zip lj) (lj.getD x.2 0)]) []

/-- What the kernel leaves: the result word and the factors' B16 codes. -/
structure SeedOut where
  word : Nat
  down : List Nat
  up : List Nat
  deriving DecidableEq, Repr

/-- The kernel for a K × N tensor of rank r, from the exact weights and the decoded base, both row-major (R183). -/
def seedKernel (seed tensorA k n r : Nat) (w qdec : Nat → FV) : SeedOut :=
  let e := (List.range k).map (fun i => (List.range n).map (fun j => (fF32.addV (w (i * n + j)) (qdec (i * n + j)).neg).bits))
  let omega (j x : Nat) : Nat := if (rand64 seed 0 tensorA (j * r + x)).getLsbD 63 then 0xBF800000 else 0x3F800000
  let y := e.map (fun row => (List.range r).map (fun x => seedDot (row.zipIdx.map (fun p => (f32Mul p.1 (omega p.2 x)).bits))))
  let g := (List.range r).map (fun i => (List.range r).map (fun j => seedDot (y.map (fun row => (f32Mul (row.getD i 0) (row.getD j 0)).bits))))
  match dampedChol r g with
  | none => ⟨4, List.replicate (k * r) 0, List.replicate (r * n) 0⟩
  | some (att, l) =>
    let q := y.map (solveRow l)
    let b := (List.range r).map (fun j => (List.range n).map (fun c =>
      seedDot ((q.zip e).map (fun x => (f32Mul (x.1.getD j 0) (x.2.getD c 0)).bits))))
    let b16 (x : Nat) : Nat := (fconv fF32 fB16 x).bits
    ⟨att, q.flatten.map b16, b.flatten.map b16⟩

/-- Offset of tensor i in the seed source: tensors in order, each on a 64-byte boundary. -/
def seedOffset (m : List Byte) (width i : Nat) : Nat :=
  (List.range i).foldl (fun a j => a + lineUp ((manTensor m j).k * (manTensor m j).n * width)) 0

/-- The lines of a loaded base in a logical quadrant, keyed by their place from the set's base offset. -/
def State.baseLines (s : State) (p lq : Nat) (set : CfgSet) : Map Line :=
  (List.range (ceilDiv set.lqBytes 64)).map (fun i => (i, s.regionLine p lq 0 (set.baseOff + 64 * i)))

/-- The side-list length of a base tensor: it is privileged where the structure lists it and a frame of it sets ESCAPE_EN
(R104). -/
def State.sideLenOf (s : State) (set : CfgSet) (tensor : Nat) : Nat :=
  if set.file.tiles.any (fun t => t.tensor == tensor && t.escapeEn) then (privLenOf s.glb.cfg set.file.base tensor).getD 0 else 0

/-- The base as an operand of the decoder: its lines, and the tensor's outlier channels and side list. -/
def State.baseIn (s : State) (p : Nat) (set : CfgSet) (tensor : Nat) (lay : BaseLayout) : MxIn :=
  { cfg := {}, lay := { b := lay.plane, bOutlier := lay.outlier, side := lay.side }
    lines := s.baseLines p lay.lq set
    shares := List.range (set.lqBytes / shareBytes + 1)
    outliers := mget [] set.outliers tensor
    sideLen := s.sideLenOf set tensor
    segs := [], accs := [], sides := [], readers := [] }

/-- The fully decoded weight of input channel k and output column j of an N-column tensor, its outlier and escape values
included (R96, R103, R104). -/
def baseWeight (i : MxIn) (lay : BaseLayout) (n k j : Nat) : FV :=
  let ix := if lay.transposed then planeIndex lay.plane k j else planeIndex lay.plane j k
  match i.outliers.idxOf? k with
  | some o => fH16.decode (halfAt i lay.outlier (o * n + j))
  | none =>
    if blockFmt lay.fmt then (intEl i lay.plane lay.fmt i.sideLen ix).val
    else match fmtOf lay.fmt with
      | some f => f.decode (rawAt i lay.plane.off (fmtBits lay.fmt) ix)
      | none => .fin false 0 0

/-- One tile's share of the kernel's mode-0x00 slices: how many slices and micro-ops each tile runs is free (log entry 63),
and so is what its counters gain. -/
def State.seedSlices (s : State) (tl : TileId) : State :=
  let a := s.draw 32
  let b := a.2.draw 32
  let c := b.2.draw 32
  let d := c.2.draw 32
  let e := d.2.draw 32
  let f := e.2.draw 32
  f.2.modTile tl (fun t => { t with
    mx := { t.mx with slices := bump t.mx.freeze t.mx.slices a.1.toNat, busy := bump t.mx.freeze t.mx.busy b.1.toNat }
    vxu := { t.vxu with
      uops := bump t.vxu.freeze t.vxu.uops c.1.toNat, busy := bump t.vxu.freeze t.vxu.busy d.1.toNat
      invalid := bump t.vxu.freeze t.vxu.invalid e.1.toNat, sat := bump t.vxu.freeze t.vxu.sat f.1.toNat } })

/-- A tensor's factors join the registration; after the last one the adapter is placed and step 11 follows. -/
def State.seedTensor (s : State) (c : Cmd) (r : RegWork) (out : SeedOut) : State :=
  let n := r.factors.length
  let q := ((s.part c.part).quadAt (n % max 1 (s.part c.part).quads.length)).pq
  let s1 := ((s.part c.part).tiles.foldl State.seedSlices s).modQuad q (fun k => { k with
    seedRuns := bumpHold k.seedRuns, seedDegenerate := bumpHold k.seedDegenerate (b2n (bitOf out.word 2)) })
  let r' := { r with
    seeds := r.seeds.modify n (fun _ => out.word)
    factors := r.factors ++ [(out.down.flatMap (leBytes 2), out.up.flatMap (leBytes 2))]
    degenerate := r.degenerate + b2n (bitOf out.word 2) }
  let s2 := s1.modCmd c.job (fun c => { c with reg := some r' })
  if r'.factors.length = manTensors r.manifest then (s2.placeAdapter c.part r' (fun i => r'.factors.getD i ([], []))).regCommitOrWait c.job else s2

/-- SEEDING_KERNEL_DONE: the kernel of the next tensor, in entry order, ends (R290, step 10). `lay` says where the base
tensor's weights lie. -/
def execSeedingKernelDone (j : JobRef) (lay : BaseLayout) (s : State) : Host.Outcome State Fault Refusal :=
  .next <| match s.cmd j with
  | none => s
  | some c => match c.reg with
    | none => s
    | some r =>
      let m := r.manifest
      let tensor := r.factors.length
      if !manSeed m || manTensors m ≤ tensor || c.phase == .final then s
      else if !s.domainOk c.part r.domain then s.regClosed c
      else match (s.part c.part).sets.find? (fun x => x.file.base == manBase m) with
      | none => s.failReg j stBaseMismatch
      | some set =>
        let fmt := c.param 0x21 1
        let width := fmtBits fmt / 8
        let t := manTensor m tensor
        let addr := c.param 0x38 8 + seedOffset m width tensor
        match s.hostRead addr (t.k * t.n * width) with
        | none => s.failReg j stAborted 0x51
        | some src =>
          let wv (i : Nat) : FV := match fmtOf fmt with
            | some f => f.decode (fieldAt src (i * width) width)
            | none => .fin false 0 0
          let b := s.baseIn c.part set t.base lay
          let qd (i : Nat) : FV := baseWeight b lay t.n (i / max 1 t.n) (i % max 1 t.n)
          s.seedTensor c r (seedKernel (s.dom r.domain).seed t.idA t.k t.n (manRank m) wv qd)

end Sys2Proof.Machine
end

