-- ==== Sys2Proof/Machine/Order.lean ====
section
/-! DEFINITION. Chapter 13's ABORT, FENCE, SCRUB and QUERY (R389, R493 to R495). -/

namespace Sys2Proof.Machine

/-! ### ABORT (R495) -/

/-- The fills of a ring that are in progress, as they go on once its job has left the tile; none where none is (R256). -/
def Ring.leave (r : Ring) : Option Ring :=
  let fs := r.fills.filter (fun f => f.started && !f.done)
  if fs.isEmpty then none else some { r with fills := fs, next := [] }

/-- Remove a job's unstarted slices from a tile: its position, its chain (R145), and its ring, whose fills in progress
complete (R256). -/
def Tile.removeJob (t : Tile) (ctx : Nat) (j : JobRef) : Tile :=
  { t with
    switching := match t.switching with
      | some w => if w.next.job = j then none else some w
      | none => none
    ctxs := mmod {} t.ctxs ctx (fun c => { c with
      jobs := c.jobs.filter (fun x => x.job != j)
      chain := c.chain.filter (fun x => x.job != j)
      ring := c.ring.filter (fun r => r.job != j)
      dying := c.dying ++ ((c.ring.filter (fun r => r.job == j)).bind Ring.leave).toList }) }

/-- A job leaves a tile; the context's next ring there is due (R254). -/
def State.leaveTile (s : State) (p : Nat) (tl : TileId) (ctx : Nat) (j : JobRef) : State :=
  (s.modTile tl (fun t => t.removeJob ctx j)).nextRing p tl ctx

/-- A job leaves the tiles of its partition that run no slice. -/
def State.leaveIdle (s : State) (c : Cmd) : State :=
  (s.part c.part).tiles.foldl (fun (s : State) tl => if (s.tile tl).running.isNone then s.leaveTile c.part tl c.ctx c.job else s) s

/-- No slice of a job runs in the partition and no tile holds its position. -/
def State.jobGone (s : State) (p ctx : Nat) (j : JobRef) : Bool :=
  (s.part p).tiles.all (fun tl =>
    let t := s.tile tl
    (match t.running with
      | some r => r.job != j
      | none => true) && (mget {} t.ctxs ctx).jobs.all (fun x => x.job != j))

/-- An ABORT reaches a job: at once where it is not dispatched or its context is not resident, otherwise at
each tile's next boundary, and now in tiles that run nothing (R38, R378). -/
def State.abortJob (s : State) (c : Cmd) : State :=
  let j := c.job
  let s1 := s.modCmd j (fun c => { c with aborted := true })
  let ctx := ((s.part c.part).ctxs.getD c.ctx {})
  if !c.dispatched || ctx.res != .resident then
    s1.fixJob j
  else
    let s2 := s1.leaveIdle c
    if s2.jobGone c.part c.ctx j then s2.fixJob j else s2.resched c.part

/-- An ABORT reaches a waiting ADAPTER_EVICT (R307, R308): whether it takes effect. Where another eviction still waits, or a
domain close evicts the handle, it goes on with its mode and force; otherwise the handle is RESIDENT again, or stays
LOADING. -/
def State.abortEvict (s : State) (c : Cmd) : State × Bool :=
  let h := c.param 0x20 2
  let e := s.entry h
  if !e.evicts.contains c.job || e.drained then (s, false)
  else
    let left := e.evicts.filter (fun x => x != c.job)
    let s1 := s.modEntry h (fun e => { e with
      evicts := left
      state := if left.isEmpty && !e.closing && e.state == .evicting then .resident else e.state
      forced := if left.isEmpty && !e.closing then false else e.forced })
    (s1.finish c.job stAborted, true)

/-- An ABORT reaches a BIND that waits for a reload: it ends and its bind is given back. -/
def State.abortBind (s : State) (c : Cmd) : State × Bool :=
  let h := c.param 0x20 2
  if (s.entry h).waiting.contains c.job then
    ((s.modEntry h (fun e => { e with waiting := e.waiting.filter (fun x => x != c.job), binds := e.binds - 1 })).finish c.job stAborted, true)
  else (s, false)

/-- An ABORT reaches a patch before its placement (R270). -/
def State.abortPatch (s : State) (c : Cmd) : State × Bool :=
  match (s.part c.part).patches.find? (fun x => x.job == c.job) with
  | none => (s, false)
  | some x =>
    if x.phase != .staging then (s, false)
    else
      let s1 := ((s.unstage c.part x).modPart c.part (fun y => { y with patches := y.patches.filter (fun z => z.job != c.job) })).finish
        c.job stAborted
      let s2 := s1.patchShow x 0 false
      (x.retire.foldl (fun (s : State) j => s.retireNow c.part x.set j) s2, true)

/-- An ABORT reaches a RETIRE_BASE that waits for a patch. -/
def State.abortRetire (s : State) (c : Cmd) : State × Bool :=
  ((s.modPart c.part (fun y => { y with patches := y.patches.map (fun z => { z with retire := z.retire.filter (fun x => x != c.job) }) })).finish c.job
    stAborted, true)

/-- End a target that is not committed: the state after, and whether the ABORT took effect. -/
def State.abortTarget (s : State) (c : Cmd) : State × Bool :=
  if c.phase == .final || c.op = 0x20 then (s, false)
  else if isJobOp c.op then (s.abortJob c, true)
  else if c.phase == .accepted then (s.finish c.job stAborted, true)
  else if c.op = 0x03 then s.abortCommit c
  else if c.op = 0x11 then s.abortPatch c
  else if c.op = 0x12 then s.abortRetire c
  else if c.op = 0x18 then
    if s.vault.deferred.contains (.register c.job) then (s, false) else (s.failReg c.job stAborted, true)
  else if c.op = 0x19 then s.abortBind c
  else if c.op = 0x1A then s.abortEvict c
  else (s.finish c.job stAborted, true)

/-- Count an ABORT that ends with ST_ALREADY_DONE. -/
def State.abortLate (s : State) (j : JobRef) : State :=
  { s with host := { s.host with abortLate := bump s.host.freeze s.host.abortLate } }.finish j stAlreadyDone

/-- ABORT (Table 13.12). -/
def execAbort (j : JobRef) (s : State) : Host.Outcome State Fault Refusal :=
  .next <| match s.due j 0x20 with
  | none => s
  | some c =>
    let t : JobRef := ⟨j.fn, c.param 0x20 4⟩
    match s.cmd t with
    | some d =>
      let s1 := s.modCmd j (fun c => { c with after := if t = j then none else some t })
      let r := s1.abortTarget d
      if r.2 then r.1.finish j stOk else r.1.abortLate j
    | none =>
      if (s.queue j.fn (bitsOf t.job 16 6)).done.contains t.job then s.abortLate j
      else (s.staleDrop t.job 0x124).finish j stStale

/-! ### FENCE (R494) -/

/-- FENCE: completes when every command accepted before it from its scope has completed. -/
def execFence (j : JobRef) (s : State) : Host.Outcome State Fault Refusal :=
  .next <| match s.due j 0x21 with
  | none => s
  | some c =>
    if s.host.cmds.any (fun d => d.job.fn == j.fn && decide (d.order < c.order) && d.phase != .final &&
        (c.param 0x20 1 == 1 || d.q == c.q)) then s
    else s.finish j stOk

/-! ### SCRUB (R389, R493) -/

/-- SCRUB of a context: its shares when resident, its image when swapped out. -/
def execScrubContext (j : JobRef) (s : State) : Host.Outcome State Fault Refusal :=
  .next <| match s.due j 0x22 with
  | none => s
  | some c =>
    let i := c.param 0x22 2
    if c.param 0x20 1 ≠ 0 then s
    else if (s.part c.part).ctxCount ≤ i then s.finish j stAborted 0x23
    else if s.act c.part i ≠ 0 then s.finish j stSlotBusy
    else match ((s.part c.part).ctxs.getD i {}).res with
      | .resident => (s.scrubCtx c.part i).finish j stOk
      | .swapped => (s.modPart c.part (fun x => { x with ctxs := x.ctxs.modify i (fun y => { y with image := none }) })).finish j stOk
      | _ => s.finish j stSlotBusy

/-- The owner a SCRUB's TARGET names. -/
def targetAttr (t : Nat) : PageAttr := if bitOf t 15 then { valid := true, shared := true } else { valid := true, domain := bitsOf t 0 12 }

/-- The stripes of a SCRUB: the first, or none where they do not lie in the general region below `limit`. -/
def State.scrubStripes (s : State) (c : Cmd) (limit : Nat) : Option Nat :=
  let lq := c.param 0x21 1
  let b := s.stripeBytes c.part lq
  let off := c.param 0x28 8
  if (s.part c.part).quads.length ≤ lq || b = 0 || off % b != 0 || limit < off / b + c.param 0x24 4 then none else some (off / b)

/-- A TARGET that names a closed or foreign domain ends the command (R282). -/
def State.scrubDomainOk (s : State) (c : Cmd) : Bool := bitOf (c.param 0x22 2) 15 || s.domainOk c.part (bitsOf (c.param 0x22 2) 0 12)

/-- SCRUB with op ALLOC. -/
def execScrubAlloc (j : JobRef) (s : State) : Host.Outcome State Fault Refusal :=
  .next <| match s.due j 0x22 with
  | none => s
  | some c =>
    let lq := c.param 0x21 1
    let n := c.param 0x24 4
    if c.param 0x20 1 ≠ 1 then s
    else if !s.scrubDomainOk c then (s.domainFault c.part j.job 0xFFFFFFFF 0x7).finish j stDomainFault
    else match s.scrubStripes c (s.generalStripes c.part lq) with
      | none => s.finish j stAborted 0x23
      | some k =>
        if (List.range n).all (fun i => s.stripeFree c.part lq 4 (k + i)) then
          (s.setStripes c.part lq 4 k n (targetAttr (c.param 0x22 2))).finish j stOk
        else s.finish j stSlotBusy

/-- SCRUB with op FREE. -/
def execScrubFree (j : JobRef) (s : State) : Host.Outcome State Fault Refusal :=
  .next <| match s.due j 0x22 with
  | none => s
  | some c =>
    let lq := c.param 0x21 1
    let n := c.param 0x24 4
    if c.param 0x20 1 ≠ 2 then s
    else if !s.scrubDomainOk c then (s.domainFault c.part j.job 0xFFFFFFFF 0x7).finish j stDomainFault
    else match s.scrubStripes c (s.generalStripes c.part lq) with
      | none => s.finish j stAborted 0x23
      | some k =>
        let a := targetAttr (c.param 0x22 2)
        if (s.stripePages c.part lq 4 k n).all (fun x => mget {} (s.stack x.1).pages (x.2.1 * 576 + x.2.2) == a) then
          (s.dropStripes c.part lq 4 k n).finish j stOk
        else s.finish j stDomainFault

/-! ### QUERY (R493) -/

/-- STATE code of a handle (Table 8.1). -/
def HState.code : HState → Nat
  | .free => 0
  | .registering => 1
  | .resident => 2
  | .offloaded => 3
  | .loading => 4
  | .evicting => 5
  | .retiring => 6

/-- PAR_ADIR_ENTRY, BINDS, STEP and TRAIN of an entry (R321, R322, R365). -/
def DirEntry.words (e : DirEntry) : List Nat :=
  [e.state.code * 2 ^ 28 + e.epoch * 2 ^ 24 + b2n e.baseRetired * 2 ^ 23 + b2n e.trainable * 2 ^ 22 + b2n e.offloadOk * 2 ^ 21 +
      b2n e.forced * 2 ^ 20 + (if e.state = .free then 0 else e.part % 256 * 256) + min 0xFF e.jobs,
    e.binds,
    if e.trainable then e.step else 0,
    if e.trainable then b2n e.slot.isSome * 2 ^ 31 + e.live * 2 ^ 30 + e.slot.getD 0 else 0]

/-- A handle as a partition sees it: another's reads as FREE (R283). -/
def State.entryFor (s : State) (p h : Nat) : DirEntry := if (s.entry h).part = p then s.entry h else {}

/-- STATE code of a partition (Table 10.13). -/
def PState.code : PState → Nat
  | .free => 0
  | .active => 1
  | .disabling => 2
  | .disabled => 3
  | .destroying => 4

/-- PAR_VF_STATUS (Table 10.15). -/
def Part.vfStatus (x : Part) : Nat :=
  x.state.code * 2 ^ 29 + x.mode * 2 ^ 28 + x.s * 2 ^ 23 + x.resv * 2 ^ 18 + x.prioMax * 2 ^ 15 + x.ctxCount

/-- Write a QUERY's answer. -/
def State.answerQuery (s : State) (c : Cmd) (bs : List Byte) : State :=
  if c.param 0x24 4 < bs.length then s.finish c.job stAborted 0x23
  else if !s.hostOk (c.param 0x28 8) bs.length then s.finish c.job stAborted 0x51
  else ((s.hostWrite (c.param 0x28 8) bs).finish c.job stOk).modCmd c.job (fun c => { c with res0 := bs.length })

/-- QUERY with op SEED. -/
def execQuerySeed (j : JobRef) (s : State) : Host.Outcome State Fault Refusal :=
  .next <| match s.due j 0x23 with
  | none => s
  | some c =>
    if c.param 0x20 1 ≠ 1 then s
    else
      let e := s.entryFor c.part (c.param 0x22 2)
      s.answerQuery c ((List.range (manTensors e.manifestBytes)).flatMap (fun i => leBytes 4 (e.seeds.getD i 0)))

/-- QUERY with op HANDLE. -/
def execQueryHandle (j : JobRef) (s : State) : Host.Outcome State Fault Refusal :=
  .next <| match s.due j 0x23 with
  | none => s
  | some c =>
    if c.param 0x20 1 ≠ 2 then s
    else s.answerQuery c ((s.entryFor c.part (c.param 0x22 2)).words.flatMap (leBytes 4))

/-- Free stripes of a partition's general region in a logical quadrant. -/
def State.freeStripes (s : State) (p lq : Nat) : Nat :=
  if (s.part p).quads.length ≤ lq then 0
  else ((List.range (s.generalStripes p lq)).filter (fun k => s.stripeFree p lq 4 k)).length

/-- QUERY with op PARTITION. -/
def execQueryPartition (j : JobRef) (s : State) : Host.Outcome State Fault Refusal :=
  .next <| match s.due j 0x23 with
  | none => s
  | some c =>
    if c.param 0x20 1 ≠ 3 then s
    else s.answerQuery c (leBytes 4 (s.part c.part).vfStatus ++ (List.range 8).flatMap (fun lq => leBytes 4 (s.freeStripes c.part lq)))

end Sys2Proof.Machine
end

