-- ==== Sys2Proof/Machine/Operands.lean ====
section
/-! DEFINITION. The operands of a slice: its job rows and their readers (R298, R300, R624), the lines it
reads with the redirection of the head buffer (R251), their tag and error checks (R149, R209), adapter
segments (R153), and writes of rows and byte ranges into a share space (R196, R197). -/

namespace Sys2Proof.Machine

/-! ### Share-space bytes -/

/-- Write bytes at byte `x` of a share space with the writer's metadata; also the clearing writes made. -/
def putBytes (m : Map Line) (shares : List Nat) (x : Nat) (bs : List Byte) (kind : LineKind) (tag poison : Nat) : Map Line × Nat :=
  (lineStarts x bs.length).foldl (fun (a : Map Line × Nat) l =>
    match shareLine shares l with
    | none => a
    | some pl =>
      let lo := max l x
      let hi := min (l + 64) (x + bs.length)
      let w := (mget clearLine a.1 pl).write (byteMask (lo - l) (hi - lo))
        (BitVec.ofNat 512 (leNat ((bs.drop (lo - x)).take (hi - lo)) * 2 ^ ((lo - l) * 8))) kind tag poison
      (mset clearLine a.1 pl w.line, a.2 + b2n w.cleared)) (m, 0)

/-- Write bytes into a tile, counting clearing writes. -/
def Tile.putBytes (t : Tile) (shares : List Nat) (x : Nat) (bs : List Byte) (kind : LineKind) (tag poison : Nat) : Tile :=
  let r := Machine.putBytes t.scratch.lines shares x bs kind tag poison
  { t with scratch := { t.scratch with lines := r.1, partialClear := bump t.scratch.freeze t.scratch.partialClear r.2 } }

/-- Bytes of a share space, as a read sees them. -/
def getBytes (m : Map Line) (shares : List Nat) (x n : Nat) : List Byte :=
  let a := x % 64
  slice ((lineStarts x n).flatMap (fun l => (lineAt m shares l).bytes)) a n

/-- Poison causes of some rows joined to others. -/
def joinCauses (a b : Map Nat) : Map Nat := b.foldl (fun m e => mset 0 m e.1 (joinCause (mget 0 m e.1) e.2)) a

/-! ### Rows of a slice (R298, R624) -/

/-- What a slice runs for: command, row group size and group, and the layout. -/
structure SliceOf where
  cmd : Cmd
  set : CfgSet
  rowGroup : Nat
  group : Nat
  deriving DecidableEq, Repr

/-- Job row at place `x` of the row group; none for a padding row. -/
def SliceOf.jobRow (o : SliceOf) (x : Nat) : Option Nat :=
  let n := o.group * o.rowGroup + x
  if x < o.rowGroup && n < o.cmd.rows.length then some n else none

/-- The resolved row at a place. -/
def SliceOf.row (o : SliceOf) (x : Nat) : Option Row := (o.jobRow x).bind (fun n => o.cmd.rows[n]?)

/-- The reader at a place: a void or padding row reads as void. -/
def SliceOf.reader (o : SliceOf) (x : Nat) : Reader :=
  match o.row x with
  | some r => if r.void then .void else .row r.word
  | none => .void

/-- What a running slice runs for. -/
def State.sliceOf (s : State) (p : Nat) (tl : TileId) (j : TJob) : Option SliceOf := do
  let c ← s.cmd j.job
  let set ← (s.part p).set? j.set
  let l ← (s.part p).logical tl
  let q ← set.seqFor j.plan l
  some ⟨c, set, max 1 q.rowGroup, j.rowGroup⟩

/-! ### Lines read (R149, R251) -/

/-- The byte a read reaches (R251). -/
def redirectTo (r : Option (Nat × Nat × Nat)) (x : Nat) : Nat :=
  match r with
  | some (base, len, shift) => if base ≤ x && x < base + len then x + shift else x
  | none => x

/-- The lines of n elements of `w` bits of a plane from element ix, with their scale entries. -/
def planeLines (p : PlaneRef) (w : Nat) (block : Bool) (ix n : Nat) : List Nat :=
  if n = 0 then []
  else lineStarts (p.off + ix * w / 8) (ceilDiv (ix * w % 8 + n * w) 8) ++
    (if block then lineStarts (p.scaleOff + ix / 32 * 4) (((ix + n - 1) / 32 - ix / 32 + 1) * 4) else [])

/-- Does the slice's correction phase read segments and low-rank vectors (R152, R155)? -/
def TileCfg.corrects (c : TileCfg) : Bool := c.fused && intMode c.mode && c.outDst != 6
/-- Does the slice read its B operand from segments (R151)? -/
def TileCfg.gathersB (c : TileCfg) : Bool := c.fused && inRange 5 8 c.mode

/-- Lines read for row r, with the static scale entries of its outputs. -/
def aLines (c : TileCfg) (lay : SliceLayout) (nOut r : Nat) : List Nat :=
  let w := fmtBits (aFmt c.mode)
  let blk := blockFmt (aFmt c.mode)
  (if c.aSrc = 1 then (List.range c.k).flatMap (fun k => planeLines lay.a w blk (planeIndex lay.a k r) 1)
   else planeLines lay.a w blk (planeIndex lay.a r 0) c.k) ++
  (if c.outlierEn then lineStarts (lay.aOutlier + r * nOut * 2) (nOut * 2) else []) ++
  (if c.corrects then lineStarts (lay.lowRank + r * c.rank * 2) (c.rank * 2) else []) ++
  (if bitOf c.outFormat 4 && blockFmt (c.outFormat % 16) && c.outDst != 6 then
    lineStarts (lay.out.scaleOff + planeIndex lay.out r 0 / 32 * 4) (ceilDiv c.n 32 * 4) else [])

/-- Lines of the B operand. -/
def bLines (c : TileCfg) (lay : SliceLayout) (nOut sideLen : Nat) : List Nat :=
  let w := fmtBits (bFmt c.mode)
  let blk := blockFmt (bFmt c.mode)
  (if c.gathersB then []
   else if c.bSrc = 1 then (List.range c.k).flatMap (fun k => planeLines lay.b w blk (planeIndex lay.b k 0) c.n)
   else (List.range c.n).flatMap (fun j => planeLines lay.b w blk (planeIndex lay.b j 0) c.k)) ++
  (if c.outlierEn then lineStarts lay.bOutlier (nOut * c.n * 2) else []) ++
  (if c.escapeEn then lineStarts lay.side (sideLen * 2) else [])

/-- The poison cause of a reader over the lines it reads. -/
def readCause (m : Map Line) (shares : List Nat) (red : Option (Nat × Nat × Nat)) (rd : Reader) (xs : List Nat) : Nat :=
  xs.foldl (fun a x => joinCause a (readLine rd false (lineAt m shares (redirectTo red x))).cause) 0

/-- Domains of the DOMAIN lines that hold an uncorrectable word: their rows are poisoned (R209). -/
def markedDomains (m : Map Line) (shares : List Nat) (red : Option (Nat × Nat × Nat)) (xs : List Nat) : List Nat :=
  xs.filterMap (fun x =>
    let l := lineAt m shares (redirectTo red x)
    if l.kind == .domain && l.marks ≠ 0 then some l.domain else none)

/-- Does a SHARED line among these hold an uncorrectable word: every row of the slice is poisoned (R209, R257). -/
def markedShared (m : Map Line) (shares : List Nat) (red : Option (Nat × Nat × Nat)) (xs : List Nat) : Bool :=
  xs.any (fun x =>
    let l := lineAt m shares (redirectTo red x)
    l.kind == .shared && l.marks != 0)

/-! ### Adapter segments (R153 to R155, R317) -/

/-- The segment a row needs: its word, the adapter tensor, and the range of output columns or contraction indices
that the slice reads. -/
def State.segNeed (s : State) (cfg : TileCfg) (lay : SliceLayout) (r : Option Row) : Option SegKey :=
  match r with
  | none => none
  | some r =>
    if r.void || !r.adapter || !(cfg.corrects || cfg.gathersB) then none
    else
      let m := (s.entry (bitsOf r.word 4 16)).manifestBytes
      ((manTensorList m).find? (fun t => t.base == cfg.tensor)).map (fun t =>
        if cfg.corrects then ⟨r.word, t.idB, lay.n0, cfg.n, r.copy⟩ else ⟨r.word, t.idA, lay.k0, cfg.k, r.copy⟩)

/-- A held segment. -/
def TCtx.seg? (c : TCtx) (n : SegKey) : Option Segment := c.segs.find? (fun g => g.key == n)

/-- The segments a slice reads, in order of first appearance. -/
def State.segsOf (s : State) (cfg : TileCfg) (lay : SliceLayout) (o : SliceOf) : List SegKey :=
  ((List.range cfg.m).filterMap (fun r => s.segNeed cfg lay (o.row (lay.rowBase + r)))).eraseDups

/-- Poison cause of a row's segment: another word, or an uncorrectable word in it (R154, R209). -/
def Segment.cause (g : Segment) (w : Nat) : Nat :=
  g.lines.foldl (fun a l => joinCause a (readLine (.row w) true l).cause) 0

/-- Lines and shares that hold segment i beside the context's shares. -/
def segLines (base : Nat) (g : Segment) : Map Line :=
  g.lines.zipIdx.map (fun x => (base * shareLines + x.2, x.1))

/-! ### The layout against the frames (log entry 20) -/

/-- Does a slice continue the open chain (R144)? -/
def Chain.same (c : Chain) (f : TileCfg) : Bool :=
  c.m == f.m && c.n == f.n && c.mode == f.mode && c.group == f.group && c.outlier == f.outlierEn && c.escape == f.escapeEn && c.fused == f.fused

/-- Do these numbers rise? -/
def rising : List Nat → Bool
  | a :: b :: l => decide (a < b) && rising (b :: l)
  | _ => true

/-- Does a layout agree with the slice's frame, its row group, its tensor's shape and the open chain it continues
(R41)? -/
def layoutFits (o : SliceOf) (cfg : TileCfg) (lay : SliceLayout) (chain : Option Chain) : Bool :=
  (lay.inRows ++ lay.outRows).all (fun mv => decide (mv.row < o.rowGroup)) && lay.gates.all (fun g => decide (g.row < o.rowGroup)) &&
  (cfg.mode == 0 ||
    (decide (lay.rowBase < o.rowGroup) && rising lay.outCols && lay.outCols.all (fun j => decide (j < cfg.n)) &&
      (cfg.outlierEn || lay.outCols.isEmpty) &&
      (match o.set.tensors.find? (fun t => t.id == cfg.tensor) with
        | some t => decide (lay.k0 + cfg.k ≤ t.k) && (cfg.gathersB || decide (lay.n0 + cfg.n ≤ t.n))
        | none => true) &&
      (match chain with
        | some c => !c.same cfg || (lay.rowBase == c.rowBase && lay.k0 == c.nextK && lay.n0 == c.n0)
        | none => true)))

/-! ### Results -/

/-- Pack codes of `w` bits, lowest first, into bytes. -/
def packCodes (w : Nat) (cs : List Nat) : List Byte :=
  leBytes (ceilDiv (cs.length * w) 8) ((cs.zipIdx).foldl (fun a x => a + x.1 % 2 ^ w * 2 ^ (x.2 * w)) 0)

/-- The metadata of what a row writes. -/
def Reader.kindTag (r : Reader) : LineKind × Nat := r.meta

end Sys2Proof.Machine
end

