-- ==== Sys2Proof/Machine/Slice.lean ====
section
/-! DEFINITION. Slices: configuration slots and their fills (R73 to R76), the start of a slice (R36, R144,
R149), and the boundary at which it retires (R38) with its results, its job's position, its ring and its
completion. -/

namespace Sys2Proof.Machine

/-! ### Selection (R36, R376) -/

/-- A selected slice: context, job position, configuration and slot. -/
structure Pick where
  ctx : Nat
  job : TJob
  cfg : TileCfg
  slot : Nat
  deriving DecidableEq, Repr

/-- Order of selection: priority, earliest last start, lowest resident slot (R376). -/
def ctxBefore (a b : Ctx × Option Nat) : Bool :=
  decide (b.1.prio < a.1.prio) || (a.1.prio == b.1.prio &&
    (match a.2, b.2 with
      | none, none => decide (a.1.slot ≤ b.1.slot)
      | none, some _ => true
      | some _, none => false
      | some x, some y => decide (x < y) || (x == y && decide (a.1.slot ≤ b.1.slot))))

/-- The contexts of a tile in selection order. -/
def State.ctxOrder (s : State) (p : Nat) (tl : TileId) : List Nat :=
  let part := s.part p
  let key (i : Nat) : Ctx × Option Nat := (part.ctxs.getD i {}, (mget {} (s.tile tl).ctxs i).lastStart)
  sortBy (fun a b => ctxBefore (key a) (key b)) (List.range part.ctxs.length)

/-- The slice that the tile selects, given where its operands lie: its segments are present (R155). -/
def State.pick (s : State) (p : Nat) (tl : TileId) (lay : SliceLayout) : Option Pick :=
  (s.ctxOrder p tl).findSome? (fun i =>
    match couldStart s (s.part p) tl i with
    | none => none
    | some r =>
      match s.sliceOf p tl r.1 with
      | none => none
      | some o =>
        let tc := mget {} (s.tile tl).ctxs i
        if layoutFits o r.2.1 lay tc.chain && (s.segsOf r.2.1 lay o).all (fun n => (tc.seg? n).isSome) then
          some ⟨i, r.1, r.2.1, r.2.2⟩ else none)

/-! ### Configuration slots (R73 to R77) -/

/-- The position after one more slice; none when the plan is finished. -/
def TJob.advance (j : TJob) (q : SeqCfg) : Option TJob :=
  let rep := (q.steps[j.step]?.map SeqStep.rep).getD 1
  if j.rep + 1 < rep then some { j with rep := j.rep + 1 }
  else if j.step + 1 < q.steps.length then some { j with rep := 0, step := j.step + 1 }
  else if j.rowGroup + 1 < j.groups then some { j with rep := 0, step := 0, rowGroup := j.rowGroup + 1 }
  else none

/-- The backward pass that follows a finished forward pass in a logical tile. -/
def Cmd.nextPass (c : Cmd) (set : CfgSet) (j : TJob) (l : Nat) : Option TJob :=
  if c.op = 0x02 && !j.backward then
    (set.seqFor (c.param 0x23 1) l).map (fun q => { j with
      plan := c.param 0x23 1, backward := true, rowGroup := 0, step := 0, rep := 0, groups := ceilDiv c.nRows (max 1 q.rowGroup) })
  else none

/-- The position of the slice that follows a job's slice in a logical tile; none after its last. -/
def State.afterSlice (s : State) (p l : Nat) (j : TJob) : Option TJob := do
  let set ← (s.part p).set? j.set
  let q ← set.seqFor j.plan l
  match j.advance q with
  | some j' => some j'
  | none => (s.cmd j.job).bind (fun c => c.nextPass set j l)

/-- The position of a context's next slice in a tile: that after its running slice, else its job's (R75). -/
def State.nextPos (s : State) (p l : Nat) (tl : TileId) (i : Nat) : Option TJob :=
  let tc := mget {} (s.tile tl).ctxs i
  match tc.jobs with
  | [] => none
  | j :: rest =>
    if (s.tile tl).running.any (fun r => r.ctx == i && r.job == j.job) then (s.afterSlice p l j).orElse (fun _ => rest.head?)
    else some j

/-- The configuration that a context's next slice names in a tile, with its set. -/
def State.nextNamed (s : State) (p : Nat) (tl : TileId) (i : Nat) : Option (Nat × Nat) := do
  let part := s.part p
  let c ← part.ctxs[i]?
  let l ← part.logical tl
  let j ← s.nextPos p l tl i
  let cfg ← nextCfg part l j
  if c.res = .resident then some (j.set, cfg.id) else none

/-- The slot to fill: eligible, an empty one first, then the least recently used (R75). A slot that holds one of
`keep` stays. -/
def State.victimSlot (s : State) (p : Nat) (tl : TileId) (keep : List (Nat × Nat) := []) : Option Nat :=
  let t := s.tile tl
  let named := keep ++ (List.range (s.part p).ctxs.length).filterMap (fun i => s.nextNamed p tl i)
  let used := (t.running.map Running.slot).toList ++ (t.switching.map Switching.slot).toList
  let el := (t.slots.zipIdx).filter (fun x => !used.contains x.2 && !x.1.filling && !(x.1.valid && named.contains (x.1.set, x.1.id)))
  match el.find? (fun x => !x.1.valid) with
  | some x => some x.2
  | none => (minBy (fun a b => decide (a.1.lastUse ≤ b.1.lastUse)) el).map Prod.snd

/-- SLOT_FILL_START: the fill that the first waiting context needs. -/
def execSlotFillStart (tl : TileId) (set id : Nat) (s : State) : Host.Outcome State Fault Refusal :=
  .next <| match s.ownerOf tl with
  | none => s
  | some p =>
    let t := s.tile tl
    if t.slots.any CfgSlot.filling then s
    else match (s.ctxOrder p tl).findSome? (fun i => (s.nextNamed p tl i).bind (fun n =>
        if t.slots.any (fun k => k.valid && k.set == n.1 && k.id == n.2) then none else some n)) with
      | none => s
      | some n =>
        if n ≠ (set, id) then s
        else match s.victimSlot p tl with
          | none => s
          | some k => s.modTile tl (fun t => { t with slots := t.slots.modify k (fun _ => { set := set, id := id, valid := false, filling := true }) })

/-- SLOT_FILL_DONE: the configuration lies complete in its slot. -/
def execSlotFillDone (tl : TileId) (s : State) : Host.Outcome State Fault Refusal :=
  .next <|
    let t := s.tile tl
    if !t.slots.any CfgSlot.filling then s
    else
      let s1 := s.modTile tl (fun t => { t with
        slots := t.slots.map (fun k => if k.filling then { k with filling := false, valid := true } else k)
        fills := t.fills + 1 })
      match s.ownerOf tl with
      | some p => (s1.retireSweep p).resched p
      | none => s1

/-! ### The end of a restore (R382, R385, R387) -/

/-- One live configuration of a GR2-compatible image is filled again where no slot holds it, into a slot of R75 that
holds none of them (R387). -/
def State.refillOne (s : State) (p : Nat) (tl : TileId) (live : List (Nat × Nat)) (n : Nat × Nat) : State :=
  if (s.tile tl).slots.any (fun k => k.set == n.1 && k.id == n.2 && (k.valid || k.filling)) || ((s.part p).set? n.1).isNone then s
  else match s.victimSlot p tl live with
    | some k => s.modTile tl (fun t => { t with
        slots := t.slots.modify k (fun _ => { set := n.1, id := n.2, valid := true }), fills := t.fills + 1 })
    | none => s

/-- The live configurations that a GR2-compatible image lists for a tile are filled again. -/
def State.refillLive (s : State) (p : Nat) (tl : TileId) (live : List (Nat × Nat)) : State :=
  live.foldl (fun (s : State) n => s.refillOne p tl live n) s

/-- A priority written during the switch applies (R385). -/
def Ctx.applyPrio (c : Ctx) : Ctx := { c with prio := c.prioNext.getD c.prio, prioNext := none }

/-- CONTEXT_RESTORE_DONE (R382, R385, R387): the candidate is RESIDENT. A GR2-compatible restore scrubs
the slot's shares first, and its live configurations are refilled. A priority written during the switch applies. -/
def execContextRestoreDone (p : Nat) (s : State) : Host.Outcome State Fault Refusal :=
  .next <| match (s.part p).switch with
    | some ⟨c, _, k, .restoring⟩ =>
      let part := s.part p
      let img := (((part.ctxs[c]?).map Ctx.image).getD none).getD {}
      let shares := slotShares part.s k
      let s1 := part.tiles.zipIdx.foldl (fun s x =>
        s.modTile x.1 (fun t =>
          let t1 := shares.zipIdx.foldl (fun t y => s.restoreShare t y.1 (mget {} img.shares (16 * x.2 + y.2))) t
          s.restoreTctx t1 c img x.2 shares)) s
      let s2 := s1.modPart p (fun x => { x with
        switch := none
        ctxs := (x.ctxs.modify c (fun y => { y with res := .resident, slot := k })).map Ctx.applyPrio })
      let s3 := part.tiles.zipIdx.foldl (fun (s : State) x => s.refillLive p x.1 (mget [] img.live x.2)) s2
      let n := if part.mode = 1 then part.s * part.tiles.length else 0
      State.resched (p := p) { s3 with par := { s3.par with scrubs := bump s3.par.freeze s3.par.scrubs n } }
    | _ => s

/-! ### Start (R36, R144, R147, R149, R251) -/

/-- The head fill of a job's ring with its entry, when the configuration consumes it. -/
def headFill (p : Part) (r : Option Ring) (j : JobRef) (cfg : TileCfg) : Option (Ring × Fill × PlanEntry) :=
  match r with
  | none => none
  | some r =>
    match r.fills with
    | [] => none
    | f :: _ =>
      match (p.set? r.set).bind (fun c => c.entries[f.entry]?) with
      | some e => if r.job = j && e.consumer == cfg.id then some (r, f, e) else none
      | none => none

/-- The running slice that a pick becomes. -/
def State.runOf (s : State) (p : Nat) (tl : TileId) (k : Pick) (lay : SliceLayout) (us : List Upset) : Running :=
  let part := s.part p
  let ring := (mget {} (s.tile tl).ctxs k.ctx).ring
  let h := headFill part ring k.job.job k.cfg
  { ctx := k.ctx, job := k.job.job, slot := k.slot, cfg := k.cfg, lay := lay, upsets := us
    consumer := h.isSome
    layer := ringLayer part ring k.job.job
    redirect := h.map (fun x => (x.1.base, x.1.bufLines * 64, x.2.1.num % max 1 x.1.nbuf * (x.1.bufLines * 64))) }

/-- Lay the row inputs of a slice into the share space (R298, R490). -/
def Tile.inputs (t : Tile) (shares : List Nat) (o : SliceOf) (lay : SliceLayout) : Tile :=
  lay.inRows.foldl (fun (t : Tile) mv =>
    match o.jobRow mv.row, o.row mv.row with
    | some x, some r =>
      if r.void then t.putBytes shares mv.at_ (List.replicate mv.len 0) .clear 0 0
      else t.putBytes shares mv.at_ (slice (mget [] o.cmd.inputs x) mv.off mv.len) .row r.word 0
    | _, _ => t.putBytes shares mv.at_ (List.replicate mv.len 0) .clear 0 0) t

/-- Is an extra-expert position absent to a row: the row's adapter does not hold it (R292)? -/
def State.expertAbsent (s : State) (p : Nat) (base : Digest) (r : Row) (g : GateRef) : Bool :=
  let e := s.entry (bitsOf r.word 4 16)
  !(r.adapter && e.part == p && e.base == base && e.experts.contains (g.layer, g.expert))

/-- The gate input of each position that a row sees as absent is minus infinity (R292).

DESIGN CHOICE (log entry 75): the layout names the elements, and the device puts the value there before the slice reads
them, in the formats that have it. -/
def Tile.gateInputs (t : Tile) (shares : List Nat) (o : SliceOf) (absent : Row → GateRef → Bool) (gs : List GateRef) : Tile :=
  gs.foldl (fun (t : Tile) g =>
    match o.row g.row, fmtOf g.fmt with
    | some r, some f =>
      if r.void || !absent r g then t else t.putBytes shares g.at_ (leBytes (f.width / 8) (f.inf true)) .row r.word 0
    | _, _ => t) t

/-- Tile register entries that one output takes (R143). -/
def perOutput (f : TileCfg) : Nat := if f.outlierEn || f.escapeEn then 2 else 1

/-- The poison causes of a slice's rows at its start: carried by the chain, by its tags, by operand and
segment reads, and by tile register words (R144 to R149, R209). -/
def State.startCauses (s : State) (tl : TileId) (run : Running) (o : SliceOf) (shares : List Nat) (chained : Bool) : Map Nat :=
  let t := s.tile tl
  let tc := mget {} t.ctxs run.ctx
  let cfg := run.cfg
  let m := t.scratch.lines
  let nOut := (mget [] o.set.outliers cfg.tensor).length
  let side := (privLenOf s.glb.cfg o.set.file.base cfg.tensor).getD 0
  let bs := (bLines cfg run.lay nOut side).eraseDups
  let part0 := shares.headD 0
  let words (r : Nat) : Nat := match o.reader (run.lay.rowBase + r) with
    | .row w => w
    | _ => 0
  let badTreg := run.upsets.filter (fun u => decide (24576 ≤ u.line) && (match eccRead 0 false u.mask with
    | .uncorrectable _ => true
    | _ => false))
  let as := (List.range cfg.m).map (fun r => (aLines cfg run.lay nOut r).eraseDups)
  let live (r : Nat) : Bool := match o.reader (run.lay.rowBase + r) with
    | .row _ => true
    | _ => false
  let all := bs ++ (as.zipIdx).flatMap (fun x => if live x.2 then x.1 else [])
  let doms := markedDomains m shares run.redirect all
  let sh := markedShared m shares run.redirect all
  (List.range cfg.m).foldl (fun (acc : Map Nat) r =>
    let rd := o.reader (run.lay.rowBase + r)
    let carried := if chained then match tc.chain with
        | some ch => mget 0 ch.poisoned r
        | none => 0
      else 0
    let tag := match rd, chained with
      | .row w, true => if mget (0, 0) t.tags (64 * part0 + r) = (3, w) then 0 else 1
      | _, _ => 0
    let rows := readCause m shares run.redirect rd (as.getD r [])
    let b := readCause m shares run.redirect rd bs
    let dm := match rd with
      | .row w => if sh || doms.contains (bitsOf w 20 12) then 2 else 0
      | _ => 0
    let sg := match (s.segNeed cfg run.lay (o.row (run.lay.rowBase + r))).bind tc.seg? with
      | some g => g.cause (words r)
      | none => 0
    let tr := if chained && badTreg.any (fun u =>
        [2 * (u.line - 24576), 2 * (u.line - 24576) + 1].any (fun e =>
          decide (part0 * 256 ≤ e) && (e - part0 * 256) / max 1 (perOutput cfg * cfg.n) == r)) then 2 else 0
    mset 0 acc r ([carried, tag, rows, b, dm, sg, tr].foldl joinCause 0)) []

/-- Row reads served by a shared or kept segment (Table 4.5). -/
def State.coalesced (s : State) (tc : TCtx) (run : Running) (o : SliceOf) : Nat :=
  ((List.range run.cfg.m).foldl (fun (a : Nat × List SegKey) r =>
    match s.segNeed run.cfg run.lay (o.row (run.lay.rowBase + r)) with
    | none => a
    | some n =>
      let kept := ((tc.seg? n).map Segment.used).getD false
      (a.1 + b2n (kept || a.2.contains n), n :: a.2)) (0, [])).1

/-- An upset of pair `u.line - 24576` of tile register entries, read when a chain is continued (R142). -/
def State.tregUpset (s : State) (p : Nat) (tl : TileId) (job : Nat) (u : Upset) : State :=
  if u.line < 24576 then s
  else
    let e := 2 * (u.line - 24576)
    let ent (x : Nat) : Nat := (mget 0 (s.tile tl).treg x).toNat
    let put (d : Nat) : State := s.modTile tl (fun t => { t with
      treg := mset 0 (mset 0 t.treg e (BitVec.ofNat 32 d)) (e + 1) (BitVec.ofNat 32 (d / 2 ^ 32)) })
    match eccRead (ent e + ent (e + 1) * 2 ^ 32) false u.mask with
    | .clean d => put d
    | .corrected d => (put d).noteCe (.tile tl) 3 p
    | .uncorrectable _ => s.noteUe (.tile tl) 3 p job (u.line - 24576)

/-- Rows of the slice, each with its cause, are poisoned. -/
def State.poisonRows (s : State) (tl : TileId) (run : Running) (o : SliceOf) (bad : List (Nat × Nat)) : State :=
  bad.foldl (fun (s : State) e => match o.jobRow (run.lay.rowBase + e.1) with
    | some x => s.poisonRow tl run.job x e.2
    | none => s) s

/-- A slice begins: inputs, upsets, checks, chain and segments. -/
def State.beginRun (s : State) (p : Nat) (tl : TileId) (run : Running) : State :=
  let part := s.part p
  let shares := slotShares part.s (part.ctxs.getD run.ctx {}).slot
  let tc0 := mget {} (s.tile tl).ctxs run.ctx
  match tc0.jobs.find? (fun j => j.job == run.job) with
  | none => s
  | some tj =>
    match s.sliceOf p tl tj with
    | none => s
    | some o =>
      let nOut := (mget [] o.set.outliers run.cfg.tensor).length
      let side := (privLenOf s.glb.cfg o.set.file.base run.cfg.tensor).getD 0
      let rows := (List.range run.cfg.m).filter (fun r => ((o.row (run.lay.rowBase + r)).map Row.void) == some false)
      let read := if run.cfg.mode = 0 then [] else
        ((bLines run.cfg run.lay nOut side ++ rows.flatMap (fun r => aLines run.cfg run.lay nOut r)).filterMap
          (fun x => shareLine shares (redirectTo run.redirect x))).eraseDups
      let s1 := (s.modTile tl (fun t =>
        (t.inputs shares o run.lay).gateInputs shares o (s.expertAbsent p o.set.file.base) run.lay.gates)).tileMarks tl p run.job.job read
      let s2 := s1.tileUpsets tl p run.job.job run.upsets
      let s3 := run.upsets.foldl (fun (s : State) u => s.tregUpset p tl run.job.job u) s2
      let same := match tc0.chain with
        | some ch => ch.same run.cfg
        | none => false
      let broken := tc0.chain.isSome && !same
      let causes := s3.startCauses tl run o shares same
      let bad := causes.filter (fun e => ((o.row (run.lay.rowBase + e.1)).map Row.void) == some false)
      let s5 := s3.poisonRows tl run o bad
      let segs := s.segsOf run.cfg run.lay o
      let co := s.coalesced tc0 run o
      s5.modTile tl (fun t => { t with
        running := some { run with poison := causes, chained := same }
        switching := none
        stalled := false
        stallRem := 0
        current := some run.slot
        starts := t.starts + 1
        slots := t.slots.modify run.slot (fun k => { k with lastUse := t.starts + 1 })
        mx := { t.mx with
          chainBreak := bump t.mx.freeze t.mx.chainBreak (b2n broken)
          poison := bump t.mx.freeze t.mx.poison bad.length
          coalesced := bump t.mx.freeze t.mx.coalesced co }
        ctxs := mmod {} t.ctxs run.ctx (fun c => { c with
          lastStart := some (t.starts + 1)
          chain := if broken then none else c.chain
          segs := if segs.isEmpty then c.segs else (c.segs.filter (fun g => !g.used || segs.contains g.key)).map
            (fun g => if segs.contains g.key then { g with used := true } else g) }) })

/-- Count the idle and fill-wait cycles that ended at the selection (R85, R156). -/
def State.countWaits (s : State) (tl : TileId) (idle fillWait : Nat) : State :=
  s.modTile tl (fun t => { t with
    mx := { t.mx with idle := bump t.mx.freeze t.mx.idle idle }
    fillWait := t.fillWait + BitVec.ofNat 32 fillWait })

/-- Does a selection made while a slot switch runs stand: a slice of higher priority abandons the switch (R38,
Table 1.7). -/
def State.preempts (s : State) (p : Nat) (sw : Option Switching) (ctx : Nat) : Bool :=
  match sw with
  | none => true
  | some w => decide (((s.part p).ctxs.getD w.next.ctx {}).prio < ((s.part p).ctxs.getD ctx {}).prio)

/-- SLICE_START: the tile selects a slice; it starts, or its slot switch begins. A slice of higher priority that
wins during a switch abandons it (R38, Table 1.7).

DESIGN CHOICE (log entry 44): a tile whose slots have run no slice since reset, a start or a scrub has no slot 'just
used', and its first slice takes a slot switch (R38, R76). -/
def execSliceStart (tl : TileId) (lay : SliceLayout) (idle fillWait : Nat) (upsets : List Upset) (s : State) :
    Host.Outcome State Fault Refusal :=
  .next <| match s.ownerOf tl with
  | none => s
  | some p =>
    let t := s.tile tl
    if t.running.isSome then s
    else match s.pick p tl lay with
      | none => s
      | some k =>
        if !s.preempts p t.switching k.ctx then s
        else
          let s1 := s.countWaits tl idle fillWait
          let run := s1.runOf p tl k lay upsets
          if t.current = some k.slot then (s1.beginRun p tl run).resched p
          else (s1.modTile tl (fun t => { t with switching := some ⟨k.slot, run⟩, stalled := false, stallRem := 0 })).resched p

/-- SLOT_SWITCH_DONE: the 32 cycles end and the selected slice starts (R76, R85).

DESIGN CHOICE (log entry 50): TILE_CFG_SWITCHES counts completed switches; an abandoned one is not counted. -/
def execSlotSwitchDone (tl : TileId) (s : State) : Host.Outcome State Fault Refusal :=
  .next <| match s.ownerOf tl, (s.tile tl).switching with
  | some p, some w => ((s.modTile tl (fun t => { t with switches := t.switches + 1 })).beginRun p tl w.next).resched p
  | _, _ => s

/-! ### Results of a slice -/

/-- The share space as the array reads it: the head buffer in place, then the segments (R251, R153). -/
def arrayView (m : Map Line) (shares : List Nat) (red : Option (Nat × Nat × Nat)) (segs : List Segment) : Map Line :=
  let v := match red with
    | some (base, len, shift) => if shift = 0 then m else (lineStarts base len).foldl (fun (a : Map Line) x =>
        match shareLine shares x with
        | some pl => mset clearLine a pl (lineAt m shares (x + shift))
        | none => a) m
    | none => m
  v ++ (segs.zipIdx.flatMap (fun g => segLines (16 + g.2) g.1))

/-- The readers of a slice's rows; none for a padding row. -/
def SliceOf.rowReaders (o : SliceOf) (lay : SliceLayout) (m : Nat) : List (Option Reader) :=
  (List.range m).map (fun r => (o.row (lay.rowBase + r)).map (fun _ => o.reader (lay.rowBase + r)))

/-- The inputs of a slice's array. -/
def State.mxIn (s : State) (tl : TileId) (run : Running) (o : SliceOf) (shares : List Nat) : MxIn :=
  let t := s.tile tl
  let tc := mget {} t.ctxs run.ctx
  let cfg := run.cfg
  let need := s.segsOf cfg run.lay o
  let segs := need.filterMap tc.seg?
  let base := shares.headD 0 * 256
  let per := perOutput cfg
  let ent (i : Nat) : Nat := (mget 0 t.treg (base + i)).toNat
  { cfg := cfg, lay := run.lay
    lines := arrayView t.scratch.lines shares run.redirect segs
    shares := shares ++ (List.range segs.length).map (fun i => 16 + i)
    outliers := mget [] o.set.outliers cfg.tensor
    sideLen := if cfg.escapeEn then (privLenOf s.glb.cfg o.set.file.base cfg.tensor).getD 0 else 0
    segs := (List.range cfg.m).map (fun r => (s.segNeed cfg run.lay (o.row (run.lay.rowBase + r))).bind (fun n =>
      (need.idxOf? n).map (fun i => (shares.length + i) * shareBytes)))
    accs := if run.chained then (List.range (cfg.m * cfg.n)).map (fun i => ent (per * i)) else []
    sides := if run.chained && per = 2 then (List.range (cfg.m * cfg.n)).map (fun i => ent (per * i + 1)) else []
    readers := o.rowReaders run.lay cfg.m }

/-- A row's results: zero where it is poisoned, void or padding. -/
def rowResults (n : Nat) (live : Bool) (row : List MxCell) : List Nat :=
  if live then row.map MxCell.res else List.replicate n 0

/-- One drained row on its way to a route: its job row, codes, scale entries and outlier elements, and the columns
that saturated. -/
structure Drained where
  r : Nat
  row : Option Nat
  reader : Reader
  cause : Nat
  codes : List Byte
  entries : List Nat
  outliers : List Nat
  flags : Nat
  sats : List Nat
  deriving DecidableEq, Repr

/-- The format of the elements that a slice's route takes: route 0x7 adds F32 or H16 (R133). -/
def routeFmt (cfg : TileCfg) : Nat := if cfg.outDst = 7 then (if outFmt cfg.outFormat = 4 then 4 else 8) else cfg.outFormat

/-- The columns of a slice's output that go to an outlier plane: those of a frame with OUTLIER_EN (§3.6.1). -/
def outColsOf (run : Running) : List Nat := if run.cfg.outlierEn then run.lay.outCols else []

/-- Drain the rows of a slice through the quantise stage (R100, R112, R150); static scale entries stand in `m`. A
chain slice has no quantise stage: its accumulators alone can saturate. -/
def drainRows (m : Map Line) (shares : List Nat) (run : Running) (o : SliceOf) (out : MxOut) : List Drained :=
  let cfg := run.cfg
  (List.range cfg.m).filterMap (fun r =>
    let row := out.rows.getD r []
    match o.row (run.lay.rowBase + r) with
    | none => none
    | some jr =>
      let cause := mget 0 run.poison r
      let live := !jr.void && cause == 0
      let xs := rowResults cfg.n live row
      let ix := planeIndex run.lay.out r 0
      let q : OutRow := if cfg.outDst = 6 then ⟨[], [], [], 0, []⟩ else
        outRow (routeFmt cfg) (fun b => elemAt m shares (run.lay.out.scaleOff + (ix / 32 + b) * 4) 32) (outColsOf run) xs
      let cells := if live then row else []
      some { r := r
             row := o.jobRow (run.lay.rowBase + r)
             reader := if jr.void then .void else .row jr.word
             cause := cause
             codes := packCodes (fmtBits (outFmt (routeFmt cfg))) (if jr.void then q.codes.map (fun _ => 0) else q.codes)
             entries := if jr.void then q.entries.map (fun _ => 0) else q.entries
             outliers := q.outliers
             flags := if live then q.flags ||| cells.foldl (fun a c => a ||| c.flags) 0 else 0
             sats := if live then ((List.range cfg.n).filter (fun j =>
               ((cells[j]?).any (fun c => bitOf c.flags 4)) || q.sats.getD j false)) else [] })

/-- Byte of a drained row in its output plane. -/
def outByte (run : Running) (r : Nat) : Nat :=
  run.lay.out.off + planeIndex run.lay.out r 0 * fmtBits (outFmt (routeFmt run.cfg)) / 8

/-- Byte of the outlier elements of a drained row. -/
def outlierByte (run : Running) (r : Nat) : Nat := run.lay.outOutlier + r * (outColsOf run).length * 2

/-- The byte strings that a drained row lays down: its codes, its dynamic scale entries, its outlier elements. -/
def Drained.pieces (d : Drained) (run : Running) : List (Nat × List Byte) :=
  let ix := planeIndex run.lay.out d.r 0
  [(outByte run d.r, d.codes)] ++
  (if bitOf run.cfg.outFormat 4 || d.entries.isEmpty then []
    else [(run.lay.out.scaleOff + ix / 32 * 4, d.entries.flatMap (fun e => leBytes 4 e))]) ++
  (if d.outliers.isEmpty then [] else [(outlierByte run d.r, d.outliers.flatMap (leBytes 2))])

/-- Poison cause of the lines that a byte string covers only in part (R198). -/
def touchCause (m : Map Line) (shares : List Nat) (x n : Nat) : Nat :=
  (lineStarts x n).foldl (fun a l =>
    if x ≤ l && l + 64 ≤ x + n then a else joinCause a (storedAt m shares l).poison) 0

/-- Poison causes of the rows whose drained outputs touch a poisoned line of the scratchpad. -/
def drainCauses (m : Map Line) (shares : List Nat) (run : Running) (rows : List Drained) : Map Nat :=
  if run.cfg.outDst ≠ 0 then [] else
  rows.foldl (fun (a : Map Nat) d =>
    if d.reader = .void then a
    else mset 0 a d.r ((d.pieces run).foldl (fun c x => joinCause c (touchCause m shares x.1 x.2.length)) 0)) []

/-- Write drained rows into the scratchpad (route 0x0). -/
def drainHere (m : Map Line) (shares : List Nat) (run : Running) (rows : List Drained) : Map Line × Nat :=
  rows.foldl (fun (a : Map Line × Nat) d =>
    let km := d.reader.meta
    (d.pieces run).foldl (fun (a : Map Line × Nat) x =>
      let w := putBytes a.1 shares x.1 x.2 km.1 km.2 d.cause
      (w.1, a.2 + w.2)) a) (m, 0)

/-- The staged lines of a byte string for a route (R132). -/
def stageBytes (x : Nat) (bs : List Byte) (kind : LineKind) (tag poison : Nat) (atomic row : Option Nat) : List StagedLine :=
  (lineStarts x bs.length).map (fun l =>
    let lo := max l x
    let hi := min (l + 64) (x + bs.length)
    { line := l / 64, mask := byteMask (lo - l) (hi - lo), atomic := atomic, row := row
      body := { data := BitVec.ofNat 512 (leNat ((bs.drop (lo - x)).take (hi - lo)) * 2 ^ ((lo - l) * 8)), kind := kind, tag := tag, poison := poison } })

/-- SIGNAL adds of a chain: route and byte (R167). -/
def signalsOf : List UOp → Map Window → List (Nat × Nat)
  | [], _ => []
  | u :: us, w =>
    if u.opcode = 0x01 then signalsOf us (mput u.dst (wsetWindow u) w)
    else if u.opcode = 0x04 then
      (bitsOf u.imm 0 4, (mget ⟨0, 0, 0, 0⟩ w u.dst).base + 4 * bitsOf u.imm 4 6) :: signalsOf us w
    else signalsOf us w

/-- What a slice leaves for the network port: outputs, then the SIGNAL adds of each route. -/
def stagedOf (run : Running) (rows : List Drained) : List Staged :=
  let outs : List Staged := if netRoute run.cfg.outDst then
      [⟨run.cfg.outDst, run.job, rows.flatMap (fun d =>
        let km := d.reader.meta
        (d.pieces run).flatMap (fun x => stageBytes (run.lay.dest + x.1) x.2 km.1 km.2 d.cause
          (if run.cfg.outDst = 7 then some (if outFmt run.cfg.outFormat = 4 then 2 else 1) else none)
          (if d.reader = .void then none else d.row)))⟩]
    else []
  outs ++ (signalsOf run.cfg.uops []).map (fun x => ⟨x.1, run.job, stageBytes x.2 (leBytes 4 1) .shared 0 0 (some 0) none⟩)

/-- Store a chain in the tile register (R143).

DESIGN CHOICE (log entry 51): output (r, j) has the place r × N + j of the part's entries, its accumulator first and
its side sum after it. -/
def Tile.openChain (t : Tile) (run : Running) (o : SliceOf) (shares : List Nat) (out : MxOut) : Tile :=
  let cfg := run.cfg
  let part0 := shares.headD 0
  let per := perOutput cfg
  let cell (r j : Nat) : MxCell := if mget 0 run.poison r ≠ 0 then ⟨0, 0, 0, 0, 0⟩ else (out.rows.getD r []).getD j ⟨0, 0, 0, 0, 0⟩
  let treg := (List.range cfg.m).foldl (fun (m : Map Word32) r => (List.range cfg.n).foldl (fun (m : Map Word32) j =>
    let e := part0 * 256 + per * (r * cfg.n + j)
    let m1 := mset 0 m e (BitVec.ofNat 32 (cell r j).acc)
    if per = 2 then mset 0 m1 (e + 1) (BitVec.ofNat 32 (cell r j).side) else m1) m) t.treg
  let tags := (List.range cfg.m).foldl (fun (m : Map (Nat × Nat)) r =>
    mset (0, 0) m (64 * part0 + r) (match o.reader (run.lay.rowBase + r) with
      | .row w => (3, w)
      | _ => (0, 0))) t.tags
  let ch : Chain := ⟨run.job, cfg.m, cfg.n, cfg.mode, cfg.group, cfg.outlierEn, cfg.escapeEn, cfg.fused, run.lay.rowBase,
    run.lay.k0 + cfg.k, run.lay.n0, run.poison⟩
  { t with
    treg := treg
    tags := tags
    ctxs := mmod {} t.ctxs run.ctx (fun c => { c with chain := some ch }) }

/-- Run a slice's work: products, chain, drain, with all that its results raise. -/
def State.runSlice (s : State) (p : Nat) (tl : TileId) (run : Running) (o : SliceOf) : State :=
  let part := s.part p
  let t := s.tile tl
  let cfg := run.cfg
  let shares := slotShares part.s (part.ctxs.getD run.ctx {}).slot
  let i := s.mxIn tl run o shares
  let arr : MxOut := if cfg.mode = 0 then ⟨[], 0⟩ else mxSlice i
  let env : VEnv := { shares := shares
                      readers := (List.range 64).map (fun r => o.reader (run.lay.rowBase + r))
                      serve := run.lay.serve, test := false, escapeEn := cfg.escapeEn, sideLen := i.sideLen, treg := t.treg, redirect := run.redirect }
  let parts := if cfg.mode = 0 then ([], cfg.uops) else splitChain cfg.uops
  let v1 := VState.run env { lines := t.scratch.lines } parts.1
  -- rows poisoned so far: at the start, in the pre-part, and by the poisoned lines that the drain touches
  let run1 := { run with poison := joinCauses run.poison v1.poisoned }
  let drain (x : Running) : List Drained := if cfg.mode = 0 then [] else drainRows v1.lines shares x o arr
  let run2 := { run1 with poison := joinCauses run1.poison (drainCauses v1.lines shares run1 (drain run1)) }
  let rows := drain run2
  let dr := if cfg.outDst = 0 then drainHere v1.lines shares run2 rows else (v1.lines, 0)
  let v2 := VState.run env { v1 with lines := dr.1 } parts.2
  let run3 := { run2 with poison := joinCauses run2.poison v2.poisoned }
  let drops := ((arr.rows.zipIdx.filter (fun x => (i.readers.getD x.2 none).isSome)).flatMap (·.1)).map MxCell.drops |>.sum
  let fl := rows.foldl (fun a d => a ||| d.flags) v2.flags ||| (if arr.escFaults = 0 && drops = 0 then 0 else flInvalid)
  let newBad := run3.poison.filter (fun e => mget 0 run.poison e.1 == 0 && ((o.row (run.lay.rowBase + e.1)).map Row.void) == some false)
  let s1 := s.modTile tl (fun t =>
    let t1 := { t with
      scratch := { t.scratch with lines := v2.lines, partialClear := bump t.scratch.freeze t.scratch.partialClear (dr.2 + v2.cleared) }
      escFaults := t.escFaults + BitVec.ofNat 32 (arr.escFaults + v2.escFaults)
      mx := { t.mx with
        slices := bump t.mx.freeze t.mx.slices
        busy := bump t.mx.freeze t.mx.busy cfg.cycles
        compute := bump t.mx.freeze t.mx.compute (if cfg.mode = 0 then 0 else computeLen cfg.mode cfg.k)
        poison := bump t.mx.freeze t.mx.poison newBad.length
        sideDrop := bump t.mx.freeze t.mx.sideDrop drops }
      vxu := { t.vxu with
        uops := bump t.vxu.freeze t.vxu.uops v2.uops
        busy := bump t.vxu.freeze t.vxu.busy v2.busy
        invalid := bump t.vxu.freeze t.vxu.invalid v2.invalidUops
        sat := bump t.vxu.freeze t.vxu.sat v2.satUops } }
    let t2 := if cfg.mode ≠ 0 && cfg.outDst = 6 then t1.openChain run3 o shares arr
      else { t1 with ctxs := mmod {} t1.ctxs run.ctx (fun c => { c with chain := none }) }
    let t3 := t2.orFlags run.ctx fl
    { t3 with ctxs := mmod {} t3.ctxs run.ctx (fun c => { c with staged := c.staged ++ stagedOf run2 rows }) })
  let s2 := s1.poisonRows tl run o newBad
  let s3 := v2.ue.foldl (fun (s : State) x => s.tileUe tl p run.job.job x.1 x.2) s2
  let s4 := if v2.ue.isEmpty then s3 else s3.modCmd run.job (fun c => { c with reached := true })
  -- one element counts once per slice (R112, log entry 52)
  s4.satCount tl.q p cfg (rows.flatMap (fun (d : Drained) => d.sats.map (fun j => (0, d.r, j))) ++ v2.sats).eraseDups.length

/-- One row output is copied to the command; its lines may poison the row. -/
def State.takeOutput (s : State) (tl : TileId) (run : Running) (o : SliceOf) (shares : List Nat) (mv : RowMove) : State :=
  match o.jobRow mv.row, o.row mv.row with
  | some x, some r =>
    if r.void then s
    else
      let m := (s.tile tl).scratch.lines
      let ls := lineStarts mv.at_ mv.len
      let cause := readCause m shares none (.row r.word) ls
      let s := s.tileMarks tl ((s.ownerOf tl).getD 0xFF) run.job.job (ls.filterMap (shareLine shares))
      let bs := if cause = 0 then getBytes m shares mv.at_ mv.len else List.replicate mv.len 0
      (if cause = 0 then s else s.poisonRow tl run.job x cause).modCmd run.job
        (fun c => { c with outs := mmod [] c.outs x (fun old => overlay old mv.off bs) })
  | _, _ => s

/-- Take the row outputs that a slice completes (R490). -/
def State.takeOutputs (s : State) (p : Nat) (tl : TileId) (run : Running) (o : SliceOf) : State :=
  let part := s.part p
  let shares := slotShares part.s (part.ctxs.getD run.ctx {}).slot
  run.lay.outRows.foldl (fun (s : State) mv => s.takeOutput tl run o shares mv) s

/-! ### The job's position, ring and completion (R38, R250, R254, R335, R624) -/

/-- Release the head buffer once its consumer slices have retired. -/
def TCtx.ringStep (c : TCtx) (part : Part) (run : Running) (train : Bool) : TCtx :=
  match c.ring with
  | none => c
  | some r =>
    if !run.consumer then c
    else match r.fills with
      | [] => c
      | f :: fs =>
        match (part.set? r.set).bind (fun x => x.entries[f.entry]?) with
        | none => c
        | some e =>
          if r.used + 1 < e.perBuf then { c with ring := some { r with used := r.used + 1 } }
          else
            let set := part.set? r.set
            let layerOf (g : Fill) : Option Nat := (set.bind (fun x => x.entries[g.entry]?)).map PlanEntry.layer
            let last := (fs ++ r.next).all (fun g => layerOf g != some e.layer)
            { c with
              ring := some { r with fills := fs, used := 0 }
              jobs := c.jobs.map (fun j =>
                if j.job ≠ run.job || !train || !last then j
                else if j.backward then { j with bwdDone := j.bwdDone ++ [e.layer] }
                else { j with captures := j.captures ++ [e.layer] }) }

/-- Offer a post to a quadrant's collector: accepted into a free entry, or held (R525). -/
def State.offerPost (s : State) (q : Nat) (x : Post) : State :=
  let c := (s.quad q).cc
  if c.entries.length < Config.collectorEntries && c.held.isEmpty then
    s.modQuad q (fun k => { k with cc := { k.cc with entries := insertBy Post.le x k.cc.entries } })
  else (s.modQuad q (fun k => { k with cc := { k.cc with held := insertBy Post.le x k.cc.held } })).fireHeld q [x]

/-- A job's slices of a tile are all retired: it posts (R38, R174). -/
def State.postJob (s : State) (p : Nat) (tl : TileId) (ctx : Nat) (j : TJob) : State :=
  let vf := (mget {} (s.tile tl).ctxs ctx).vflags
  let s1 := s.modTile tl (fun t => { t with ctxs := mmod {} t.ctxs ctx (fun c => { c with
    vflags := 0
    jobs := c.jobs.filter (fun x => x.job != j.job)
    ring := c.ring.filter (fun r => r.job != j.job)
    dying := c.dying ++ ((c.ring.filter (fun r => r.job == j.job)).bind Ring.leave).toList }) })
  (s1.nextRing p tl ctx).offerPost tl.q ⟨s.now, tileSource tl, j.job, 0, vf, j.stall⟩

/-- Move the job on by the slice that retired. -/
def State.advanceJob (s : State) (p : Nat) (tl : TileId) (run : Running) (o : SliceOf) (tj : TJob) : State :=
  let part := s.part p
  match part.logical tl with
  | none => s
  | some l =>
    let s1 := (s.modTile tl (fun t => { t with ctxs := mmod {} t.ctxs run.ctx (fun c => c.ringStep part run (o.cmd.op == 0x02)) })).nextRing
      p tl run.ctx
    let cur := ((mget {} (s1.tile tl).ctxs run.ctx).jobs.find? (fun j => j.job == run.job)).getD tj
    let put (j : TJob) : State := s1.modTile tl (fun t => { t with ctxs := mmod {} t.ctxs run.ctx (fun c => { c with
      jobs := c.jobs.map (fun x => if x.job = run.job then j else x) }) })
    match (o.set.seqFor cur.plan l).bind (fun q => cur.advance q) with
    | some j => put j
    | none =>
      match o.cmd.nextPass o.set cur l with
      | some j =>
        -- the backward pass has a ring of its own, or leaves the tile to the next job's (R254)
        match o.set.ring run.job j.plan l with
        | some r => (put j).modTile tl (fun t => { t with ctxs := mmod {} t.ctxs run.ctx (fun c => { c with ring := some r }) })
        | none => (put j).nextRing p tl run.ctx
      | none => s1.postJob p tl run.ctx cur

/-- Aborted jobs leave the tile (R38); a job that has left every tile ends. -/
def State.dropAborted (s : State) (p : Nat) (tl : TileId) : State :=
  let js := s.host.cmds.filter (fun c => c.part == p && (c.aborted || c.stopped) && c.phase != .final &&
    (mget {} (s.tile tl).ctxs c.ctx).jobs.any (fun j => j.job == c.job))
  js.foldl (fun (s : State) c =>
    let s1 := s.leaveTile p tl c.ctx c.job
    if s1.jobGone p c.ctx c.job then s1.fixJob c.job else s1) s

/-- SLICE_BOUNDARY: the running slice retires and the actions of Table 1.7 follow in order. -/
def execSliceBoundary (tl : TileId) (s : State) : Host.Outcome State Fault Refusal :=
  .next <| match s.ownerOf tl, (s.tile tl).running with
  | some p, some run =>
    match (mget {} (s.tile tl).ctxs run.ctx).jobs.find? (fun j => j.job == run.job) with
    | none => ((s.modTile tl (fun t => { t with running := none })).retireSweep p).resched p
    | some tj =>
      match s.sliceOf p tl tj with
      | none => ((s.modTile tl (fun t => { t with running := none })).retireSweep p).resched p
      | some o =>
        let s1 := (s.runSlice p tl run o).takeOutputs p tl run o
        let s2 := ((s1.clearClosed p tl).modTile tl (fun t => { t with running := none })).advanceJob p tl run o tj
        ((s2.dropAborted p tl).retireSweep p).resched p
  | _, _ => s

end Sys2Proof.Machine
end

