-- ==== Sys2Proof/Machine/TileMem.lean ====
section
/-! DEFINITION. Accesses to the scratchpads, the Quadrant Buffer and the stacks: bank writes and atomics
(R200, R204), staged outputs (R132, R167), adapter segments (R155), way requests (R214 to R217), stack
requests (R219 to R228), zero-fills and the patrol scrub (R211, R229, R230), and the VXU test port (R186 to
R190). -/

namespace Sys2Proof.Machine

/-! ### Bank atomics (R204) -/

/-- One element of an add. -/
def atomicElem (op a b : Nat) : Nat :=
  match op with
  | 0 => (a + b) % 2 ^ 32
  | 1 => (f32Add a b).bits
  | _ => (fH16.addV (fH16.decode a) (fH16.decode b)).bits

/-- The data an atomic leaves: adds under the byte mask, or the word swapped (Table 6.4). -/
def atomicData (op mask : Nat) (old data : BitVec 512) : BitVec 512 :=
  if op = 3 then
    let dm := dataMask mask
    (old &&& ~~~dm) ||| (data &&& dm)
  else
    let w := if op = 2 then 16 else 32
    BitVec.ofNat 512 ((List.range (512 / w)).foldl (fun a i =>
      let x := bitsOf old.toNat (i * w) w
      a + (if mask.testBit (i * w / 8) then atomicElem op x (bitsOf data.toNat (i * w) w) else x) * 2 ^ (i * w)) 0)

/-- A line after an atomic: its metadata is kept. A word that SWAP.64 replaces is no poison marker any more; a sum
over an uncorrectable word stays one (R204, R207). -/
def Line.atomic (l : Line) (op mask : Nat) (data : BitVec 512) : Line :=
  { l with data := atomicData op mask l.data data, marks := if op = 3 then marksAfter l.marks mask else l.marks }

/-- The words of a line that an atomic reads. -/
def atomicWords (mask : Nat) : List Nat := (List.range 8).filter (fun i => bitsOf mask (8 * i) 8 != 0)

/-- The first word that a mask selects. -/
def maskWord (mask : Nat) : Nat := ((List.range 8).find? (fun i => bitsOf mask (8 * i) 8 != 0)).getD 0

/-- Write or add to a line of a tile. -/
def Tile.bankWrite (t : Tile) (line mask : Nat) (data : BitVec 512) (kind : LineKind) (tag poison : Nat) (atomic : Option Nat) : Tile :=
  let old := mget clearLine t.scratch.lines line
  match atomic with
  | some op => { t with scratch := { t.scratch with
      lines := mset clearLine t.scratch.lines line (old.atomic op mask data), atomics := bump t.scratch.freeze t.scratch.atomics } }
  | none =>
    let w := old.write mask data kind tag poison
    { t with scratch := { t.scratch with
        lines := mset clearLine t.scratch.lines line w.line, partialClear := bump t.scratch.freeze t.scratch.partialClear (b2n w.cleared) } }

/-- The port of a request's code: bit 0 clear network, set DMA. -/
def portOf (n : Nat) : Port := if n % 2 = 1 then .dma else .network

/-- Do two writes touch one word? -/
def sameWord (la ma lb mb : Nat) : Bool :=
  la == lb && (List.range 8).any (fun i => bitsOf ma (8 * i) 8 != 0 && bitsOf mb (8 * i) 8 != 0)

/-- A network write loses to a waiting DMA write of one of its words (R200, R201). -/
def Scratch.behindDma (x : Scratch) (p : Port) (line mask : Nat) : Bool :=
  p == .network && x.lost.any (fun w => w.port == .dma && sameWord w.line w.mask line mask)

/-- The words of a line that an atomic reads as poison markers: each is an uncorrectable read (R209). -/
def State.atomicMarks (s : State) (tl : TileId) (part line mask : Nat) : State :=
  (atomicWords mask).foldl (fun (s : State) w =>
    if (mget clearLine (s.tile tl).scratch.lines line).marks.testBit w then s.tileUe tl part 0 line w else s) s

/-- A write or atomic takes effect in its bank; SWAP.64 answers the old word. -/
def State.bankDo (s : State) (tl : TileId) (w : LostWrite) : State :=
  let part := (s.ownerOf tl).getD 0xFF
  let s0 := if w.atomic.isSome then s.atomicMarks tl part w.line w.mask else s
  let old := (mget clearLine (s0.tile tl).scratch.lines w.line).get (64 * maskWord w.mask) 64
  let s1 := s0.modTile tl (fun t => t.bankWrite w.line w.mask w.data w.kind w.tag w.poison w.atomic)
  let s2 := if w.atomic = some 3 then { s1 with reply := .data old } else s1
  match s2.ownerOf tl with
  | some q => s2.resched q
  | none => s2

/-- The bank of a line's first word; a line lies in eight banks of one mode group (R195, R210). -/
def lineBanks (line : Nat) : List Nat := (List.range 8).map (fun i => (line * 8 + i) % 32)

/-- The mode of a bank (Table 6.6): while the device enters, holds or leaves L2, the banks that are On are in retention (R583). -/
def State.bankMode (s : State) (tl : TileId) (b : Nat) : BankMode :=
  match mget .on (s.tile tl).scratch.banks b with
  | .on => if s.clk.pm == .entering || s.clk.pm == .l2 || s.clk.pm == .exiting then .retention else .on
  | m => m

/-- May a port reach a line: only in banks that are On (R210, Table 6.6). -/
def State.bankReached (s : State) (tl : TileId) (line : Nat) : Bool := (lineBanks line).all (fun b => s.bankMode tl b == .on)

/-- BANK_ATOMIC: a write or atomic reaches a bank. Bit 2 of `port` says that the VXU writes a word of it in the same
cycle. A write that loses receives COLLIDE and waits for its retry; one behind a waiting write of its port waits
too, so that a port's writes keep their order (R200, R201). -/
def execBankAtomic (tl : TileId) (port : Nat) (req : LineReq) (upsets : List Upset) (s : State) : Host.Outcome State Fault Refusal :=
  .next <|
    let x := (s.tile tl).scratch
    if 24576 ≤ req.line || !s.bankReached tl req.line then s
    else
      let p := portOf port
      let w : LostWrite := ⟨p, req.line, req.mask, req.data, LineKind.ofCode req.kind, req.tag, req.poison, req.atomic⟩
      let lose : State := s.modTile tl (fun t => { t with scratch := { t.scratch with lost := t.scratch.lost ++ [w] } })
      if bitOf port 2 || x.behindDma p req.line req.mask then lose.collide tl
      else if x.lost.any (fun w => w.port == p) then lose
      else (s.tileUpsets tl ((s.ownerOf tl).getD 0xFF) 0 upsets).bankDo tl w

/-- Take the first waiting write of a port out of the list. -/
def dropLost (p : Port) : List LostWrite → List LostWrite
  | [] => []
  | w :: ws => if w.port = p then ws else w :: dropLost p ws

/-- COLLIDE_RETRY: a port's oldest waiting write tries again, and loses again while a port of higher priority writes
one of its words: the VXU (`lose`), or a waiting DMA write before a network write (R200, R201). -/
def execCollideRetry (tl : TileId) (port : Nat) (lose : Bool) (s : State) : Host.Outcome State Fault Refusal :=
  .next <|
    let x := (s.tile tl).scratch
    let p := portOf port
    match x.lost.find? (fun w => w.port == p) with
    | none => s
    | some w =>
      if lose || x.behindDma p w.line w.mask then s.collide tl
      else (s.modTile tl (fun t => { t with scratch := { t.scratch with lost := dropLost p t.scratch.lost } })).bankDo tl w

/-! ### Buffer space and staged outputs (R132, R167, R215, R375) -/

/-- The neighbour of a tile on a network route, inside its quadrant. -/
def neighbour (tl : TileId) (route : Nat) : Option TileId :=
  let n := Config.meshNeighbour tl.t route
  if n < 32 then some ⟨tl.q, n⟩ else none

/-- An add to a line of a way: the way counts it. -/
def State.wayAtomic (s : State) (q key op mask : Nat) (data : BitVec 512) : State :=
  s.modQuad q (fun k => { k with qb := { k.qb with
    lines := mset clearLine k.qb.lines key ((mget clearLine k.qb.lines key).atomic op mask data)
    atomics := bump k.qb.freeze k.qb.atomics } })

/-- The slot whose gradient buffer a route-0x7 add of a tile falls in, with the place of that line: the add's offset
is a line of the slot's line space, whichever quadrant the tile is in (R331, R333). -/
def State.gradLine (s : State) (p line : Nat) : Option (TrSlot × Option (Nat × Nat)) :=
  (List.range 16).findSome? (fun k =>
    let t := s.slot p k
    let ps := s.gabParts p t.gradFmt t.list
    if t.state != .clean && t.gabOff ≤ line && line < t.gabOff + gabTotal ps then
      some (t, (gabLine ps (line - t.gabOff)).map (fun x => (x.1, t.gabOff + x.2)))
    else none)

/-- A route-0x7 add of a context: in a gradient buffer it goes to the quadrant that holds its line and must be of
the kind of GRAD_FMT (R333); elsewhere it goes to the tile's own quadrant's buffer space (R215, R375). -/
def State.sendAdd (s : State) (p : Nat) (tl : TileId) (ctx : Nat) (j : JobRef) (x : StagedLine) : State :=
  let part := s.part p
  let win := part.ctxs.getD ctx {}
  let op := x.atomic.getD 1
  match (if op = 0 then none else s.gradLine p x.line) with
  | some (t, some (lq, ln)) =>
    if op ≠ (if t.gradFmt = 0 then 1 else 2) then s.failJob j stAborted 0x23
    else match (if win.inWindow ln 1 then part.bufKey lq ln else none) with
      | some k => s.wayAtomic k.1 k.2 op x.mask x.body.data
      | none => s.rangeDrop tl (some j)
  | some (_, none) => s.rangeDrop tl (some j)
  | none =>
    match part.lqOf tl.q with
    | none => s
    | some lq =>
      match (if win.inWindow x.line 1 then part.bufKey lq x.line else none) with
      | some k => s.wayAtomic k.1 k.2 op x.mask x.body.data
      | none => s.rangeDrop tl (some j)

/-- Send one staged line of a context. A row whose output covers a poisoned line of the neighbour only in part is
poisoned (R198). -/
def State.sendLine (s : State) (p : Nat) (tl : TileId) (ctx route : Nat) (j : JobRef) (x : StagedLine) : State :=
  let part := s.part p
  if route = 7 then s.sendAdd p tl ctx j x
  else
    match neighbour tl route with
    | none => s
    | some nb =>
      if !part.tiles.contains nb then s
      else match shareLine (slotShares part.s (part.ctxs.getD ctx {}).slot) (x.line * 64) with
        | some pl =>
          let touched := if x.mask % 2 ^ 64 = fullMask then 0 else (mget clearLine (s.tile nb).scratch.lines pl).poison
          let s1 := match x.row with
            | some r => if touched = 0 then s else s.poisonRow nb j r touched
            | none => s
          s1.modTile nb (fun t => t.bankWrite pl x.mask x.body.data x.body.kind x.body.tag x.body.poison x.atomic)
        | none => s.rangeDrop tl (some j)

/-- STAGED_OUTPUT_SENT: the network port has sent the oldest staged outputs of the context. -/
def execStagedOutputSent (tl : TileId) (ctx : Nat) (s : State) : Host.Outcome State Fault Refusal :=
  .next <| match s.ownerOf tl, (mget {} (s.tile tl).ctxs ctx).staged with
  | some p, x :: xs =>
    let s1 := s.modTile tl (fun t => { t with ctxs := mmod {} t.ctxs ctx (fun c => { c with staged := xs }) })
    (x.lines.foldl (fun (s : State) l => s.sendLine p tl ctx x.route x.job l) s1).resched p
  | _, _ => s

/-! ### The CACHE ways (R216) -/

/-- Change logical quadrant `lq` of a partition. -/
def State.modPQuad (s : State) (p lq : Nat) (f : PQuad → PQuad) : State :=
  s.modPart p (fun x => { x with quads := x.quads.modify lq f })

/-- Is a line held in CACHE ways? -/
def Part.cached (x : Part) (lq region : Nat) : Bool := (region == 1 || region == 4) && !(x.quadAt lq).waysCache.isEmpty

/-- The line that a quadrant's CACHE ways hold for a stack line. -/
def PQuad.cacheHit (k : PQuad) (l : LineLoc) : Option CacheLine := k.cache.find? (fun c => c.pch == l.pch && c.line == l.line)

/-- Count a lookup. -/
def State.cacheCount (s : State) (q : Nat) (hit : Bool) : State :=
  s.modQuad q (fun q => { q with qb := { q.qb with
    hits := bump q.qb.freeze q.qb.hits (b2n hit), misses := bump q.qb.freeze q.qb.misses (b2n (!hit)) } })

/-- Hold a line in the CACHE ways, most recent: in the way that has it, in a free way of its set, or in place of the least
recently used line of the set, whose write-back is logged where it was written (R216, R231). -/
def State.cacheFill (s : State) (p lq : Nat) (l : LineLoc) (write : Bool) (body : Line) : State :=
  let k := (s.part p).quadAt lq
  let put (way : Nat) (dirty : Bool) (s : State) : State := s.modPQuad p lq (fun k => { k with
    cache := k.cache.filter (fun x => !(x.line % 32768 == l.line % 32768 && x.way == way)) ++ [⟨way, l.pch, l.line, dirty, body⟩] })
  match k.cacheHit l with
  | some c => put c.way (c.dirty || write) s
  | none =>
    let same := k.cache.filter (fun c => c.line % 32768 == l.line % 32768)
    match k.waysCache.find? (fun w => !(same.any (fun c => c.way == w))) with
    | some w => put w write s
    | none => match same.head? with
      | none => s
      | some v => put v.way write (if v.dirty then s.logPage k.pq v.pch (v.line / 32768) else s)

/-- One upset met by a read of a line in a CACHE way, whose words are plaintext with a code of their own. -/
def State.cacheUpset (a : State × Line) (q part job loc : Nat) (u : Upset) : State × Line :=
  match eccRead (a.2.word u.word) (u.word != 8 && a.2.marks.testBit u.word) u.mask with
  | .clean d => (a.1, a.2.setWord u.word d)
  | .corrected d => (a.1.noteCe (.buf q) 4 part, a.2.setWord u.word d)
  | .uncorrectable _ =>
    if u.word != 8 && a.2.marks.testBit u.word then a else (a.1.noteUe (.buf q) 4 part job loc, a.2.mark u.word)

/-- Read a line for a unit whose reads pass through the CACHE ways: a hit is answered from its way, whose uncorrectable
words count there; a miss reads the stack and fills a way (R216, R241). -/
def State.cacheRead (s : State) (p lq region : Nat) (l : LineLoc) (job : Nat) (us : List Upset) : State × Line :=
  let part := s.part p
  if !part.cached lq region then s.stackRead l p job us
  else
    let k := part.quadAt lq
    match k.cacheHit l with
    | some c =>
      let loc := c.way * 32768 + l.line % 32768
      let s1 := ((List.range 8).filter (fun w => c.body.marks.testBit w)).foldl (fun (s : State) _ => s.noteUe (.buf k.pq) 4 p job loc) (s.cacheCount k.pq true)
      let r := us.foldl (fun a u => State.cacheUpset a k.pq p job loc u) (s1, { s.pageLine l with marks := c.body.marks })
      (r.1.cacheFill p lq l false r.2, r.2)
    | none =>
      let r := (s.cacheCount k.pq false).stackRead l p job us
      (r.1.cacheFill p lq l false r.2, r.2)

/-- Write a line for such a unit: where the ways hold its region, the write stays in its way, and the page is logged when
the line is written back; the stack's copy is kept equal to it. -/
def State.cacheWrite (s : State) (p lq region : Nat) (l : LineLoc) (v : StackLine) : State :=
  let part := s.part p
  if !part.cached lq region then s.putLine l v
  else
    let k := part.quadAt lq
    let s1 := (s.modStack l.stack (fun st => { st with lines := mset {} st.lines l.lineKey { v with key := some (s.pageKey l) } })).cacheCount
      k.pq (k.cacheHit l).isSome
    s1.cacheFill p lq l true { s.pageLine l with data := v.data, marks := v.marks }

/-! ### Adapter segments (R153 to R155, R294, R310, R343) -/

/-- The fused configuration of a job that reads blocks of `len` columns or contraction indices of a tensor, and the
entry's place in the manifest. -/
def segmentCfg (m : List Byte) (cfgs : List TileCfg) (tensor len : Nat) : Option (TileCfg × Nat × Bool) :=
  match ((manTensorList m).zipIdx).find? (fun x => x.1.idA == tensor || x.1.idB == tensor) with
  | none => none
  | some x =>
    let isB := x.1.idB == tensor
    (cfgs.find? (fun c => c.tensor == x.1.base && (if isB then c.corrects && c.n == len else c.gathersB && c.k == len))).map (fun c => (c, x.2, isB))

/-- The byte ranges of a block within its factor's plane, RANK × N of the up-projection from column `col` or K × RANK of
the down-projection from row `col`, as (offset, bytes) (R151, R152). -/
def blockRanges (m : List Byte) (cfg : TileCfg) (i col : Nat) (isB : Bool) : List (Nat × Nat) :=
  if isB then (List.range cfg.rank).map (fun k => ((k * (manTensor m i).n + col) * 2, cfg.n * 2))
  else [(col * manRank m * 2, cfg.k * manRank m * 2)]

/-- A line's bytes, each with whether its word is uncorrectable. -/
def Line.marked (l : Line) : List (Byte × Bool) := l.bytes.zipIdx.map (fun x => (x.1, l.marks.testBit (x.2 / 8)))

/-- A line of a segment from bytes with their marks: a word with a marked byte is uncorrectable. -/
def segLine (word : Nat) (bs : List (Byte × Bool)) : Line :=
  { data := lineData (bs.map Prod.fst), kind := .row, tag := word
    marks := ((List.range 8).filter (fun w => ((bs.drop (8 * w)).take 8).any Prod.snd)).foldl (fun a w => a + 2 ^ w) 0 }

/-- Read the store lines of a byte range for MULE, through the CACHE ways (R294); `n` lines of the gather came before. -/
def State.gatherRange (a : State × List (Byte × Bool) × Nat) (p lq job off len : Nat) (us : List Upset) : State × List (Byte × Bool) × Nat :=
  let lo := off / 64 * 64
  let r := (List.range (ceilDiv (off + len) 64 - off / 64)).foldl (fun (a : State × List (Byte × Bool) × Nat) i =>
    match a.1.pma p lq 1 (lo + 64 * i) with
    | none => (a.1, a.2.1 ++ clearLine.marked, a.2.2 + 1)
    | some l =>
      let x := a.1.cacheRead p lq 1 l job (us.filter (fun u => u.line == a.2.2))
      (x.1, a.2.1 ++ x.2.marked, a.2.2 + 1)) (a.1, [], a.2.2)
  (r.1, a.2.1 ++ (r.2.1.drop (off - lo)).take len, r.2.2)

/-- Does a slot fill hold a tile's network write port (R74, R155)? -/
def Tile.slotFilling (t : Tile) : Bool := t.slots.any CfgSlot.filling

/-- SEGMENT_GATHER_DONE: the block of `word`'s adapter arrives under its word, read from the adapter store (R294); one of
another issue of the handle is dropped (R310). A gather waits while a slot fill holds the port (R155). Upsets name the
store line of the gather, counted from its first. -/
def execSegmentGatherDone (tl : TileId) (ctx word tensor col len : Nat) (upsets : List Upset) (s : State) : Host.Outcome State Fault Refusal :=
  .next <| match s.ownerOf tl with
  | none => s
  | some p =>
    let tc := mget {} (s.tile tl).ctxs ctx
    let part := s.part p
    let h := bitsOf word 4 16
    let e := s.entry h
    if e.state == .free || e.epoch ≠ bitsOf word 0 4 then s.staleDrop word 0x122
    else if (s.tile tl).slotFilling then s
    else match tc.job?.bind (fun j => s.cmd j.job), part.logical tl with
    | some c, some l =>
      match c.rows.find? (fun r => r.word == word && r.adapter && !r.void), part.set? c.setNum with
      | some row, some set =>
        match segmentCfg e.manifestBytes (set.jobCfgs c.plans l) tensor len with
        | none => s
        | some x =>
          let key : SegKey := ⟨word, tensor, col, len, row.copy⟩
          if (tc.seg? key).isSome then s
          else
            let base := ((s.planeRanges h x.2.1 row.copy x.2.2).getD 0 (0, 0)).1
            let r := (blockRanges e.manifestBytes x.1 x.2.1 col x.2.2).foldl (fun (a : State × List (Byte × Bool) × Nat) y =>
              State.gatherRange a p (s.tensorQuad h x.2.1) c.job.job (base + y.1) y.2 upsets) (s, [], 0)
            let lines := (pieces 64 (r.2.1.length + 1) r.2.1).map (segLine word)
            let s1 := r.1.modTile tl (fun t => { t with
              mx := { t.mx with gathers := bump t.mx.freeze t.mx.gathers }
              ctxs := mmod {} t.ctxs ctx (fun c => { c with segs := c.segs ++ [⟨key, lines, false, (s.dom (bitsOf word 20 12)).gen⟩] }) })
            s1.resched p
      | _, _ => s
    | _, _ => s

/-! ### Quadrant Buffer ways (R213 to R217) -/

/-- The partition that owns a way. -/
def State.wayOwner (s : State) (q way : Nat) : Option Nat :=
  (s.parts.find? (fun kp => kp.2.quads.any (fun k => k.pq == q && (k.waysAddr.contains way || k.waysCache.contains way)))).map Prod.fst

/-- A tile from its number 32q + t. -/
def tileOf (n : Nat) : TileId := ⟨n / 32, n % 32⟩

/-- The job that runs in a tile. -/
def State.jobOf (s : State) (tl : TileId) : Option JobRef := (s.tile tl).running.map Running.job

/-- A read returns its line to the requesting context's share space, and answers it. -/
def State.returnLine (s : State) (tl : TileId) (ret : Option (Nat × Nat)) (l : Line) : State :=
  let s1 := { s with reply := .bytes l.bytes }
  match ret, s.ownerOf tl with
  | some r, some p =>
    match shareLine (slotShares (s.part p).s ((s.part p).ctxs.getD r.1 {}).slot) r.2 with
    | some pl => s1.modTile tl (fun t => { t with scratch := { t.scratch with lines := mset clearLine t.scratch.lines pl l } })
    | none => s1
  | _, _ => s1

/-- A line of the ways changed. -/
def State.modWay (s : State) (q key : Nat) (f : Line → Line) : State :=
  s.modQuad q (fun k => { k with qb := { k.qb with lines := mmod clearLine k.qb.lines key f } })

/-- Words of a way line that stand as poison markers: each read of one is an uncorrectable read (R209, R241). -/
def State.wayMarks (s : State) (q part line key job mask : Nat) : State :=
  (List.range 8).foldl (fun (s : State) w =>
    if (mget clearLine (s.quad q).qb.lines key).marks.testBit w && bitsOf mask (8 * w) 8 != 0 then s.noteUe (.buf q) 4 part job line else s) s

/-- One upset that a read of a way meets. -/
def State.wayUpset (s : State) (q part way line : Nat) (job : Nat) (u : Upset) : State :=
  let key := way * 32768 + line
  let l := mget clearLine (s.quad q).qb.lines key
  match eccRead (l.word u.word) (u.word != 8 && l.marks.testBit u.word) u.mask with
  | .clean d => s.modWay q key (fun l => l.setWord u.word d)
  | .corrected d => (s.modWay q key (fun l => l.setWord u.word d)).noteCe (.buf q) 4 part
  | .uncorrectable _ =>
    if l.marks.testBit u.word then s else (s.modWay q key (fun l => l.mark u.word)).noteUe (.buf q) 4 part job key

/-- Upsets met by a read of a way line. -/
def State.wayUpsets (s : State) (q part way line : Nat) (job : Nat) (us : List Upset) : State :=
  us.foldl (fun (s : State) u => s.wayUpset q part way line job u) s

/-- QB_WAY_REQUEST: a request of tile `fromTile` (32q + t) of partition `part` reaches a way. -/
def execQbWayRequest (q way part fromTile : Nat) (req : LineReq) (upsets : List Upset) (s : State) : Host.Outcome State Fault Refusal :=
  .next <|
    let tl := tileOf fromTile
    let job := s.jobOf tl
    let jid := (job.map JobRef.job).getD 0
    if s.wayOwner q way ≠ some part || (s.quad q).qb.scrubbing.contains way then
      let s1 := s.raise 0x07 (0x100 + q) part jid 0xFFFFFFFF 0x3
      let s2 := match job with
        | some j => s1.failJob j stDomainFault 0
        | none => s1
      if req.write || req.atomic.isSome then s2 else s2.returnLine tl req.ret clearLine
    else if 32768 ≤ req.line then s.rangeDrop tl job
    else
      let key := way * 32768 + req.line
      let reads := if req.atomic.isSome then req.mask else if req.write then 0 else fullMask
      let s1 := (s.wayMarks q part key key jid reads).wayUpsets q part way req.line jid upsets
      let old := mget clearLine (s1.quad q).qb.lines key
      match req.atomic with
      | some op =>
        let s2 := s1.wayAtomic q key op req.mask req.data
        if op = 3 then { s2 with reply := .data (old.get (64 * maskWord req.mask) 64) } else s2
      | none =>
        if req.write then
          let w := old.write req.mask req.data (LineKind.ofCode req.kind) req.tag req.poison
          s1.modQuad q (fun k => { k with qb := { k.qb with lines := mset clearLine k.qb.lines key w.line } })
        else s1.returnLine tl req.ret old

/-! ### Stacks (R216, R219 to R228) -/

/-- A request's job ends with a status. -/
def State.reqFail (s : State) (req : StackReq) (status detail : Nat) : State :=
  match req.job with
  | some j => s.failJob j status detail
  | none => s

/-- What a page write check finds (R225): true stores, false discards in silence, none refuses. -/
def pageTakes (a : PageAttr) (kind : LineKind) (tag : Nat) : Option Bool :=
  if !a.valid then none
  else match kind with
  | .shared => if a.shared then some true else none
  | .clear => some a.shared
  | _ => if !a.shared && a.domain == bitsOf tag 20 12 then some true else none

/-- Is a row of a job void (R225, R298)? -/
def State.voidRow (s : State) (j : JobRef) (row : Nat) : Bool := (((s.cmd j).bind (fun c => c.rows[row]?)).map Row.void).getD false

/-- A refused page write of a job's row poisons the row, but for a void row; without a row the job fails (R225). -/
def State.pageRefuse (s : State) (part : Nat) (job : Option JobRef) (row : Option Nat) (l : LineLoc) : State :=
  let s1 := s.raise 0x07 (0x108 + l.stack) part ((job.map JobRef.job).getD 0) (row.getD 0xFFFFFFFF) 0x5
  match job, row with
  | some j, some x => if s.voidRow j x then s else s1.modCmd j (fun c => { c with rows := c.rows.modify x (fun r => r.poison 1) })
  | some j, none => s1.failJob j stDomainFault 0
  | none, _ => s1

/-- Store a line of a kind in a page under the page rules (R225): a line of KIND CLEAR writes zero data. -/
def State.pageStore (s : State) (req : StackReq) (l : LineLoc) (kind : LineKind) (v : StackLine) : State :=
  match pageTakes (s.attr l) kind req.tag with
  | none => s.pageRefuse req.part req.job req.row l
  | some false => s
  | some true =>
    let w : StackLine := if kind = .clear then {} else v
    if req.unit < 256 then s.cacheWrite req.part req.lq req.region l w else s.putLine l w

/-- An atomic on a line of a stack: the operation of Table 6.4 on the line as it is read, stored under the same page
rules; SWAP.64 answers the old word (R226, log entry 66). -/
def State.stackAtomic (s : State) (req : StackReq) (l : LineLoc) (op : Nat) : State :=
  let jid := (req.job.map JobRef.job).getD 0
  let r := if req.unit < 256 then s.cacheRead req.part req.lq req.region l jid req.upsets else s.stackRead l req.part jid req.upsets
  let s1 := r.1.pageStore req l (LineKind.ofCode req.kind) (r.2.atomic op req.mask req.data).toStack
  if op = 3 then { s1 with reply := .data (r.2.get (64 * maskWord req.mask) 64) } else s1

/-- Does a request come from the load engine that carries out a LOAD_BASE or PATCH_LAYER of its partition (R226)? -/
def State.loadEngine (s : State) (req : StackReq) : Bool :=
  req.unit == 256 && (match req.job.bind s.cmd with
    | some c => (c.op == 0x10 || c.op == 0x11) && c.part == req.part
    | none => false)

/-- STACK_REQUEST: a request reaches the controller of `stack`. -/
def execStackRequest (stack : Nat) (req : StackReq) (s : State) : Host.Outcome State Fault Refusal :=
  .next <|
    let jid := (req.job.map JobRef.job).getD 0
    match s.pmaWord req.part req.pma with
    | none => if req.unit < 256 then s.rangeDrop (tileOf req.unit) req.job else s.reqFail req stAborted 0x23
    | some l =>
      if l.stack ≠ stack || s.pchOwner stack l.pch ≠ some req.part then
        let s1 := (s.raise 0x07 (0x108 + stack) req.part jid (req.row.getD 0xFFFFFFFF) 0x4).reqFail req stDomainFault 0
        if req.write then s1 else { s1 with reply := .line clearLine.bytes 0 }
      else if req.write || req.atomic.isSome then
        if (s.attr l).frozen && !s.loadEngine req then
          (s.raise 0x03 (0x108 + stack) req.part jid (l.pch * 576 + l.page)).reqFail req stFrozen 0
        else match req.atomic with
          | some op => s.stackAtomic req l op
          | none => s.pageStore req l (LineKind.ofCode req.kind) { data := req.data, marks := req.marks }
      else
        let r := if req.unit < 256 then s.cacheRead req.part req.lq req.region l jid req.upsets else s.stackRead l req.part jid req.upsets
        { r.1 with reply := .line r.2.bytes r.2.marks }

/-! ### Zero-fill and patrol scrub (R211, R229, R230) -/

/-- A page's CACHE lines go. -/
def State.cacheDrop (s : State) (k pch page : Nat) : State :=
  { s with parts := s.parts.map (fun e => (e.1, { e.2 with quads := e.2.quads.map (fun q =>
      if q.pq = k then { q with cache := q.cache.filter (fun c => !(c.pch == pch && c.line / 32768 == page)) } else q) })) }

/-- The lines of a page become zero: its cells, under no key, and the ways' copies of it go (R229). -/
def State.zeroPage (s : State) (k pch page : Nat) : State :=
  let lo := pch * 2 ^ 25 + page * 32768
  ((s.modStack k (fun st => { st with lines := st.lines.filter (fun e => !(decide (lo ≤ e.1) && decide (e.1 < lo + 32768))) })).cacheDrop k pch page).logPage k pch page

/-- PAGE_ZERO_FILL_DONE: the oldest pending page of a pseudo-channel ends its zero-fill, and handles that waited for it
move on (R290, R312). A pseudo-channel of a partition that is being destroyed returns once nothing of it is pending
(R394). -/
def execPageZeroFillDone (stack pch page : Nat) (s : State) : Host.Outcome State Fault Refusal :=
  .next <| match mget [] (s.stack stack).zeroFill pch with
  | [] => s
  | x :: xs =>
    if x ≠ page || s.clk.pm != .d0 && s.clk.pm != .armed then s
    else
      let s1 := (((s.zeroPage stack pch page).modStack stack (fun st => { st with zeroFill := mset [] st.zeroFill pch xs })).pageFilled
        (stack, pch, page)).fire (0x108 + stack)
      match s1.pchOwner stack pch with
      | some p =>
        if (s1.part p).state == .destroying && xs.isEmpty then
          (s1.modPart p (fun y => { y with quads := y.quads.map (fun k => if k.pq = stack then { k with pchs := k.pchs.filter (· != pch) } else k) })).freeCheck p
        else s1
      | none => s1

/-- Lines of a pseudo-channel. -/
def pchLines : Nat := 576 * 32768

/-- PATROL_SCRUB_LINE: the next line of a pseudo-channel is read, and written back where its words need it: an
uncorrectable word as a poison marker (R207, R211). -/
def execPatrolScrubLine (stack pch line : Nat) (upsets : List Upset) (s : State) : Host.Outcome State Fault Refusal :=
  .next <|
    let st := s.stack stack
    if !st.scrubEnable || st.state != .ready || 64 ≤ pch || mget 0 st.patrol pch ≠ line then s
    else
      let l : LineLoc := ⟨stack, pch, line / 32768, line⟩
      let part := (s.pchOwner stack pch).getD 0xFF
      let r := (s.stackMarks l part 0).stackUpsets l part 0 upsets
      let old := r.1.getLine l
      let s1 := if r.2 = ⟨0, old.cipher l.tweak⟩ then r.1
        else r.1.storeRaw l (if r.2.data = old.cipher l.tweak then { old with marks := old.marks ||| r.2.bad }
          else { data := r.2.data, marks := old.marks ||| r.2.bad })
      let last := line + 1 == pchLines
      s1.modStack stack (fun k => { k with
        patrol := mset 0 k.patrol pch (if last then 0 else line + 1)
        passes := if last then bump k.freeze k.passes else k.passes })

/-- BANK_ZERO_FILL_DONE: a bank that returned from Off is On, its words zero. -/
def execBankZeroFillDone (tl : TileId) (bank : Nat) (s : State) : Host.Outcome State Fault Refusal :=
  .next <|
    if mget .on (s.tile tl).scratch.banks bank != .zeroFill then s
    else s.modTile tl (fun t => { t with scratch := { t.scratch with
      banks := mset .on t.scratch.banks bank .on
      lines := t.scratch.lines.filter (fun e => e.1 % 4 != bank / 8) } })

/-- SCRUB_DONE: the ways of a quadrant, or a tile that left test state, end their scrub (R186, R388). -/
def execScrubDone (tl : TileId) (ways : Bool) (s : State) : Host.Outcome State Fault Refusal :=
  .next <|
    if ways then s.modQuad tl.q (fun k => { k with qb := { k.qb with scrubbing := [] } })
    else if (s.tile tl).vxu.scrubbing then
      s.modTile tl (fun t => let t1 := t.scrubAll; { t1 with vxu := { t1.vxu with test := false, scrubbing := false, wins := [] } })
    else s

/-! ### The VXU test port (R186 to R190) -/

/-- VXU_TEST_ENTER: a free tile that runs nothing enters test state. -/
def execVxuTestEnter (tl : TileId) (s : State) : Host.Outcome State Fault Refusal :=
  .next <|
    if (s.ownerOf tl).isSome || (s.tile tl).running.isSome || bitOf s.clk.gated tl.q || (s.tile tl).vxu.test then s
    else s.modTile tl (fun t => { t with vxu := { t.vxu with test := true } })

/-- VXU_TEST_EXIT: the whole-tile scrub begins. -/
def execVxuTestExit (tl : TileId) (s : State) : Host.Outcome State Fault Refusal :=
  .next <|
    if (s.tile tl).vxu.test then s.modTile tl (fun t => { t with vxu := { t.vxu with scrubbing := true } }) else s

/-- The windows of the test state. -/
def Vxu.windows (v : Vxu) : Map Window := v.wins.map (fun e => (e.1, ⟨e.2.1, e.2.2.1, e.2.2.2.1, e.2.2.2.2⟩))

/-- Bytes of a scratchpad. -/
def scratchBytes : Nat := 16 * shareBytes

/-- GO refuses the micro-op (R190). -/
def Vxu.refuses (v : Vxu) (u : UOp) : Bool :=
  !uopCodes.contains u.opcode || u.opcode == 0x02 || u.opcode == 0x03 || u.opcode == 0x04 ||
  !uopWindowsOk v.windows (some 0) u || (u.opcode == 0x01 && decide (scratchBytes < (wsetWindow u).limit))

/-- VXU_TEST_GO: the micro-op of the UOP registers starts, or is refused. -/
def execVxuTestGo (tl : TileId) (s : State) : Host.Outcome State Fault Refusal :=
  .next <|
    let v := (s.tile tl).vxu
    if !v.test || v.scrubbing || v.goBusy then s
    else
      let w := v.uopHi.toNat * 2 ^ 32 + v.uopLo.toNat
      s.modTile tl (fun t => { t with vxu := { t.vxu with
        goBusy := true, done := false, error := false, op := w, refused := t.vxu.refuses (uopOf w) } })

/-- The test environment: physical bytes, no tag checks (R194). -/
def testEnv (t : Tile) : VEnv :=
  { shares := List.range 16, readers := [], serve := 0, test := true, escapeEn := true, sideLen := 0, treg := t.treg }

/-- A tile after its test micro-op ran. -/
def Tile.testRun (t : Tile) : Tile :=
  let v := VState.step (testEnv t) { lines := t.scratch.lines, wins := t.vxu.windows } (uopOf t.vxu.op)
  { t with
    scratch := { t.scratch with lines := v.lines, partialClear := bump t.scratch.freeze t.scratch.partialClear v.cleared }
    escFaults := t.escFaults + BitVec.ofNat 32 v.escFaults
    vxu := { t.vxu with
      goBusy := false, done := true
      flags := t.vxu.flags ||| v.flags % 64
      wins := v.wins.map (fun e => (e.1, (e.2.fmt, e.2.rows, e.2.base, e.2.stride)))
      uops := bump t.vxu.freeze t.vxu.uops
      busy := bump t.vxu.freeze t.vxu.busy v.busy
      invalid := bump t.vxu.freeze t.vxu.invalid v.invalidUops
      sat := bump t.vxu.freeze t.vxu.sat v.satUops } }

/-- VXU_TEST_DONE: BUSY clears with DONE or ERROR, and the tile's source fires. -/
def execVxuTestDone (tl : TileId) (s : State) : Host.Outcome State Fault Refusal :=
  .next <|
    let v := (s.tile tl).vxu
    if !v.goBusy then s
    else if v.refused then (s.modTile tl (fun t => { t with vxu := { t.vxu with goBusy := false, error := true } })).fire (tileSource tl)
    else (s.modTile tl Tile.testRun).fire (tileSource tl)

end Sys2Proof.Machine
end

