-- ==== Sys2Proof/Machine/Mule.lean ====
section
/-! DEFINITION. Chapter 7's streams: ring fills and their sources, gathers from peers, and the stash of
chapter 9. -/

namespace Sys2Proof.Machine

/-! ### Fills (R249, R253, R259) -/

/-- The lines a unit fill or gather part delivers, from a buffer offset. -/
structure FillPart where
  off : Nat
  lines : List Line
  deriving DecidableEq, Repr

/-- Bytes of one shard's part of a fill. -/
def PlanEntry.part (e : PlanEntry) : Nat := e.bufLines * 64 / max 1 e.shards

/-- Source offset of fill `j` of an entry in logical tile `t` (R259). -/
def PlanEntry.srcOf (e : PlanEntry) (t j : Nat) : Nat :=
  e.src + (maskRank e.mask t * (e.tileBytes / max 64 (e.bufLines * 64)) + j) * e.part

/-- The set's bytes of a logical quadrant's base region, or of its host-tier extent, end here. -/
def State.sourceEnds (s : State) (p lq : Nat) (set : CfgSet) (source : Nat) : Nat :=
  if source = 2 then set.hostUnits * 4096 else s.regionBytes p lq 0 - set.baseOff

/-- Upsets of one line of a fill. -/
def upsetsOf (us : List Upset) (line : Nat) : List Upset := us.filter (fun u => u.line == line)

/-- One line of the own stack, with the words found uncorrectable as it is read (R224, R257). -/
def State.stackFill (s : State) (p lq job off : Nat) (us : List Upset) : State × Line :=
  match s.pma p lq 0 off with
  | none => (s, clearLine)
  | some l => s.stackRead l p job us

/-- One line of the host tier: a unit whose tag fails is delivered as uncorrectable words (R234). -/
def State.hostFill (s : State) (p : Nat) (set : CfgSet) (src : Nat) : Line :=
  match s.hostUnit p (set.hostIndex + src / 4096) with
  | some bs => { data := lineData (slice bs (src % 4096) 64), kind := .shared }
  | none => { kind := .shared, marks := 0xFF }

/-- Write lines to share-space bytes of a context in a tile. -/
def Tile.putLines (t : Tile) (shares : List Nat) (x : Nat) (ls : List Line) : Tile :=
  let lines := ls.zipIdx.foldl (fun (m : Map Line) l =>
    match shareLine shares (x + 64 * l.2) with
    | some n => mset clearLine m n l.1
    | none => m) t.scratch.lines
  { t with scratch := { t.scratch with lines := lines } }

/-- The shares of a context. -/
def Part.sharesOf (x : Part) (ctx : Nat) : List Nat := slotShares x.s (x.ctxs.getD ctx {}).slot

/-- Change the rings of a job in a tile: the context's own, and one that has outlived the job there (R256). -/
def State.modRings (s : State) (tl : TileId) (ctx : Nat) (j : JobRef) (f : Ring → Ring) : State :=
  let g (r : Ring) : Ring := if r.job = j then f r else r
  s.modTile tl (fun t => { t with ctxs := mmod {} t.ctxs ctx (fun c => { c with ring := c.ring.map g, dying := c.dying.map g }) })

/-- The ring of a context in a tile. -/
def State.ringOf (s : State) (tl : TileId) (ctx : Nat) : Option Ring := (mget {} (s.tile tl).ctxs ctx).ring

/-- A started fill of a job in a tile, with its ring. -/
def State.startedFill (s : State) (tl : TileId) (ctx : Nat) (j : JobRef) (num : Nat) : Option (Ring × Fill) :=
  (mget {} (s.tile tl).ctxs ctx).rings.findSome? (fun r =>
    if r.job = j then (r.fills.find? (fun f => f.num == num && f.started && !f.done)).map (fun f => (r, f)) else none)

/-- The layer patch whose barrier stands (R267). -/
def Part.barred (x : Part) (set layer : Nat) : Bool :=
  match x.patches with
  | y :: _ => y.phase != .staging && y.set == set && y.layer == layer
  | [] => false

/-- Ask a peer for a part (R262): the digest prefix, the patch count and the range. -/
def State.askPeer (s : State) (g : Gather) : State :=
  match (s.part g.part).set? g.set with
  | none => s
  | some set =>
    s.queueMsg g.binding 1 [.gatherReq g.tag g.length (leNat ((digestBytes set.file.base).take 8)) set.patchCount g.lq g.src]

/-- The open partition binding of a partition to a peer. -/
def State.partBinding (s : State) (p peer : Nat) : Option Nat :=
  (s.jan.bindings.find? (fun b => b.2.kind == 1 && b.2.part == p && b.2.peer == peer && b.2.state == .open_)).map Prod.fst

/-- End a running job with a failure: its slices leave each tile now, or at the boundary of the one that
runs (R38, R256). -/
def State.stopJob (s : State) (j : JobRef) (status detail : Nat) : State :=
  match s.cmd j with
  | none => s
  | some c =>
    if c.phase == .final then s
    else
      let s1 := (s.failJob j status detail).modCmd j (fun c => { c with stopped := true })
      let s2 := s1.leaveIdle c
      if s2.jobGone c.part c.ctx j then s2.fixJob j else s2.resched c.part

/-- A part fails (R264): counted, MULE's source fires, and its job ends. -/
def State.gatherFail (s : State) (g : Gather) : State :=
  let s1 := { s with mul := { s.mul with gathers := s.mul.gathers.filter (fun x => x.tag != g.tag) } }
  let s2 := s1.modQuad g.tile.q (fun q => { q with mul := { q.mul with gatherFail := bump s.mul.freeze q.mul.gatherFail } })
  (s2.fire 0x121).stopJob g.job stAborted 0x26

/-- The link or the session to a peer is lost: its parts fail. -/
def State.linkLostGathers (s : State) (peer : Nat) : State :=
  (s.mul.gathers.filter (fun g => (mget {} s.jan.bindings g.binding).peer == peer)).foldl (fun (s : State) g =>
    if s.mul.gathers.any (fun x => x.tag == g.tag) then s.gatherFail g else s) s

/-- Request the peer parts of a fill. -/
def State.gatherParts (s : State) (p : Nat) (tl : TileId) (ctx lq t : Nat) (r : Ring) (f : Fill) (e : PlanEntry) : State :=
  (List.range e.shards).foldl (fun (s : State) i =>
    let peer := e.peer + i
    if peer = s.glb.cfg.selfPeer then s
    else
      let g : Gather := { tag := s.mul.nextTag, part := p, tile := tl, ctx := ctx, fill := f.num, shard := i
                          binding := (s.partBinding p peer).getD 0, set := r.set, length := e.part, lq := lq, src := e.srcOf t f.index
                          job := r.job, since := s.now }
      let s1 := { s with mul := { s.mul with nextTag := (s.mul.nextTag + 1) % 65536, gathers := s.mul.gathers ++ [g] } }
      if (s.partBinding p peer).isSome then s1.askPeer g else s1.gatherFail g) s

/-- The fill that MULE would start next in a ring, and whether it is a new one: a requeued fill first, then the
next of the plan once its buffer is released (R249). -/
def Ring.nextStart (r : Ring) : Option (Fill × Bool) :=
  match r.fills.find? (fun f => !f.started) with
  | some f => some (f, false)
  | none =>
    match r.next with
    | f :: _ => if r.fills.length < r.nbuf then some (f, true) else none
    | [] => none

/-- Mark the fill that would start: started, or waiting at a barrier. -/
def Ring.mark (r : Ring) (isNew : Bool) (n : Nat) (f : Fill → Fill) : Ring :=
  if isNew then r.next.head?.elim r (fun x =>
      if (f x).started then { r with fills := r.fills ++ [f x], next := r.next.tail } else { r with next := f x :: r.next.tail })
  else { r with fills := r.fills.map (fun x => if x.num = n then f x else x) }

/-- The bytes of a fill that MULE reads from the own stack: all of a SOURCE 0x00 fill, the own shards of a SOURCE 0x01 one
that are still to be read (R259, R262). -/
def State.ownBytes (s : State) (e : PlanEntry) (f : Fill) : Nat :=
  if e.source = 0 then e.bufLines * 64
  else if e.source = 1 && !f.ownDone then ((List.range e.shards).filter (fun i => e.peer + i == s.glb.cfg.selfPeer)).length * e.part
  else 0

/-- Bytes of stack reads that fills in progress of a partition have outstanding in a quadrant (R257). -/
def State.outstanding (s : State) (p q : Nat) : Nat :=
  (((s.part p).tiles.filter (fun tl => tl.q == q)).map (fun tl => ((s.tile tl).ctxs.map (fun c => (c.2.rings.map (fun r =>
    ((r.fills.filter (fun f => f.started && !f.done)).map (fun f => ((s.fillEntry p r f).map (fun e => s.ownBytes e f)).getD 0)).sum)).sum)).sum)).sum

/-- A fill starts: its request takes its place in the order of requests (R253), and its peer parts are asked for (R262). -/
def State.startFill (s : State) (p : Nat) (tl : TileId) (ctx lq t : Nat) (r : Ring) (new_ : Bool) (f : Fill) (e : PlanEntry) : State :=
  let s1 := (s.modRings tl ctx r.job (fun r => r.mark new_ f.num (fun x => { x with started := true, barrier := false, req := s.mul.nextReq })))
  let s2 := { s1 with mul := { s1.mul with nextReq := s1.mul.nextReq + 1 } }
  if e.source = 1 then s2.gatherParts p tl ctx lq t r f e else s2

/-- A fill waits at a layer patch's barrier, counted once (R268). -/
def State.holdFill (s : State) (tl : TileId) (ctx : Nat) (r : Ring) (new_ : Bool) (f : Fill) : State :=
  if f.barrier then s
  else (s.modRings tl ctx r.job (fun r => r.mark new_ f.num (fun x => { x with barrier := true }))).modQuad tl.q (fun q =>
    { q with mul := { q.mul with barrierWaits := bump s.mul.freeze q.mul.barrierWaits } })

/-- RING_FILL_START: the next fill of a resident context's ring in a tile. It waits at a barrier (R268), and while its stack
reads would pass 4 MiB outstanding (R257, log entry 68). -/
def execRingFillStart (tl : TileId) (ctx : Nat) (s : State) : Host.Outcome State Fault Refusal :=
  .next <| match s.ownerOf tl with
  | none => s
  | some p =>
    let part := s.part p
    match s.ringOf tl ctx, part.logical tl, part.lqOf tl.q with
    | some r, some t, some lq =>
      if part.state != .active || (part.ctxs.getD ctx {}).res != .resident || (part.switch.bind Switch.victim) == some ctx then s
      else match r.nextStart with
      | none => s
      | some (f, new_) =>
        match s.fillEntry p r f with
        | none => s
        | some e =>
          if part.barred r.set e.layer then s.holdFill tl ctx r new_ f
          else if 0x400000 < s.outstanding p tl.q + s.ownBytes e f then s
          else s.startFill p tl ctx lq t r new_ f e
    | _, _, _ => s

/-- Byte of the share space at which a shard's part of a fill lies. -/
def Ring.partByte (r : Ring) (e : PlanEntry) (f : Fill) (i : Nat) : Nat :=
  r.base + f.num % max 1 r.nbuf * (r.bufLines * 64) + i * e.part

/-- Read the local lines of one shard's part: the state after the reads, and the lines. -/
def State.localPart (s : State) (p lq : Nat) (set : CfgSet) (e : PlanEntry) (src i : Nat) (job : JobRef) (us : List Upset) :
    State × List Line :=
  let per := e.part / 64
  if e.source = 2 then (s, (List.range per).map (fun n => s.hostFill p set (src + 64 * n)))
  else
    (List.range per).foldl (fun (a : State × List Line) n =>
      let r := a.1.stackFill p lq job.job (set.baseOff + src + 64 * n) (upsetsOf us (i * per + n))
      (r.1, a.2 ++ [r.2])) (s, [])

/-- EV_ECC_UE of each failed host-tier unit among `n` bytes of a set's extent (R234). -/
def State.unitFaults (s : State) (p : Nat) (set : CfgSet) (src n : Nat) (job : JobRef) : State :=
  ((List.range (ceilDiv (src % 4096 + n) 4096)).map (fun i => set.hostIndex + src / 4096 + i)).foldl
    (fun (a : State) u => if (s.hostUnit p u).isNone then a.raise 0x09 0x121 p job.job 0x7 u else a) s

/-- Deliver the part of shard `i` of a fill, where it is local. A part beyond its source's range writes nothing (R221). -/
def State.deliverPart (s : State) (p : Nat) (tl : TileId) (ctx lq t : Nat) (set : CfgSet) (r : Ring) (f : Fill) (e : PlanEntry)
    (us : List Upset) (i : Nat) : State :=
  let src := e.srcOf t f.index
  if e.source = 1 && (f.ownDone || e.peer + i ≠ s.glb.cfg.selfPeer) then s
  else if s.sourceEnds p lq set e.source < src + e.part then s.rangeDrop tl (some r.job)
  else
    let d := s.localPart p lq set e src i r.job us
    let s1 := if e.source = 2 then d.1.unitFaults p set src e.part r.job else d.1
    let s2 := s1.modTile tl (fun x => x.putLines ((s.part p).sharesOf ctx) (r.partByte e f i) d.2)
    s2.modQuad tl.q (fun q => { q with mul :=
      if e.source = 2 then { q.mul with host := bump s.mul.freeze q.mul.host d.2.length }
      else { q.mul with stack := bump s.mul.freeze q.mul.stack d.2.length } })

/-- Deliver the local parts of a fill. -/
def State.deliverFill (s : State) (p : Nat) (tl : TileId) (ctx lq t : Nat) (set : CfgSet) (r : Ring) (f : Fill) (e : PlanEntry)
    (us : List Upset) : State :=
  (List.range e.shards).foldl (fun (s : State) i => s.deliverPart p tl ctx lq t set r f e us i) s

/-- The fill in progress that completes next: fills complete in fill order. -/
def Ring.filling (r : Ring) : Option Fill :=
  match r.fills.find? (fun f => !f.done) with
  | some f => if f.started then some f else none
  | none => none

/-- The fill of a context in a tile that completes next, with its ring: one of a job that has left the tile first. -/
def TCtx.filling (c : TCtx) : Option (Ring × Fill) := c.rings.findSome? (fun r => r.filling.map (fun f => (r, f)))

/-- Does a fill wait for a part from a peer? -/
def State.fillWaits (s : State) (tl : TileId) (ctx : Nat) (r : Ring) (f : Fill) : Bool :=
  s.mul.gathers.any (fun g => g.tile == tl && g.ctx == ctx && g.fill == f.num && g.job == r.job)

/-- Does another fill go before this one at the tile's port: of a context of higher priority, or of equal priority and
requested earlier (R253)? One that waits for a peer does not use the port (log entry 67). -/
def State.portBusy (s : State) (p : Nat) (tl : TileId) (ctx : Nat) (f : Fill) : Bool :=
  let prio (i : Nat) : Nat := ((s.part p).ctxs.getD i {}).prio
  (s.tile tl).ctxs.any (fun c => c.1 != ctx && match c.2.filling with
    | some (r, g) => !s.fillWaits tl c.1 r g && (decide (prio ctx < prio c.1) || (prio c.1 == prio ctx && decide (g.req < f.req)))
    | none => false)

/-- A fill is complete; of a ring whose job has left the tile it goes, and the ring with its last (R256). -/
def TCtx.fillDone (c : TCtx) (j : JobRef) (num : Nat) : TCtx :=
  { c with
    ring := c.ring.map (fun r => if r.job = j then { r with fills := r.fills.map (fun x => if x.num = num then { x with done := true } else x) } else r)
    dying := (c.dying.map (fun r => if r.job = j then { r with fills := r.fills.filter (fun x => x.num != num) } else r)).filter
      (fun r => !r.fills.isEmpty) }

/-- RING_FILL_DONE: the last line of a context's fill in a tile is written. A fill whose peer parts have not all arrived is
not complete, and it waits its turn at the port behind slot fills and other fills (R253). `answers` are host-tier units
that the host answers with bytes of its own (R234). -/
def execRingFillDone (tl : TileId) (ctx : Nat) (upsets : List Upset) (answers : List (Nat × List Byte)) (s : State) : Host.Outcome State Fault Refusal :=
  .next <| match s.ownerOf tl with
  | none => s
  | some p =>
    let part := s.part p
    match (mget {} (s.tile tl).ctxs ctx).filling, part.logical tl, part.lqOf tl.q with
    | some (r, f), some t, some lq =>
      match part.set? r.set, s.fillEntry p r f with
      | some set, some e =>
        if s.fillWaits tl ctx r f || (s.tile tl).slotFilling || s.portBusy p tl ctx f then s
        else
          let s1 := (s.hostAnswers (if e.source = 2 then answers else [])).deliverFill p tl ctx lq t set r f e upsets
          ((s1.modTile tl (fun t => { t with ctxs := mmod {} t.ctxs ctx (fun c => c.fillDone r.job f.num) })).retireSweep p).resched p
      | _, _ => s
    | _, _, _ => s

/-- The own parts of a layer's SOURCE 0x01 fills in progress are read before the patch is copied (R262, R267). -/
def State.drainOwn (s : State) (p : Nat) (set : CfgSet) (layer : Nat) : State :=
  (s.part p).tiles.zipIdx.foldl (fun (s : State) x => (s.tile x.1).ctxs.foldl (fun (s : State) c => c.2.rings.foldl (fun (s : State) r =>
    if r.set ≠ set.num then s
    else (r.fills.filter (fun f => f.started && !f.done && !f.ownDone)).foldl (fun (s : State) f =>
      match s.fillEntry p r f, (s.part p).lqOf x.1.q with
      | some e, some lq =>
        if e.layer ≠ layer || e.source ≠ 1 then s
        else (s.deliverFill p x.1 c.1 lq x.2 set r f e []).modRings x.1 c.1 r.job (fun r => { r with
          fills := r.fills.map (fun y => if y.num = f.num then { y with ownDone := true } else y) })
      | _, _ => s) s) s) s) s

/-- PATCH_DRAIN_DONE: the last fill that reads the layer's base bytes has ended. -/
def execPatchDrainDone (p : Nat) (s : State) : Host.Outcome State Fault Refusal :=
  .next <| match (s.part p).patches with
  | [] => s
  | x :: _ =>
    if x.phase != .drain || s.layerReads p x.set x.layer then s
    else
      let s1 := match (s.part p).set? x.set with
        | some set => s.drainOwn p set x.layer
        | none => s
      (s1.modPatch p (fun y => { y with phase := .copy })).patchShow x 2 true

/-! ### Gathers (R262 to R264, R457) -/

/-- Does a range of a set's base bytes meet a layer under its barrier? -/
def State.rangeBarred (s : State) (p : Nat) (set : CfgSet) (lq off len : Nat) : Bool :=
  match (s.part p).patches with
  | y :: _ => y.phase != .staging && y.set == set.num &&
      (layerRanges (s.part p) set y.layer lq).any (fun x => decide (x.1 < off + len) && decide (off < x.1 + x.2))
  | [] => false

/-- The words that are uncorrectable in lines read. -/
def markedWords (ls : List Line) : List Nat :=
  ls.zipIdx.flatMap (fun x => ((List.range 8).filter (fun w => x.1.marks.testBit w)).map (fun w => 8 * x.2 + w))

/-- GATHER_REQ: the peer serves it from its bound partition, holds it or refuses it. TARGET, the requester's
fill part, is a value that the request does not carry (log entry 24). -/
def execGatherReq (binding tag len pre patch lq off : Nat) (s : State) : Host.Outcome State Fault Refusal :=
  .next <|
    let b := mget {} s.jan.bindings binding
    if b.state != .open_ || b.kind ≠ 1 then s
    else match (s.part b.part).sets.find? (fun c => leNat ((digestBytes c.file.base).take 8) == pre) with
    | none => s.queueMsg binding 1 [.gatherRefuse tag 1]
    | some set =>
      if set.patchCount ≠ patch || s.rangeBarred b.part set lq off len then s.queueMsg binding 1 [.gatherHold tag]
      else if (s.part b.part).quads.length ≤ lq || s.regionBytes b.part lq 0 < set.baseOff + off + len then
        s.queueMsg binding 1 [.gatherRefuse tag 2]
      else
        let rd := (List.range (ceilDiv len 64)).foldl (fun (a : State × List Line) n =>
          let r := a.1.stackFill b.part lq 0 (set.baseOff + off + 64 * n) []
          (r.1, a.2 ++ [r.2])) (s, [])
        let d := rd.1.draw 64
        d.2.queueMsg binding 0 [.gatherData tag d.1.toNat ((rd.2.flatMap Line.bytes).take len) (markedWords rd.2)]

/-- The gather a tag names on a binding. -/
def State.gather? (s : State) (binding tag : Nat) : Option Gather :=
  s.mul.gathers.find? (fun g => g.tag == tag && g.binding == binding)

/-- Change a gather. -/
def State.modGather (s : State) (tag : Nat) (f : Gather → Gather) : State :=
  { s with mul := { s.mul with gathers := s.mul.gathers.map (fun g => if g.tag = tag then f g else g) } }

/-- GATHER_HOLD. -/
def execGatherHold (binding tag : Nat) (s : State) : Host.Outcome State Fault Refusal :=
  .next <| match s.gather? binding tag with
  | some _ => s.modGather tag (fun g => { g with hold := true, heldAt := s.now })
  | none => s

/-- GATHER_RETRY_TIMER: 2 µs after a HOLD. -/
def execGatherRetryTimer (tag : Nat) (s : State) : Host.Outcome State Fault Refusal :=
  .next <| match s.mul.gathers.find? (fun g => g.tag == tag && g.hold) with
  | some g =>
    if s.now < g.heldAt + 2400 then s
    else if (mget {} s.jan.bindings g.binding).state != .open_ then s.gatherFail g
    else (s.modGather tag (fun g => { g with hold := false })).askPeer g
  | none => s

/-- GATHER_REFUSE. -/
def execGatherRefuse (binding tag reason : Nat) (s : State) : Host.Outcome State Fault Refusal :=
  .next <| match s.gather? binding tag with
  | some g =>
    let s1 := { s with mul := { s.mul with gathers := s.mul.gathers.filter (fun x => x.tag != tag) } }
    if reason = 1 then s1.stopJob g.job stBaseMismatch 0
    else if reason = 2 then s1.stopJob g.job stAborted 0x23 else s
  | none => s

/-- The lines of gathered data: base data is SHARED, and uncorrectable words stay so (R253, R257). -/
def gatherLines (n : Nat) (data : List Byte) (poison : List Nat) : List Line :=
  (linesOf (slice data 0 n)).zipIdx.map (fun x =>
    { data := lineData x.1, kind := .shared
      marks := ((List.range 8).filter (fun w => poison.contains (8 * x.2 + w))).foldl (fun a w => a + 2 ^ w) 0 })

/-- GATHER_DATA: the part goes to its buffer; a fill of a job that has left the tile completes too (R256). -/
def execGatherData (binding tag : Nat) (data : List Byte) (poison : List Nat) (s : State) : Host.Outcome State Fault Refusal :=
  .next <| match s.gather? binding tag with
  | none => s
  | some g =>
    let s1 := { s with mul := { s.mul with gathers := s.mul.gathers.filter (fun x => x.tag != tag) } }
    match s.startedFill g.tile g.ctx g.job g.fill with
    | none => s1
    | some (r, f) =>
      match s.fillEntry g.part r f with
      | none => s1
      | some e =>
        let ls := gatherLines g.length data poison
        (s1.modTile g.tile (fun t => t.putLines ((s.part g.part).sharesOf g.ctx) (r.partByte e f g.shard) ls)).modQuad g.tile.q
          (fun q => { q with mul := { q.mul with peer := bump s.mul.freeze q.mul.peer ls.length } })

/-- GATHER_TIMEOUT: MUL_GATHER_TIMEOUT.US after the first request, HOLD answers included. -/
def execGatherTimeout (tag : Nat) (s : State) : Host.Outcome State Fault Refusal :=
  .next <| match s.mul.gathers.find? (fun g => g.tag == tag) with
  | some g => if s.now < g.since + 1200 * s.mul.timeout then s else s.gatherFail g
  | none => s

/-! ### The stash (R335 to R340) -/

/-- S and SPILL_EN of a TRAIN_STEP (R336). -/
def State.stashRule (s : State) (c : Cmd) : Nat × Bool :=
  match (s.part c.part).set? c.setNum with
  | none => (0, false)
  | some set =>
    let ids := (set.entries.filter (fun e => e.plan == c.param 0x22 1)).map PlanEntry.consumer
    match set.file.tiles.find? (fun t => ids.contains t.id) with
    | some t => (t.stash, t.spillEn)
    | none => (0, false)

/-- Records on chip. -/
def TrSlot.onChip (t : TrSlot) : List StashRec := t.stash.filter (fun r => r.place == 0)

/-- `n` records fit the area of every logical quadrant. -/
def Part.stashFits (x : Part) (t : TrSlot) (n : Nat) : Bool :=
  x.quads.all (fun k => decide (n * k.tiles.length * (t.stashBytes / 64) ≤ t.qbLines))

/-- Stripes that a record takes in a logical quadrant. -/
def State.stashStripes (s : State) (p : Nat) (t : TrSlot) (lq : Nat) : Nat :=
  ceilDiv (((s.part p).quadAt lq).tiles.length * t.stashBytes) (max 1 (s.stripeBytes p lq))

/-- The lowest stripe from which a record fits the spill region of every logical quadrant. -/
def State.spillRoom (s : State) (p : Nat) (t : TrSlot) : Option Nat :=
  (List.range (s.regionStripes 2)).find? (fun a => (List.range (s.part p).quads.length).all (fun lq =>
    decide (a + s.stashStripes p t lq ≤ s.regionStripes 2) &&
    (List.range (s.stashStripes p t lq)).all (fun i => s.stripeFree p lq 2 (a + i))))

/-- Logical quadrant of a logical tile, and its place among the quadrant's tiles. -/
def Part.tilePlace (x : Part) (t : Nat) : Option (Nat × Nat) :=
  (x.tiles[t]?).bind (fun tl => (x.lqOf tl.q).map (fun lq => (lq, ((x.quadAt lq).tiles.idxOf? tl.t).getD 0)))

/-- Spill-region offset of a logical tile's part of a record at stripe `a`. -/
def State.spillOff (s : State) (p : Nat) (t : TrSlot) (a tile : Nat) : Option (Nat × Nat) :=
  ((s.part p).tilePlace tile).map (fun x => (x.1, a * s.stripeBytes p x.1 + x.2 * t.stashBytes))

/-- Write one line of a record to its spill page, under the page rules: a refused one poisons its row (R225). -/
def State.spillLine (s : State) (p : Nat) (job : JobRef) (lq off : Nat) (row : Option Nat) (x : Line) : State :=
  match s.pma p lq 2 off with
  | none => s
  | some l => match pageTakes (s.attr l) x.kind x.tag with
    | some true => s.putLine l x.toStack
    | some false => s
    | none => s.pageRefuse p (some job) row l

/-- Write one tile's lines of a record to its spill pages. -/
def State.spillTile (s : State) (p : Nat) (t : TrSlot) (r : StashRec) (tile : Nat) (ls : List Line) : State :=
  match s.spillOff p t (r.place - 1) tile with
  | none => s
  | some o =>
    let rows := mget [] r.rows tile
    ls.zipIdx.foldl (fun (s : State) x => s.spillLine p r.job o.1 (o.2 + 64 * x.2) (rows.getD x.2 none) x.1) s

/-- EV_STASH_OVERFLOW, once per job and cause (R340). -/
def State.stashEvent (s : State) (c : Cmd) (cause : Nat) : State :=
  if ((s.cmd c.job).map (fun x => x.stashEv.contains cause)).getD true then s
  else (s.modCmd c.job (fun x => { x with stashEv := x.stashEv ++ [cause] })).raise 0x05 0x123 c.part c.job.job cause

/-- The spill pages of a record from stripe `a` are VALID for the slot's domain. -/
def State.stashClaim (s : State) (p : Nat) (t : TrSlot) (a : Nat) : State :=
  (List.range (s.part p).quads.length).foldl (fun (s : State) lq =>
    s.setStripes p lq 2 a (s.stashStripes p t lq) { valid := true, domain := t.domain }) s

/-- Is this the record of a job's layer? -/
def StashRec.is (r : StashRec) (j : JobRef) (layer : Nat) : Bool := r.job == j && r.layer == layer

/-- Buffer-space line of a record on chip at which a tile's lines start, with the logical quadrant (R336). -/
def Part.recordLine (x : Part) (t : TrSlot) (r : StashRec) (tile : Nat) : Option (Nat × Nat) :=
  (x.tilePlace tile).map (fun o => (o.1, t.qbOff + (r.ix * (x.quadAt o.1).tiles.length + o.2) * (t.stashBytes / 64)))

/-- Write a tile's lines of a record on chip to the stash area (R215). -/
def State.recordWrite (s : State) (p : Nat) (t : TrSlot) (r : StashRec) (tile : Nat) (ls : List Line) : State :=
  match (s.part p).recordLine t r tile with
  | none => s
  | some o => ls.zipIdx.foldl (fun (s : State) x => s.bufWrite p o.1 (o.2 + x.2) x.1) s

/-- Read a tile's lines of a record on chip from the stash area. -/
def State.recordRead (s : State) (p : Nat) (t : TrSlot) (r : StashRec) (tile : Nat) : State × List Line :=
  match (s.part p).recordLine t r tile with
  | none => (s, [])
  | some o =>
    let at_ := (List.range (t.stashBytes / 64)).map (fun i => o.2 + i)
    (at_.foldl (fun (s : State) l => s.bufMarks p r.job.job o.1 l) s, at_.map (fun l => s.bufRead p o.1 l))

/-- Change a job's record of a layer, wherever it is. -/
def TrSlot.modRec (t : TrSlot) (j : JobRef) (layer : Nat) (f : StashRec → StashRec) : TrSlot :=
  { t with
    stash := t.stash.map (fun r => if r.is j layer then f r else r)
    replayable := t.replayable.map (fun r => if r.is j layer then f r else r) }

/-- A job's record of a layer, and whether it is dropped. -/
def TrSlot.rec? (t : TrSlot) (j : JobRef) (layer : Nat) : Option (StashRec × Bool) :=
  match t.stash.find? (fun r => r.is j layer) with
  | some r => some (r, false)
  | none => (t.replayable.find? (fun r => r.is j layer)).map (fun r => (r, true))

/-- Put a tile's captured lines into its job's record of a layer, where that is: the stash area, its spill pages, or, of a
dropped one, what a recompute yields. -/
def State.recordPut (s : State) (p k : Nat) (j : JobRef) (layer tile : Nat) (rows : List (Option Nat)) (ls : List Line) : State :=
  let s1 := s.modSlot p k (fun t => t.modRec j layer (fun r => { r with rows := mput tile rows r.rows }))
  let t := s1.slot p k
  match t.rec? j layer with
  | none => s1
  | some (_, true) => s1.modSlot p k (fun t => t.modRec j layer (fun r => { r with lines := mput tile ls r.lines }))
  | some (r, false) => if r.place = 0 then s1.recordWrite p t r tile ls else s1.spillTile p t r tile ls

/-- A record's job counts what becomes of it. -/
def State.countStash (s : State) (c : Cmd) (spill : Bool) : State :=
  let s1 := s.modCmd c.job (fun c => if spill then { c with spills := c.spills + 1 } else { c with drops := c.drops + 1 })
  let s2 := { s1 with train :=
    if spill then { s1.train with spills := bump s1.train.freeze s1.train.spills }
    else { s1.train with drops := bump s1.train.freeze s1.train.drops } }
  s2.stashEvent c (if spill then 1 else 2)

/-- Displace a record that the slot holds: spill it where the rule and the region allow, otherwise drop it (R337). -/
def State.displace (s : State) (c : Cmd) (k : Nat) (r : StashRec) : State :=
  let t := s.slot c.part k
  let go : Option Nat := if (s.stashRule c).2 then s.spillRoom c.part t else none
  let tiles := r.rows.map Prod.fst
  match go with
  | some a =>
    let s1 := (s.stashClaim c.part t a).modSlot c.part k (fun t => t.modRec r.job r.layer (fun x => { x with place := a + 1 }))
    let s2 := tiles.foldl (fun (s : State) l =>
      let d := s.recordRead c.part t r l
      d.1.spillTile c.part t { r with place := a + 1 } l d.2) s1
    s2.countStash c true
  | none =>
    let d := tiles.foldl (fun (a : State × Map (List Line)) l =>
      let x := a.1.recordRead c.part t r l
      (x.1, mput l x.2 a.2)) (s, [])
    let s1 := d.1.modSlot c.part k (fun t => { t with
      stash := t.stash.filter (fun x => !x.is r.job r.layer), replayable := t.replayable ++ [{ r with lines := d.2 }]
      dropped := if t.dropped.contains (r.job, r.layer) then t.dropped else t.dropped ++ [(r.job, r.layer)] })
    s1.countStash c false

/-- The lowest place of the stash area that no record on chip takes. -/
def TrSlot.freeIx (t : TrSlot) : Nat := ((List.range (t.onChip.length + 1)).find? (fun i => !t.onChip.any (fun r => r.ix == i))).getD 0

/-- Hold the record of a job's layer: where S of the job's records are held, or a quadrant's area lacks room, the job's lowest
layer on chip is displaced first, or, with none of its own held, the record itself (R337, log entry 65). -/
def State.holdRecord (s : State) (c : Cmd) (k layer : Nat) : State :=
  let t := s.slot c.part k
  let own := t.onChip.filter (fun r => r.job == c.job)
  let full := decide ((s.stashRule c).1 ≤ own.length) || !(s.part c.part).stashFits t (t.onChip.length + 1)
  let add (s : State) : State := s.modSlot c.part k (fun t => { t with stash := t.stash ++ [{ job := c.job, layer := layer, ix := t.freeIx }] })
  if !full then add s
  else match minBy (fun a b => decide (a.layer ≤ b.layer)) own with
    | some low => add (s.displace c k low)
    | none => (add s).displace c k { job := c.job, layer := layer }

/-- A tile's lines of its stash window for a layer. -/
def State.windowLines (s : State) (p : Nat) (tl : TileId) (ctx : Nat) (t : TrSlot) (layer : Nat) : List Line :=
  (List.range (t.stashBytes / 64)).map (fun i =>
    lineAt (s.tile tl).scratch.lines ((s.part p).sharesOf ctx) (t.stashOff + layer % 2 * t.stashBytes + 64 * i))

/-- Change a job's position in a tile. -/
def State.modTJob (s : State) (tl : TileId) (ctx : Nat) (j : JobRef) (f : TJob → TJob) : State :=
  s.modTile tl (fun t => { t with ctxs := mmod {} t.ctxs ctx (fun c => { c with jobs := c.jobs.map (fun x => if x.job = j then f x else x) }) })

/-- The running TRAIN_STEP of a context in a tile, with its position. -/
def State.trainOf (s : State) (p : Nat) (tl : TileId) (ctx : Nat) : Option (Cmd × TJob) :=
  if ((s.part p).ctxs.getD ctx {}).res != .resident then none
  else match (mget {} (s.tile tl).ctxs ctx).job? with
  | some j => (s.cmd j.job).bind (fun c => if c.op == 0x02 then some (c, j) else none)
  | none => none

/-- STASH_CAPTURE_DONE: a tile's window of a layer goes into the layer's record. `rows` names the job row that each line of
the window belongs to, none for no row (R338, log entry 69). -/
def execStashCaptureDone (tl : TileId) (ctx layer : Nat) (rows : List (Option Nat)) (s : State) : Host.Outcome State Fault Refusal :=
  .next <| match s.ownerOf tl with
  | none => s
  | some p =>
    match s.trainOf p tl ctx, (s.part p).logical tl with
    | some (c, j), some l =>
      if !j.captures.contains layer then s
      else
        let k := c.param 0x20 1
        let ls := s.windowLines p tl ctx (s.slot p k) layer
        let s1 := if ((s.slot p k).rec? c.job layer).isSome then s else s.holdRecord c k layer
        let s2 := (s1.tileMarks tl p c.job.job ((List.range ((s.slot p k).stashBytes / 64)).filterMap (fun i =>
          shareLine ((s.part p).sharesOf ctx) ((s.slot p k).stashOff + layer % 2 * (s.slot p k).stashBytes + 64 * i)))).recordPut p k c.job layer l rows ls
        (s2.modTJob tl ctx j.job (fun x => { x with captures := x.captures.filter (fun n => n != layer) })).resched p
    | _, _ => s

/-- Replay for a dropped layer (R339), once: the layers from the highest record held below it are counted,
and those among them without a record are captured again. -/
def State.replay (s : State) (c : Cmd) (k layer : Nat) : State :=
  let t := s.slot c.part k
  if !t.dropped.contains (c.job, layer) then s
  else
    let below := (t.stash.filter (fun r => r.job == c.job && decide (r.layer < layer))).map StashRec.layer
    let j := below.foldl max 0
    let n := if below.isEmpty then layer else layer - j
    let again := sortBy (fun a b => decide (a.layer ≤ b.layer))
      (t.replayable.filter (fun r => r.job == c.job && decide (r.layer < layer) && (below.isEmpty || decide (j < r.layer))))
    let s1 := s.modSlot c.part k (fun t => { t with
      dropped := t.dropped.filter (fun x => x != (c.job, layer) && !(again.any (fun r => (r.job, r.layer) == x)))
      replayable := t.replayable.filter (fun r => !(again.any (fun x => x.is r.job r.layer))) })
    let s2 := s1.modCmd c.job (fun c => { c with replays := c.replays + n })
    let s3 := { s2 with train := { s2.train with replays := bump s2.train.freeze s2.train.replays n } }
    again.foldl (fun (s : State) r => r.lines.foldl (fun (s : State) x =>
      s.recordPut c.part k c.job r.layer x.1 (mget [] r.rows x.1) x.2) (s.holdRecord c k r.layer)) s3

/-- One line that a restore from the spill region writes: KIND ROW with the tag word of the line's row, KIND DOMAIN for a line
of no row; one of a foreign page is poisoned (R338). -/
def State.restoreLineOf (s : State) (c : Cmd) (t : TrSlot) (loc : LineLoc) (row : Option Nat) (v : Line) : Line :=
  let a := s.attr loc
  let m : LineKind × Nat := match row.bind (fun n => c.rows[n]?) with
    | some r => (.row, r.word)
    | none => (.domain, t.domain * 2 ^ 20)
  { data := v.data, marks := v.marks, kind := m.1, tag := m.2
    poison := if a.valid && !a.shared && a.domain == t.domain then 0 else 1 }

/-- The lines of a tile that a restore writes: a record on chip or replayed keeps its metadata, one from the spill region
takes its rows' tags (R338). -/
def State.restoreLines (s : State) (c : Cmd) (t : TrSlot) (r : StashRec) (dropped : Bool) (l : Nat) : State × List Line :=
  if dropped then (s, mget [] r.lines l)
  else if r.place = 0 then s.recordRead c.part t r l
  else match s.spillOff c.part t (r.place - 1) l with
    | none => (s, [])
    | some o =>
      let rows := mget [] r.rows l
      (List.range (t.stashBytes / 64)).foldl (fun (a : State × List Line) i =>
        match a.1.pma c.part o.1 2 (o.2 + 64 * i) with
        | none => a
        | some loc =>
          let x := a.1.stackRead loc c.part r.job.job []
          (x.1, a.2 ++ [s.restoreLineOf c t loc (rows.getD i none) x.2])) (s, [])

/-- A restore of a layer may run: the layers two and more above it with the same window are done (R335). -/
def TJob.mayRestore (j : TJob) (t : TrSlot) (layer : Nat) : Bool :=
  j.backward && !j.restored.contains layer && !j.captures.contains layer &&
  (t.stash ++ t.replayable).all (fun r => r.job != j.job || decide (r.layer ≤ layer) || r.layer % 2 != layer % 2 || j.bwdDone.contains r.layer)

/-- STASH_RESTORE_DONE: the record of a layer is back in its window of a tile. -/
def execStashRestoreDone (tl : TileId) (ctx layer : Nat) (s : State) : Host.Outcome State Fault Refusal :=
  .next <| match s.ownerOf tl with
  | none => s
  | some p =>
    match s.trainOf p tl ctx, (s.part p).logical tl with
    | some (c, j), some l =>
      let k := c.param 0x20 1
      if !j.mayRestore (s.slot p k) layer then s
      else
        let s1 := s.replay c k layer
        let t := s1.slot p k
        match t.rec? c.job layer with
        | none => s
        | some (r, d) =>
          if !r.rows.any (fun e => e.1 == l) then s
          else
            let x := s1.restoreLines c t r d l
            let s2 := x.1.modTile tl (fun y => y.putLines ((s.part p).sharesOf ctx) (t.stashOff + layer % 2 * t.stashBytes) x.2)
            (s2.modTJob tl ctx j.job (fun x => { x with restored := x.restored ++ [layer] })).resched p
    | _, _ => s

end Sys2Proof.Machine
end

