-- ==== Sys2Proof/Machine/Bind.lean ====
section
/-! DEFINITION. Operations over JANUS (chapter 12): ports, sessions and bindings change state, credits and
grants, and what a lost binding ends. -/

namespace Sys2Proof.Machine

/-! ### Access -/

/-- The state that an outcome reaches; `s` where it reaches none. -/
def reached (o : Host.Outcome State Fault Refusal) (s : State) : State :=
  match o with
  | .next t => t
  | _ => s

/-- Port `p`. -/
def State.port (s : State) (p : Nat) : JPort := s.jan.ports.getD p {}
/-- Change a port. -/
def State.modPort (s : State) (p : Nat) (f : JPort → JPort) : State :=
  { s with jan := { s.jan with ports := s.jan.ports.modify p f } }
/-- Binding `b`. -/
def State.bind (s : State) (b : Nat) : Binding := mget {} s.jan.bindings b
/-- The session to peer `n`. -/
def State.sess (s : State) (n : Nat) : PeerSession := mget {} s.jan.sessions n
/-- Change a session. -/
def State.modSess (s : State) (n : Nat) (f : PeerSession → PeerSession) : State :=
  { s with jan := { s.jan with sessions := mmod {} s.jan.sessions n f } }
/-- The route entry of peer `n`. -/
def State.route (s : State) (n : Nat) : Route := mget {} s.jan.routes n
/-- This device's peer ID. -/
def State.self (s : State) : Nat := s.glb.cfg.selfPeer

/-- A port counter of Table 12.17. -/
def State.portCount (s : State) (p i : Nat) (n : Nat := 1) : State :=
  s.modPort p (fun x => { x with ctr := x.ctr.modify i (fun c => bump x.freeze c n) })
/-- A device counter of Table 12.20. -/
def State.janCount (s : State) (i : Nat) : State :=
  { s with jan := { s.jan with ctr := s.jan.ctr.modify i (fun c => bump s.jan.freeze c) } }

/-- A port changes state: its source fires (Table 14.3). -/
def State.setPort (s : State) (p : Nat) (st : PortState) : State :=
  if (s.port p).state = st then s else (s.modPort p (fun x => { x with state := st })).fire (0x110 + p)

/-- A binding changes state: the JANUS source fires. -/
def State.setBind (s : State) (b : Nat) (st : BState) : State :=
  if (s.bind b).state = st then s else (s.modBinding b (fun x => { x with state := st })).fire 0x120

/-- A session changes state: the JANUS source fires. -/
def State.setSess (s : State) (n st : Nat) : State :=
  if (s.sess n).state = st then s else (s.modSess n (fun x => { x with state := st })).fire 0x120

/-! ### Ports and routes (R445, R446) -/

/-- A port is UP. -/
def State.portUp (s : State) (p : Nat) : Bool := (s.port p).state == .up

/-- The port of a set that comes next in a round robin from `rr` and meets `ok`. -/
def nextPort (mask rr : Nat) (ok : Nat → Bool) : Option Nat :=
  ((List.range 16).map (fun i => (rr + i) % 16)).find? (fun p => bitOf mask p && ok p)

/-- A credit of hop class `h` is held. -/
def JPort.hasCredit (x : JPort) (h : Nat) : Bool := x.credits.getD h 0 != 0 || x.shared != 0

/-- Draw a credit: the class's own first, then a shared one (R446). -/
def JPort.drawCredit (x : JPort) (h : Nat) : JPort :=
  if x.credits.getD h 0 ≠ 0 then { x with credits := x.credits.modify h (· - 1) }
  else { x with shared := x.shared - 1, drawn := x.drawn.modify h (· + 1) }

/-- A return of `n` credits of class `h`: the shared ones that it drew first, then its own (R446). -/
def JPort.giveCredit (x : JPort) (h n : Nat) : JPort :=
  let k := min n (x.drawn.getD h 0)
  { x with shared := x.shared + k, drawn := x.drawn.modify h (· - k), credits := x.credits.modify h (fun c => min 32 (c + (n - k))) }

/-- A frame leaves the hop buffer of port `p`: its credit is due back. -/
def State.freeHop (s : State) (p h : Nat) : State :=
  s.modPort p (fun x => { x with returns := x.returns.modify h (· + 1), linkDue := true })

/-! ### Grants (R454 to R456) -/

/-- A binding holds slots of its partition's pool. -/
def BState.holds : BState → Bool
  | .free => false
  | .quarantine => false
  | _ => true

/-- Free shared slots of a partition: its slots less the grants of its bindings. -/
def State.freeSlots (s : State) (p : Nat) : Nat :=
  (s.part p).credits * 128 - ((s.jan.bindings.filter (fun b => b.2.part == p && b.2.state.holds)).map
    (fun b => b.2.data.grant + b.2.ctrl.grant)).sum

/-- A class as it stands at open. -/
def BClass.opened (n now rr : Nat) : BClass := { grant := n, credit := n, idleSince := now, rr := rr }

/-- A binding's classes as they stand at open. -/
def Binding.atOpen (b : Binding) (now : Nat) : Binding :=
  { b with data := BClass.opened b.minSlots now b.data.rr, ctrl := BClass.opened 4 now b.ctrl.rr }

/-! ### Loss of a binding (R453, R264, R356) -/

/-- Commits that use a lost domain binding roll back. -/
def State.bindCommits (s : State) (b : Binding) : State :=
  (List.range 16).foldl (fun (s : State) k =>
    let t := s.slot b.part k
    match t.commit with
    | some cm =>
      if t.domain == b.domain && t.state == .committing && cm.members.contains b.peer && cm.phase != .decided &&
          (cm.coord || cm.phase != .voted) then s.rollBack b.part k 0x3A
      else s
    | none => s) s

/-- Work that used binding `b` fails as its owner states. -/
def State.bindLost (s : State) (b : Nat) : State :=
  let x := s.bind b
  if x.kind = 2 then s.bindCommits x
  else (s.mul.gathers.filter (fun g => g.binding == b)).foldl (fun (s : State) g =>
    if s.mul.gathers.any (fun y => y.tag == g.tag) then s.gatherFail g else s) s

/-- A DOWN binding returns to OPEN once its session is UP, with the next KEY_GEN (R453). -/
def State.reopen (s : State) (b : Nat) : State :=
  let x := s.bind b
  if x.state = .down && (s.sess x.peer).state = 2 then
    (s.setBind b .open_).modBinding b (fun y => { y.atOpen s.now with keyGen := (y.keyGen + 1) % 4 })
  else s

/-- An OPEN binding goes DOWN: SEQ restarts, credits return to their values at open, and its work fails. -/
def State.bindDown (s : State) (b : Nat) : State :=
  if (s.bind b).state = .open_ then
    (((s.setBind b .down).modBinding b (fun y => y.atOpen s.now)).bindLost b).reopen b
  else s

/-- The bindings to a peer. -/
def State.bindingsTo (s : State) (n : Nat) : List Nat := (s.jan.bindings.filter (fun b => b.2.peer == n)).map Prod.fst

/-- An UP session goes down (R463): EV_LINK_DOWN with the peer, and every binding to the peer DOWN. -/
def State.sessDown (s : State) (n cause : Nat) : State :=
  if (s.sess n).state ≠ 2 then s
  else
    let s1 := ((s.setSess n 3).modSess n (fun x => { x with hs := none })).janCount 7
    let s2 := s1.raise 0x0B 0x120 0xFF (0x8000 + n) cause
    (s2.bindingsTo n).foldl State.bindDown s2

/-- A session's route has no UP port left (cause 0x6), and each binding whose set holds port `p` goes DOWN. -/
def State.routeLoss (s : State) (p : Nat) : State :=
  let peers := (s.jan.routes.filter (fun r => r.2.valid && bitOf r.2.mask p)).map Prod.fst
  peers.foldl (fun (s : State) n =>
    let s1 := if (nextPort (s.route n).mask 0 s.portUp).isNone then s.sessDown n 6 else s
    (s1.bindingsTo n).foldl State.bindDown s1) s

/-! ### ORBIT's distance (R460) -/

/-- The parent: an UP port whose peer is synchronised at the smallest DIST, the lowest peer ID on a tie. -/
def State.parentOf (s : State) : Option (Nat × Nat) :=
  (minBy (fun (a b : Nat × Nat × Nat) => decide (a.1 < b.1) || (a.1 == b.1 && decide (a.2.1 ≤ b.2.1)))
    (s.jan.ports.zipIdx.filterMap (fun x => match x.1.link with
      | some l => if x.1.state = .up && l.1.synced then some (l.1.dist, x.1.peer, x.2) else none
      | none => none))).map (fun x => (x.2.2, x.1))

/-- SYNCED changes: ORBIT's source fires. -/
def State.setSynced (s : State) (v : Bool) : State :=
  if s.jan.synced = v then s else ({ s with jan := { s.jan with synced := v } }).fire 0x127

/-- Bring DIST and PARENT up to date; a device that loses its parent is no longer synchronised. -/
def State.orbitTree (s : State) : State :=
  if s.glb.cfg.role = 2 then { s with jan := { s.jan with dist := 0 } }
  else match s.parentOf with
    | some (p, d) => { s with jan := { s.jan with parent := p, dist := if d + 1 ≤ 4 then d + 1 else 0xFF } }
    | none => ({ s with jan := { s.jan with dist := 0xFF, good := 0 } }).setSynced false

/-! ### Ports (R462, R463) -/

/-- A port without its link: retry, hop credits and hop key start again. -/
def JPort.fresh (x : JPort) : JPort :=
  { x with
    synced := false, hs := none, hopKey := false, linkSeq := 0, hopKeys := 0, txHseq := 0, rxHseq := 0, replay := [], replaying := 0
    nakDue := false, nakSeen := false, linkDue := false
    credits := [32, 32, 32, 32], shared := 896, drawn := [0, 0, 0, 0], returns := [0, 0, 0, 0], queue := [], link := none }

/-- An UP port goes down with a cause: EV_LINK_DOWN, and lane training starts again. -/
def State.portDown (s : State) (p cause : Nat) : State :=
  if !s.portUp p then s
  else
    let s1 := (s.setPort p .training).modPort p (fun x => { x.fresh with lastCause := cause, lanes := x.lanes.map (fun l => (l.1, (false, l.2.2))) })
    let s2 := (s1.portCount p 8).raise 0x0B (0x110 + p) 0xFF p cause
    (s2.routeLoss p).orbitTree

/-! ### Sessions -/

/-- Put a frame into a port's queue. -/
def State.pushFrame (s : State) (p : Nat) (f : TxFrame) : State :=
  let s1 := s.modPort p (fun x => { x with queue := x.queue ++ [{ f with order := s.jan.order }] })
  { s1 with jan := { s1.jan with order := s1.jan.order + 1 } }

/-- The port by which a frame to peer `n` leaves. -/
def State.outPort (s : State) (n : Nat) : Option Nat :=
  if (s.route n).valid then nextPort (s.route n).mask 0 s.portUp else none

/-- Send a message on a peer session (VC 0, control class). -/
def State.sendSession (s : State) (n units : Nat) (m : JMsg) : State :=
  match s.outPort n with
  | none => s
  | some p =>
    let q := (s.sess n).txSeq
    let h : FrameHdr := { typ := 2, cls := 1, units := units, level := s.recLevel, dst := n, src := s.self, vc := 0, seq := q }
    (s.modSess n (fun x => { x with txSeq := (q + 1) % 2 ^ 32 })).pushFrame p
      { hdr := h, msgs := [m], binding := 0, part := 0xFF, fwd := false, order := 0 }

/-- Send a handshake message: LOCAL on a port, or along the route to a peer. -/
def State.sendHs (s : State) (a : HsAt) (units : Nat) (m : JMsg) : State :=
  let h : FrameHdr := { typ := 3, cls := 1, units := units, level := s.recLevel, src := s.self }
  match a with
  | .port p => s.pushFrame p { hdr := { h with local_ := true }, msgs := [m], binding := 0, part := 0xFF, fwd := false, order := 0 }
  | .peer n =>
    match s.outPort n with
    | some p => s.pushFrame p { hdr := { h with dst := n }, msgs := [m], binding := 0, part := 0xFF, fwd := false, order := 0 }
    | none => s

/-- This device's HELLO, with a fresh nonce and a fresh public key. -/
def State.makeHello (s : State) : HelloMsg × State :=
  let a := s.draw 256
  let b := a.2.draw 768
  ({ level := s.recLevel, role := s.glb.cfg.role, peer := s.self, groupSize := s.glb.cfg.groupSize, uid := s.fuses.uid
     nonce := a.1.toNat, key := leBytes 96 b.1.toNat }, b.2)

/-- The handshake at a place. -/
def State.hsAt (s : State) : HsAt → Option Handshake
  | .port p => (s.port p).hs
  | .peer n => (s.sess n).hs
/-- Set the handshake at a place. -/
def State.setHs (s : State) (a : HsAt) (h : Option Handshake) : State :=
  match a with
  | .port p => s.modPort p (fun x => { x with hs := h })
  | .peer n => s.modSess n (fun x => { x with hs := h })

/-- Begin a handshake: HELLO goes out. -/
def State.beginHs (s : State) (a : HsAt) : State :=
  let m := s.makeHello
  (m.2.setHs a (some { ours := m.1 })).sendHs a 3 (.hello m.1)

/-- Open a session where none stands: it begins handshaking. -/
def State.openSess (s : State) (n : Nat) : State :=
  if (s.sess n).state = 1 || (s.sess n).state = 2 then s else (s.setSess n 1).beginHs (.peer n)

/-- A session whose last binding has closed is closed (R450). -/
def State.closeSess (s : State) (n : Nat) : State :=
  if (s.jan.bindings.any (fun b => b.2.peer == n && b.2.state.holds)) then s
  else if (s.sess n).state = 0 then s
  else ({ s with jan := { s.jan with sessions := mdel n s.jan.sessions } }).fire 0x120

/-! ### Offers and closing (R452, R453) -/

/-- The offer of a waiting binding. -/
def State.offerOf (s : State) (b : Nat) : Offer :=
  let x := s.bind b
  { kind := x.kind, binding := b, part := x.part, remotePart := x.remotePart, domain := x.domain, remoteDomain := x.remoteDomain
    keyDigest := if x.kind = 2 then (sha384 (s.dom x.domain).manifestKey).toNat else 0
    linkSeed := if x.kind = 2 then leNat (kdf (leBytes 32 (s.dom x.domain).kd.toNat) "JANUS" [] 256) else 0 }

/-- Does an offer of peer `n` mirror a local request? -/
def Binding.mirrors (x : Binding) (n : Nat) (o : Offer) : Bool :=
  x.peer == n && x.kind == o.kind && x.part == o.remotePart && x.remotePart == o.part &&
  x.domain == o.remoteDomain && x.remoteDomain == o.domain

/-- A mirrored request opens, or is refused (R452). -/
def State.matchOffer (s : State) (b : Nat) (o : Offer) : State :=
  let x := s.bind b
  let ok := x.kind == 1 || ((s.dom x.domain).open_ && !(s.dom x.domain).closing && o.keyDigest == (s.offerOf b).keyDigest)
  if ok then (s.setBind b .open_).modBinding b (fun y => { y.atOpen s.now with remote := o.binding, keyGen := 0 })
  else s.setBind b .refused

/-- Send a waiting binding's offer once its session is UP, and match it with an offer that is kept. -/
def State.offer (s : State) (b : Nat) : State :=
  let x := s.bind b
  if x.state != .waiting || (s.sess x.peer).state ≠ 2 then s
  else
    let s1 := s.sendSession x.peer 2 (.offer (s.offerOf b))
    match s1.jan.offers.find? (fun e => x.mirrors e.1 e.2.1) with
    | some e => ({ s1 with jan := { s1.jan with offers := s1.jan.offers.filter (fun y => y.1 != e.1 || y.2.1 != e.2.1) } }).matchOffer b e.2.1
    | none => s1

/-- A closed binding enters QUARANTINE. -/
def State.quarantine (s : State) (b : Nat) : State :=
  ((s.setBind b .quarantine).modBinding b (fun x => { x with since := s.now })).closeSess (s.bind b).peer

/-- Close every binding that meets `f`, ending the work that used it. -/
def State.closeBindings (s : State) (f : Binding → Bool) : State :=
  ((s.jan.bindings.filter (fun b => f b.2)).map Prod.fst).foldl (fun (s : State) b =>
    (if (s.bind b).state = .open_ then s.bindLost b else s).closeBinding b) s

/-- The close of a domain begins: its handles are evicted with REMOVE and FORCE in ascending order, and its bindings close,
with the work that used them (R312, R453). -/
def State.closeDomain (s : State) (d : Nat) : State :=
  let s1 := s.modDom d (fun x => { x with closing := true })
  let hs := (s1.dir.entries.filter (fun e => e.2.domain == d && e.2.state != .free)).map Prod.fst
  (hs.foldl State.forceRemove s1).closeBindings (fun b => b.kind == 2 && b.domain == d)

end Sys2Proof.Machine
end

