-- ==== Sys2Proof/Machine/Janus.lean ====
section
/-! DEFINITION. Chapter 12's commands: bring-up, handshakes, frames, bindings, credits and ORBIT
synchronisation. -/

namespace Sys2Proof.Machine

/-! ### Bring-up (R462) -/

/-- PORT_CALIBRATION_DONE. A port whose calibration fails stays without light (R603). -/
def execPortCalibrationDone (p : Nat) (ok : Bool) (s : State) : Host.Outcome State Fault Refusal :=
  .next (if (s.port p).state = .calibrating then s.setPort p (if ok then .training else .off) else s)

/-- LANE_TRAINING_DONE. Fibre above 1,000 m does not train (R439). Attestation waits for READY (R603). -/
def execLaneTrainingDone (p rtt : Nat) (lanes : List (Nat × Nat)) (fibreM : Nat) (s : State) : Host.Outcome State Fault Refusal :=
  .next <|
    if (s.port p).state != .training then s
    else if 1000 < fibreM then s.setPort p .noPeer
    else
      let m := lanes.zipIdx.foldl (fun (m : Map (Bool × Nat × Nat)) x => mput x.2 (true, x.1) m) []
      let s1 := (s.modPort p (fun x => { x.fresh with rtt := rtt, lanes := m })).setPort p .attesting
      if s.isReady then s1.beginHs (.port p) else s1

/-- NO_PEER_TIMEOUT. -/
def execNoPeerTimeout (p : Nat) (s : State) : Host.Outcome State Fault Refusal :=
  .next (if (s.port p).state = .training then s.setPort p .noPeer else s)

/-- NO_PEER_RETRY. -/
def execNoPeerRetry (p : Nat) (s : State) : Host.Outcome State Fault Refusal :=
  .next (if (s.port p).state = .noPeer then s.setPort p .training else s)

/-- A port between training and UP loses its light: stage 2 begins again. -/
def State.relight (s : State) (p : Nat) : State :=
  match (s.port p).state with
  | .attesting => (s.setPort p .training).modPort p JPort.fresh
  | .keys => (s.setPort p .training).modPort p JPort.fresh
  | .attestFailed => (s.setPort p .training).modPort p JPort.fresh
  | _ => s

/-- LANE_LOCK_LOST. -/
def execLaneLockLost (p lane : Nat) (s : State) : Host.Outcome State Fault Refusal :=
  .next <|
    let s1 := (if s.portUp p then s.portDown p 1 else s.relight p)
    s1.modPort p (fun x => { x with lanes := x.lanes.map (fun l => if l.1 = lane then (l.1, (false, l.2.2)) else l) })

/-- PORT_RX_TIMEOUT. -/
def execPortRxTimeout (p : Nat) (s : State) : Host.Outcome State Fault Refusal := .next (s.portDown p 3)

/-- RETRAIN. -/
def execRetrain (p : Nat) (s : State) : Host.Outcome State Fault Refusal := .next (s.portDown p 5)

/-! ### Handshakes (R448 to R450) -/

/-- What this device's PROOF shows. -/
def State.ownProof (s : State) : ProofMsg :=
  { chainOk := true, sigOk := true, level := s.recLevel, lifecycle := s.lc, debug := s.tri.debug
    tritonSvn := s.vault.tritonSvn, seqSvn := s.vault.seqSvn, bytes := s.vault.chain }

/-- Send PROOF: 8 bytes, the report header and FIRMWARE section, the chain and the signature, in units of 64
bytes, 16 to a frame; the last frame carries the message. -/
def State.sendProof (s : State) (a : HsAt) : State :=
  let u := ceilDiv (8 + 96 + 256 + ceilDiv s.vault.chain.length 8 * 8 + 96) 64
  ((List.range ((u - 1) / 16)).foldl (fun (s : State) _ => s.sendHs a 16 (.proof { s.ownProof with chainOk := false })) s).sendHs a
    ((u - 1) % 16 + 1) (.proof s.ownProof)

/-- Take the other side's HELLO and answer with PROOF. -/
def State.takeHello (s : State) (a : HsAt) (m : HelloMsg) : State :=
  match s.hsAt a with
  | some h => if h.failed then s else (s.setHs a (some { h with theirs := some m, proofOk := false })).sendProof a
  | none => s

/-- HELLO. On an UP session it is ignored; from a peer without a route it is dropped (R449). -/
def execHello (at_ : HsAt) (m : HelloMsg) (s : State) : Host.Outcome State Fault Refusal :=
  .next <| match at_ with
  | .port p => if (s.port p).state = .attesting then s.takeHello at_ m else s
  | .peer n =>
    if !(s.route n).valid || (s.sess n).state = 2 then s
    else (s.l2Wake.openSess n).takeHello at_ m

/-- A handshake is given up (R449). -/
def State.giveUp (s : State) (a : HsAt) : State :=
  let s1 := match s.hsAt a with
    | some h => s.setHs a (some { h with failed := true, failedAt := s.now })
    | none => s
  match a with
  | .port p => (s1.janCount 6).setPort p .attestFailed
  | .peer n => (s1.janCount 6).setSess n 3

/-- A peer ID stands with another UNIQUE_ID on an attested port or session (R449, check 6). -/
def State.idTaken (s : State) (a : HsAt) (m : HelloMsg) : Bool :=
  s.jan.ports.zipIdx.any (fun x => a != .port x.2 && x.1.state == .up && x.1.peer == m.peer && x.1.uid != m.uid) ||
  (a != .peer m.peer && (s.sess m.peer).state == 2 && (s.sess m.peer).uid != m.uid)

/-- The checks of R449 but the MAC, after those of R5: reserved fields, and a ROLE of Table 2.6. -/
def State.proofOk (s : State) (a : HsAt) (t : HelloMsg) (m : ProofMsg) : Bool :=
  let g := s.glb.cfg.groupSize
  !m.reserved && !t.reserved && decide (t.role < 3) && m.chainOk && m.sigOk && m.level == s.recLevel && t.level == s.recLevel &&
  (m.lifecycle == 2 || m.lifecycle == 3) && m.lifecycle == s.lc && m.debug == 0 &&
  decide (s.fuses.tritonFloor ≤ m.tritonSvn) && decide (s.fuses.seqFloor ≤ m.seqSvn) &&
  t.groupSize == g && decide (t.peer < g) && decide (s.self < g) && t.peer != s.self && !s.idTaken a t

/-- PROOF. -/
def execProof (at_ : HsAt) (m : ProofMsg) (s : State) : Host.Outcome State Fault Refusal :=
  .next <| match s.hsAt at_ with
  | none => s
  | some h => match h.theirs with
    | none => s
    | some t =>
      if h.failed || h.proofOk then s
      else if s.proofOk at_ t m then (s.setHs at_ (some { h with proofOk := true })).sendHs at_ 1 .finish
      else s.giveUp at_

/-- A port is UP: attested, with hop keys. -/
def State.portOpened (s : State) (p : Nat) (t : HelloMsg) : State :=
  ((s.modPort p (fun x => { x with hs := none, peer := t.peer, uid := t.uid, hopKey := true, linkDue := true })).setPort p .up).orbitTree

/-- A session is UP: DOWN bindings return to OPEN, and waiting ones send their offers. -/
def State.sessOpened (s : State) (n : Nat) (t : HelloMsg) : State :=
  let k := s.draw 256
  let s1 := (k.2.setSess n 2).modSess n (fun x => { x with
    hs := none, uid := t.uid, role := t.role, lo := decide (s.self < n), txSeq := 0, rxSeq := 0, early := []
    lastTx := s.now, lastRx := s.now, prk := k.1 })
  (s1.bindingsTo n).foldl (fun (s : State) b => (s.reopen b).offer b) s1

/-- HANDSHAKE_FINISH. -/
def execHandshakeFinish (at_ : HsAt) (macOk : Bool) (s : State) : Host.Outcome State Fault Refusal :=
  .next <| match s.hsAt at_ with
  | none => s
  | some h => match h.theirs with
    | none => s
    | some t =>
      if h.failed || !h.proofOk then s
      else if !macOk then s.giveUp at_
      else match at_ with
        | .port p => s.portOpened p t
        | .peer n => s.sessOpened n t

/-- HANDSHAKE_RETRY: 1 s after the handshake was given up. A session that went down is retried as well while a
binding needs it. -/
def execHandshakeRetry (at_ : HsAt) (s : State) : Host.Outcome State Fault Refusal :=
  .next <|
    let due := match s.hsAt at_ with
      | some h => h.failed && decide (h.failedAt + 1200000000 ≤ s.now)
      | none => true
    match at_ with
    | .port p => if (s.port p).state = .attestFailed && due then (s.setPort p .attesting).beginHs at_ else s
    | .peer n => if (s.sess n).state = 3 && due && (s.route n).valid then s.openSess n else s

/-- KEEPALIVE_TIMER: 100 µs without sending on VC 0. -/
def execKeepaliveTimer (n : Nat) (s : State) : Host.Outcome State Fault Refusal :=
  .next <|
    if (s.sess n).state = 2 && decide ((s.sess n).lastTx + 120000 ≤ s.now) then
      (s.modSess n (fun x => { x with lastTx := s.now })).sendSession n 1 .keepalive
    else s

/-- KEEPALIVE. -/
def execKeepalive (n : Nat) (s : State) : Host.Outcome State Fault Refusal :=
  .next (if (s.sess n).state = 2 then s.modSess n (fun x => { x with lastRx := s.now }) else s)

/-- SESSION_TIMEOUT: nothing valid for 1 ms. -/
def execSessionTimeout (n : Nat) (s : State) : Host.Outcome State Fault Refusal :=
  .next (if (s.sess n).lastRx + 1200000 ≤ s.now then s.sessDown n 3 else s)

/-! ### Bindings (R451 to R456, R470, R471) -/

/-- A binding request ends with RESULT. -/
def State.bindResult (s : State) (op r : Nat) : State :=
  ({ s with jan := { s.jan with op := op, done := true, result := r } }).fire 0x120

/-- The lowest FREE binding number. -/
def State.freeBinding (s : State) : Option Nat :=
  ((List.range (s.jan.bindings.length + 1)).map (· + 1)).find? (fun b => (s.bind b).state == .free && decide (b ≤ 16383))

/-- The slots of R455 and JAN_BIND_ARG2 allow the open. -/
def State.slotsOk (s : State) (p mn mx : Nat) : Bool :=
  decide (16 ≤ mn) && decide (mn ≤ mx) && decide (mx ≤ 65535) && decide (mn + 4 ≤ s.freeSlots p)

/-- A binding becomes WAITING, its session opens, and its offer goes out. -/
def State.request (s : State) (op b : Nat) (x : Binding) : State :=
  let s1 := (s.modBinding b (fun _ => { x.atOpen s.now with state := .waiting })).fire 0x120
  let s2 := ((s1.openSess x.peer).offer b).bindResult op 0
  { s2 with jan := { s2.jan with number := b } }

/-- A binding of a kind to a peer exists already (R451). -/
def State.bindExists (s : State) (kind peer p d : Nat) : Bool :=
  s.jan.bindings.any (fun b => b.2.kind == kind && b.2.peer == peer && b.2.state.holds &&
    (if kind = 1 then b.2.part == p else b.2.domain == d))

/-- BIND_OPEN_PART. -/
def execBindOpenPart (s : State) : Host.Outcome State Fault Refusal :=
  .next <|
    let peer := bitsOf s.jan.arg0 16 12
    let p := bitsOf s.jan.arg0 0 8
    let mn := bitsOf s.jan.arg2 0 16
    let mx := bitsOf s.jan.arg2 16 16
    if !s.isReady then s
    else if s.glb.cfg.role = 0 then s.bindResult 1 2
    else if !(s.route peer).valid then s.bindResult 1 3
    else if (s.part p).state != .active then s.bindResult 1 4
    else if !s.slotsOk p mn mx then s.bindResult 1 6
    else match s.freeBinding with
      | none => s.bindResult 1 7
      | some b =>
        if s.bindExists 1 peer p 0 then s.bindResult 1 0xA
        else s.request 1 b { kind := 1, part := p, peer := peer, remotePart := bitsOf s.jan.arg0 8 8, minSlots := mn, maxSlots := mx }

/-- BIND_OPEN_DOMAIN. -/
def execBindOpenDomain (s : State) : Host.Outcome State Fault Refusal :=
  .next <|
    let peer := bitsOf s.jan.arg0 16 12
    let d := bitsOf s.jan.arg1 0 12
    let mn := bitsOf s.jan.arg2 0 16
    let mx := bitsOf s.jan.arg2 16 16
    if !s.isReady then s
    else if s.glb.cfg.role = 0 then s.bindResult 2 2
    else if !(s.route peer).valid then s.bindResult 2 3
    else match s.partOfDomain d with
      | none => s.bindResult 2 5
      | some p =>
        if (s.part p).state != .active then s.bindResult 2 4
        else if !s.domainOk p d then s.bindResult 2 5
        else if !s.slotsOk p mn mx then s.bindResult 2 6
        else match s.freeBinding with
          | none => s.bindResult 2 7
          | some b => match s.partBinding p peer with
            | none => s.bindResult 2 8
            | some pb =>
              if s.bindExists 2 peer p d then s.bindResult 2 0xA
              else s.request 2 b { kind := 2, part := p, peer := peer, remotePart := (s.bind pb).remotePart, domain := d
                                   remoteDomain := bitsOf s.jan.arg1 16 12, minSlots := mn, maxSlots := mx }

/-- Leave a binding: its work ends and CLOSE goes out. -/
def State.leave (s : State) (b : Nat) : State := (if (s.bind b).state = .open_ then s.bindLost b else s).closeBinding b

/-- BIND_CLOSE. -/
def execBindClose (s : State) : Host.Outcome State Fault Refusal :=
  .next <|
    let b := s.jan.bindingArg
    if !s.isReady then s
    else if !(s.bind b).state.holds then s.bindResult 3 9 else (s.leave b).bindResult 3 0

/-- BIND_OFFER. -/
def execBindOffer (n : Nat) (o : Offer) (s : State) : Host.Outcome State Fault Refusal :=
  .next <|
    if (s.sess n).state ≠ 2 then s
    else match s.jan.bindings.find? (fun b => b.2.state == .waiting && b.2.mirrors n o) with
    | some b => s.matchOffer b.1 o
    | none => { s with jan := { s.jan with offers := s.jan.offers ++ [(n, o, s.now)] } }

/-- BIND_OFFER_EXPIRY: after 1 s. -/
def execBindOfferExpiry (n : Nat) (o : Offer) (s : State) : Host.Outcome State Fault Refusal :=
  .next { s with jan := { s.jan with offers := s.jan.offers.filter (fun e =>
    !(e.1 == n && e.2.1 == o && decide (e.2.2 + 1200000000 ≤ s.now))) } }

/-- CLOSE: the answer goes out where the binding was OPEN, and the binding is closed. -/
def execClose (binding : Nat) (s : State) : Host.Outcome State Fault Refusal :=
  .next <| match (s.bind binding).state with
  | .open_ => (s.leave binding).quarantine binding
  | .closing => s.quarantine binding
  | _ => s

/-- CLOSING_TIMEOUT: 100 µs without a CLOSE. -/
def execClosingTimeout (binding : Nat) (s : State) : Host.Outcome State Fault Refusal :=
  .next (if (s.bind binding).state = .closing && decide ((s.bind binding).since + 120000 ≤ s.now) then s.quarantine binding else s)

/-- QUARANTINE_EXPIRY: 1 ms later the number is FREE. -/
def execQuarantineExpiry (binding : Nat) (s : State) : Host.Outcome State Fault Refusal :=
  .next <|
    if (s.bind binding).state = .quarantine && decide ((s.bind binding).since + 1200000 ≤ s.now) then
      ({ s with jan := { s.jan with bindings := mdel binding s.jan.bindings } }).fire 0x120
    else s

/-- Change a class of a binding: 0 data, 1 control. -/
def State.modClass (s : State) (b cls : Nat) (f : BClass → BClass) : State :=
  s.modBinding b (fun x => if cls = 0 then { x with data := f x.data } else { x with ctrl := f x.ctrl })

/-- RELEASE: the grant falls by the slots released, which return to the shared part. -/
def execRelease (binding cls slots : Nat) (s : State) : Host.Outcome State Fault Refusal :=
  .next (if (s.bind binding).state = .open_ then s.modClass binding cls (fun c => { c with grant := c.grant - slots }) else s)

/-- CREDIT_IDLE_TIMER: 10 µs with nothing queued and credit above MIN. -/
def execCreditIdleTimer (binding : Nat) (s : State) : Host.Outcome State Fault Refusal :=
  .next <|
    let b := s.bind binding
    if b.state = .open_ && b.data.queued.isEmpty && decide (b.minSlots < b.data.credit) && decide (b.data.idleSince + 12000 ≤ s.now) then
      (s.modClass binding 0 (fun c => { c with credit := b.minSlots })).queueMsg binding 1 [.release 0 (b.data.credit - b.minSlots)]
    else s

/-- SEQ_GAP_TIMEOUT: a gap open for 10 µs. -/
def execSeqGapTimeout (binding : Nat) (s : State) : Host.Outcome State Fault Refusal :=
  .next <|
    let b := s.bind binding
    let old (c : BClass) : Bool := !c.early.isEmpty && decide (c.gapSince + 12000 ≤ s.now)
    if b.state = .open_ && (old b.data || old b.ctrl) then (s.janCount 1).bindDown binding else s

/-! ### Receiving (R444, R446, R458) -/

/-- The hop checks of R444: the state, and whether the frame is accepted. -/
def State.hopAccept (s : State) (p : Nat) (f : RxFrame) : State × Bool :=
  let s1 := (s.portCount p 0 f.fecSyms).portCount p 1 f.fecUncorr
  let s2 := if f.crcOk then s1 else s1.portCount p 2
  if f.damaged || !f.crcOk || f.hseq ≠ (s.port p).rxHseq then
    (s2.modPort p (fun x => if x.nakSeen then x else { x with nakSeen := true, nakDue := true, linkDue := true }), false)
  else ((s2.modPort p (fun x => { x with nakSeen := false, rxHseq := (x.rxHseq + 1) % 4096 })).portCount p 5, true)

/-- An undefined code point in a message (R5, R354). -/
def JMsg.malformed : JMsg → Bool
  | .commit t m => t == 0 || decide (7 < t) || (if t = 2 || t = 4 then !(decide (0x38 ≤ m.cause) && decide (m.cause ≤ 0x3D)) else m.cause != 0)
  | .gatherRefuse _ r => r != 1 && r != 2
  | .release c _ => c != 0 && c != 1
  | .offer o => o.kind != 1 && o.kind != 2
  | .bad => true
  | _ => false

/-- The slot that a commit message concerns: the one whose attempt it names, or one that remembers it. -/
def State.commitSlot (s : State) (b : Binding) (step : Nat) : Option Nat :=
  match s.slotOfBinding b (some step) with
  | some k => some k
  | none => (List.range 16).find? (fun k =>
      let t := s.slot b.part k
      t.domain == b.domain && (t.acking.any (fun c => c.step == step) || t.decisions.any (fun d => d.1 == step)))

/-- A commit message is delivered. -/
def State.takeCommit (s : State) (b : Nat) (t : Nat) (m : CommitMsg) : State :=
  let x := s.bind b
  if x.kind ≠ 2 then s
  else match s.commitSlot x m.step with
  | none => if t = 6 then s.queueMsg b 1 [.commit 7 { m with sender := s.self, cause := 0 }]
      else match t, s.slotOfBinding x none with
        | 1, some k => reached (execReady x.part k m s) s
        | _, _ => s
  | some k => match t with
    | 1 => reached (execReady x.part k m s) s
    | 2 => reached (execRollbackVote x.part k m s) s
    | 3 => reached (execCommit x.part k m s) s
    | 4 => reached (execRollback x.part k m s) s
    | 5 => reached (execAck x.part k m s) s
    | 6 => reached (execQuery x.part k m s) s
    | _ => reached (execUnknown x.part k m s) s

/-- A message of a binding is delivered to its consumer. -/
def State.takeMsg (s : State) (b : Nat) (m : JMsg) : State :=
  match m with
  | .commit t c => s.takeCommit b t c
  | .gatherReq tag len pre patch lq off => reached (execGatherReq b tag len pre patch lq off s) s
  | .gatherHold tag => reached (execGatherHold b tag s) s
  | .gatherRefuse tag r => reached (execGatherRefuse b tag r s) s
  | .gatherData tag _ d poison => reached (execGatherData b tag d poison s) s
  | .exchPart l es bad => reached (execExchPart b l es bad s) s
  | .exchSum l es bad => reached (execExchSum b l es bad s) s
  | .release c n => reached (execRelease b c n s) s
  | .close => reached (execClose b s) s
  | _ => s

/-- Deliver a frame's messages in order. A CLOSING binding takes CLOSE alone. -/
def State.takeMsgs (s : State) (b : Nat) (ms : List JMsg) : State :=
  ms.foldl (fun (s : State) m =>
    if (s.bind b).state = .open_ || ((s.bind b).state = .closing && m = .close) then s.takeMsg b m else s) s

/-- The next SEQ under a key, and whether the key is replaced (R443). -/
def nextSeq (q : Nat) : Nat × Nat := if q + 1 = 2 ^ 32 then (0, 1) else (q + 1, 0)

/-- A frame in SEQ order: its messages pass on and its slots are freed. -/
def State.inOrder (s : State) (b cls units : Nat) (ms : List JMsg) : State :=
  (s.modClass b cls (fun c => { c with
    rxSeq := (nextSeq c.rxSeq).1, rxKeys := c.rxKeys + (nextSeq c.rxSeq).2, toReturn := c.toReturn + units })).takeMsgs b ms

/-- A class of a binding. -/
def Binding.cls (x : Binding) (cls : Nat) : BClass := if cls = 0 then x.data else x.ctrl

/-- Frames that waited for the gap now filled. -/
def State.fillGap (b cls : Nat) : Nat → State → State
  | 0, s => s
  | n + 1, s =>
    let c := (s.bind b).cls cls
    match c.early.find? (fun e => e.1 == c.rxSeq) with
    | none => s
    | some e =>
      let s1 := s.modClass b cls (fun c => { c with early := c.early.filter (fun x => x.1 != e.1), gapSince := s.now })
      State.fillGap b cls n (s1.inOrder b cls e.2.2 e.2.1)

/-- How far SEQ `q` lies ahead of `e`. -/
def seqAhead (e q : Nat) : Nat := (q + 2 ^ 32 - e) % 2 ^ 32

/-- A ROUTED frame on a binding: checks 3 to 7 of Table 12.9, then delivery. -/
def State.takeBinding (s : State) (f : RxFrame) : State :=
  let h := f.hdr
  let b := h.vc
  let x := s.bind b
  let cls := b2n (h.cls != 0)
  let c := x.cls cls
  if h.keyGen ≠ x.keyGen then s.janCount 2
  else if 16384 < seqAhead c.rxSeq h.seq then (s.janCount 1).bindDown b
  else if !f.tagOk then (s.janCount 0).bindDown b
  else if !f.formatOk || h.level ≠ s.recLevel || f.msgs.any JMsg.malformed then (s.janCount 4).bindDown b
  else if c.grant < c.used + h.units then (s.janCount 5).bindDown b
  else
    let s1 := s.modClass b cls (fun c => { c with
      used := c.used + h.units, credit := c.credit + h.creturn
      demandTx := if h.creturn = 0 then c.demandTx else false, demandRx := c.demandRx || h.demand })
    if h.seq = c.rxSeq then State.fillGap b cls c.early.length (s1.inOrder b cls h.units f.msgs)
    else s1.modClass b cls (fun c => { c with
      gapSince := if c.early.isEmpty then s.now else c.gapSince
      early := if c.early.any (fun e => e.1 == h.seq) then c.early else c.early ++ [(h.seq, f.msgs, h.units)] })

/-- A session message is delivered. -/
def State.takeSess (s : State) (n : Nat) (ms : List JMsg) : State :=
  ms.foldl (fun (s : State) m => match m with
    | .offer o => reached (execBindOffer n o s) s
    | .keepalive => reached (execKeepalive n s) s
    | _ => s) s

/-- Session frames that waited for a gap. -/
def State.fillSess (n : Nat) : Nat → State → State
  | 0, s => s
  | k + 1, s =>
    match (s.sess n).early.find? (fun e => e.1 == (s.sess n).rxSeq) with
    | none => s
    | some e => State.fillSess n k ((s.modSess n (fun x => { x with
        rxSeq := (x.rxSeq + 1) % 2 ^ 32, early := x.early.filter (fun y => y.1 != e.1) })).takeSess n e.2)

/-- A ROUTED frame on a peer session. A failed check drops the frame and counts; a session has 8 slots. -/
def State.takeSession (s : State) (f : RxFrame) : State :=
  let h := f.hdr
  let x := s.sess h.src
  if h.keyGen ≠ 0 then s.janCount 2
  else if 16384 < seqAhead x.rxSeq h.seq then s.janCount 1
  else if !f.tagOk then s.janCount 0
  else if !f.formatOk || h.level ≠ s.recLevel || f.msgs.any JMsg.malformed then s.janCount 4
  else if 8 < h.units then s.janCount 5
  else
    let s1 := s.modSess h.src (fun x => { x with lastRx := s.now })
    if h.seq = x.rxSeq then
      State.fillSess h.src x.early.length ((s1.modSess h.src (fun x => { x with rxSeq := (x.rxSeq + 1) % 2 ^ 32 })).takeSess h.src f.msgs)
    else s1.modSess h.src (fun x => { x with early := if x.early.any (fun e => e.1 == h.seq) then x.early else x.early ++ [(h.seq, f.msgs)] })

/-- A frame for this device: check 2 of Table 12.9, then its binding or session. -/
def State.takeFrame (s : State) (f : RxFrame) : State :=
  let x := s.bind f.hdr.vc
  if f.hdr.vc = 0 then (if (s.sess f.hdr.src).state = 2 then s.takeSession f else s.janCount 3)
  else if (x.state == .open_ || x.state == .closing) && x.peer == f.hdr.src then s.takeBinding f
  else s.janCount 3

/-- Forward a frame of port `p`: HOP + 1 by a port of its DST's set, or dropped (R445). -/
def State.forward (s : State) (p : Nat) (f : RxFrame) : State :=
  let r := s.route f.hdr.dst
  match (if f.hdr.hop = 3 || !r.valid then none else nextPort r.mask (s.jan.order % 16) s.portUp) with
  | none => (s.portCount p 7).freeHop p f.hdr.hop
  | some q => s.pushFrame q { hdr := { f.hdr with hop := f.hdr.hop + 1 }, msgs := f.msgs, binding := 0, part := 0xFF, fwd := true
                              order := 0, inp := some p }

/-- A frame that has passed the hop checks: for this device, or forwarded. -/
def State.frameIn (s : State) (p : Nat) (f : RxFrame) : State :=
  if f.hdr.dst = s.self then (s.l2Wake.freeHop p f.hdr.hop).takeFrame f else s.forward p f

/-- ROUTED_FRAME. -/
def execRoutedFrame (p : Nat) (f : RxFrame) (s : State) : Host.Outcome State Fault Refusal :=
  .next <|
    if !s.portUp p then s
    else
      let a := s.hopAccept p f
      if a.2 then a.1.frameIn p f else a.1

/-- FORWARDED_FRAME. -/
def execForwardedFrame (p : Nat) (f : RxFrame) (s : State) : Host.Outcome State Fault Refusal :=
  .next <|
    if !s.portUp p then s
    else
      let a := s.hopAccept p f
      if a.2 then a.1.frameIn p f else a.1

/-- The frames after the one acknowledged are replayed; a frame replayed 16 times takes the port down (R444). -/
def State.nakked (s : State) (p : Nat) : State :=
  if (s.port p).replay.any (fun f => decide (16 ≤ f.replays)) then s.portDown p 2
  else s.modPort p (fun x => { x with replaying := x.replay.length, replay := x.replay.map (fun f => { f with replays := f.replays + 1 }) })

/-- Take an ACK: frames up to it leave the replay buffer. -/
def JPort.acked (x : JPort) (ack : Nat) : JPort :=
  match x.replay.findIdx? (fun f => f.hseq == ack) with
  | some i => { x with replay := x.replay.drop (i + 1), replaying := min x.replaying (x.replay.length - (i + 1)) }
  | none => x

/-- LINK_FRAME: ACK, NAK, hop credits and ORBIT fields. A failed tag takes the port down with cause 0x4. -/
def execLinkFrame (p : Nat) (f : RxFrame) (u : LinkUnit) (s : State) : Host.Outcome State Fault Refusal :=
  .next <|
    if !s.portUp p then s
    else
      let a := s.hopAccept p f
      if !a.2 then a.1
      else if !f.tagOk then a.1.portDown p 4
      else if !f.formatOk || f.hdr.level ≠ s.recLevel then a.1
      else
        let s1 := a.1.modPort p (fun x =>
          let y := x.acked u.ack
          { (List.range 4).foldl (fun (y : JPort) h => y.giveCredit h (u.credits.getD h 0)) y with
            link := some (u, s.now), synced := s.jan.synced })
        (if u.nak then s1.nakked p else s1).orbitTree

/-! ### Sending (R444 to R447, R456) -/

/-- A LINK frame is due. -/
def execLinkFrameDue (p : Nat) (s : State) : Host.Outcome State Fault Refusal :=
  .next (if s.portUp p then s.modPort p (fun x => { x with linkDue := true }) else s)

/-- A frame leaves a port: it takes the next HSEQ and stays in the replay buffer. A new frame that leaves
while others are replayed is due again after them. -/
def State.sendOut (s : State) (p : Nat) (f : TxFrame) : State :=
  let s1 := (s.modPort p (fun x => { x with
    replay := x.replay ++ [{ f with hseq := x.txHseq }]
    replaying := if x.replaying = 0 then 0 else x.replaying + 1
    txHseq := (x.txHseq + 1) % 4096 })).portCount p 4
  let s2 := if f.fwd then s1.portCount p 6 else s1
  let s3 := match f.inp with
    | some q => s2.freeHop q (f.hdr.hop - 1)
    | none => s2
  if f.hdr.vc = 0 && f.hdr.typ = 2 && !f.fwd then s3.modSess f.hdr.dst (fun x => { x with lastTx := s.now }) else s3

/-- The LINK unit a port sends now (Table 12.11). -/
def State.linkUnit (s : State) (p : Nat) : LinkUnit :=
  let x := s.port p
  { ack := (x.rxHseq + 4095) % 4096, nak := x.nakDue, credits := x.returns, dist := s.jan.dist, synced := s.jan.synced, tTx := s.now
    tEcho := match x.link with
      | some l => l.1.tTx
      | none => 0
    tHold := match x.link with
      | some l => s.now - l.2
      | none => 0 }

/-- Send a LINK frame. -/
def State.sendLink (s : State) (p : Nat) : State :=
  let x := s.port p
  let f : TxFrame := { hdr := { typ := 1, cls := 1, units := 1, level := s.recLevel, dst := x.peer, src := s.self, seq := x.linkSeq }
                       msgs := [], binding := 0, part := 0xFF, fwd := false, order := 0, link := some (s.linkUnit p) }
  (s.modPort p (fun x => { x with
    linkDue := false, nakDue := false, returns := [0, 0, 0, 0], synced := s.jan.synced
    linkSeq := (nextSeq x.linkSeq).1, hopKeys := x.hopKeys + (nextSeq x.linkSeq).2 })).sendOut p f

/-- Units of a data message: its header and its data. -/
def JMsg.units : JMsg → Nat
  | .gatherData _ _ d _ => 1 + ceilDiv d.length 64
  | .exchPart .. => 2
  | .exchSum .. => 2
  | _ => 1

/-- Units a class has left to send. -/
def BClass.work (c : BClass) (ctrl : Bool) : Nat :=
  if ctrl then ceilDiv c.queued.length 2 else (c.queued.map (fun e => JMsg.units e.2)).sum - c.sentUnits

/-- Take `n` units of data messages: those completed, those left, and the units sent of the first left. -/
def takeUnits : List (Nat × JMsg) → Nat → Nat → List JMsg × List (Nat × JMsg) × Nat
  | [], _, _ => ([], [], 0)
  | e :: es, sent, n =>
    let left := JMsg.units e.2 - sent
    if n < left then ([], e :: es, sent + n)
    else
      let r := takeUnits es 0 (n - left)
      (e.2 :: r.1, r.2)

/-- May a class of a binding send now, and how many units? -/
def Binding.sendable (x : Binding) (cls : Nat) : Option Nat :=
  let c := x.cls cls
  let w := c.work (cls == 1)
  let live := x.state == .open_ || (cls == 1 && (x.state == .closing || x.state == .quarantine) && w != 0)
  let n := min 16 (min c.credit w)
  if live && (n != 0 || c.toReturn != 0 || (w != 0 && !c.demandTx)) then some n else none

/-- The round robin of a class stands at port `p`. -/
def State.turnOf (s : State) (b cls p : Nat) : Bool :=
  let x := s.bind b
  nextPort (s.route x.peer).mask (x.cls cls).rr (fun q => s.portUp q && (s.port q).hasCredit 0) == some p

/-- Send one frame of a class of a binding by port `p` (R456). -/
def State.sendClass (s : State) (p b cls n : Nat) : State :=
  let x := s.bind b
  let c := x.cls cls
  let w := c.work (cls == 1)
  let top := if cls = 0 then x.maxSlots else 4
  let u := min 4095 c.toReturn
  let e := if u ≠ 0 && c.demandRx then min (min (s.freeSlots x.part) (top - c.grant)) (min 256 (4095 - u)) else 0
  let dem := w != 0 && decide (c.credit < 16)
  let t := if cls = 1 then ((c.queued.take (2 * n)).map Prod.snd, c.queued.drop (2 * n), 0) else takeUnits c.queued c.sentUnits n
  let h : FrameHdr := { typ := 2, cls := cls, demand := dem, keyGen := x.keyGen, units := n, level := s.recLevel, dst := x.peer
                        src := s.self, vc := x.remote, creturn := u + e, seq := c.txSeq }
  let s1 := s.modClass b cls (fun c => { c with
    txSeq := (nextSeq c.txSeq).1, txKeys := c.txKeys + (nextSeq c.txSeq).2
    queued := t.2.1, sentUnits := t.2.2, credit := c.credit - n, demandTx := c.demandTx || dem
    toReturn := c.toReturn - u, used := c.used - u, grant := c.grant + e, demandRx := if u = 0 then c.demandRx else false
    rr := (p + 1) % 16, idleSince := if t.2.1.isEmpty && !c.queued.isEmpty then s.now else c.idleSince })
  (s1.modPort p (fun x => x.drawCredit 0)).sendOut p
    { hdr := h, msgs := t.1, binding := b, part := x.part, fwd := false, order := 0 }

/-- A queued frame may leave: LOCAL handshakes need no hop credit. -/
def JPort.mayLeave (x : JPort) (f : TxFrame) : Bool := f.hdr.local_ || x.hasCredit f.hdr.hop

/-- Send a frame from a port's queue. -/
def State.sendQueued (s : State) (p : Nat) (f : TxFrame) : State :=
  (s.modPort p (fun x =>
    let y := { x with queue := x.queue.filter (fun g => g.order != f.order) }
    if f.hdr.local_ then y else y.drawCredit f.hdr.hop)).sendOut p f

/-- Local frames of a class that may leave by port `p`: binding, units, order of the first message. -/
def State.localFrames (s : State) (p cls : Nat) : List (Nat × Nat × Nat) :=
  s.jan.bindings.filterMap (fun b =>
    match b.2.sendable cls with
    | some n => if s.turnOf b.1 cls p then some (b.1, n, ((b.2.cls cls).queued.head?.map Prod.fst).getD s.jan.order) else none
    | none => none)

/-- The next data frame among bindings: round robin over partitions, then over a partition's bindings (R447). -/
def State.nextLocal (s : State) (p : Nat) : Option (Nat × Nat × Nat) :=
  let x := s.port p
  let key (e : Nat × Nat × Nat) : Nat × Nat :=
    (((s.bind e.1).part + 256 - (x.lastPart + 1) % 256) % 256, (e.1 + 16384 - (x.lastBinding + 1) % 16384) % 16384)
  minBy (fun a b => decide ((key a).1 < (key b).1) || ((key a).1 == (key b).1 && decide ((key a).2 ≤ (key b).2))) (s.localFrames p 0)

/-- Higher HOP first, then the oldest. -/
def fwdLe (a b : TxFrame) : Bool := decide (b.hdr.hop < a.hdr.hop) || (a.hdr.hop == b.hdr.hop && decide (a.order ≤ b.order))

/-- The data-class frame: forwarded and local frames alternate while both wait. -/
def State.sendData (s : State) (p : Nat) : State :=
  let x := s.port p
  let fw := minBy fwdLe (x.queue.filter (fun f => f.hdr.typ == 2 && f.hdr.vc != 0 && f.hdr.cls == 0 && x.mayLeave f))
  let go (e : Nat × Nat × Nat) : State :=
    ((s.modPort p (fun x => { x with altFwd := true, lastPart := (s.bind e.1).part, lastBinding := e.1 })).sendClass p e.1 0 e.2.1)
  match fw, s.nextLocal p with
  | some f, some e => if x.altFwd then (s.modPort p (fun x => { x with altFwd := false })).sendQueued p f else go e
  | some f, none => s.sendQueued p f
  | none, some e => go e
  | none, none => s

/-- The control-class frame: forwarded or local, the oldest. -/
def State.sendCtrl (s : State) (p : Nat) : State :=
  let x := s.port p
  let old (a b : TxFrame) : Bool := decide (a.order ≤ b.order)
  let fw := minBy old (x.queue.filter (fun f => f.hdr.typ == 2 && f.hdr.vc != 0 && f.hdr.cls != 0 && x.mayLeave f))
  let lo := minBy (fun (a b : Nat × Nat × Nat) => decide (a.2.2 ≤ b.2.2)) (s.localFrames p 1)
  match fw, lo with
  | some f, some e => if f.order ≤ e.2.2 then s.sendQueued p f else s.sendClass p e.1 1 e.2.1
  | some f, none => s.sendQueued p f
  | none, some e => s.sendClass p e.1 1 e.2.1
  | none, none => s.sendData p

/-- Frames of the third row: HANDSHAKE and session frames, in order. -/
def JPort.first (x : JPort) : Option TxFrame :=
  x.queue.find? (fun f => (f.hdr.typ == 3 || f.hdr.vc == 0) && x.mayLeave f && (x.state == .up || f.hdr.local_))

/-- FRAME_TRANSMIT (R447): the port's next frame. A full replay buffer lets replays out alone. -/
def execFrameTransmit (p : Nat) (s : State) : Host.Outcome State Fault Refusal :=
  .next <|
    let x := s.port p
    let room := decide (x.replay.length < 512)
    if x.state != .up && x.state != .attesting then s
    else if x.state == .up && x.linkDue && room then s.sendLink p
    else if x.replaying ≠ 0 then
      ((s.modPort p (fun x => { x with replaying := x.replaying - 1 })).portCount p 3).portCount p 4
    else if !room then s
    else match x.first with
      | some f => s.sendQueued p f
      | none => if x.state == .up then s.sendCtrl p else s

/-! ### ORBIT (R460, R461) -/

/-- Once per millisecond: the offset from the parent steps, halves or slews ORBIT. The master is never
adjusted. -/
def execOrbitSyncUpdate (s : State) : Host.Outcome State Fault Refusal :=
  .next <|
    if s.glb.cfg.role = 2 then (s.orbitTree).setSynced true
    else match s.parentOf with
    | none => s.orbitTree
    | some (p, _) => match (s.port p).link with
      | none => s
      | some l =>
        let rtt : Int := (l.2 : Int) - l.1.tEcho - l.1.tHold
        let off : Int := (l.1.tTx : Int) - l.2 + rtt / 2
        let good := if off.natAbs ≤ 1 then s.jan.good + 1 else 0
        let j := { s.jan with
          offset := max (-32767) (min 32767 off), good := good
          half := if off < -4 then 2 * off.natAbs else 0
          slew := if off.natAbs ≤ 4 then off else 0, slewCnt := 0 }
        let s1 : State := { s with jan := j, orbit := { s.orbit with val := if 4 < off then (s.orbit.val + off.toNat) % 2 ^ 64 else s.orbit.val } }
        (if 4 < off.natAbs then s1.setSynced false else if 3 ≤ good then s1.setSynced true else s1).orbitTree

/-- JAN_BIND_INFO (R472). -/
def BState.code : BState → Nat
  | .free => 0
  | .waiting => 1
  | .open_ => 2
  | .down => 3
  | .refused => 4
  | .closing => 5
  | .quarantine => 6

/-- The word of Table 12.19. -/
def Binding.info (x : Binding) : Nat :=
  x.state.code * 2 ^ 28 + x.kind * 2 ^ 26 + x.keyGen * 2 ^ 24 + x.part * 2 ^ 16 + x.peer

/-- JAN_BIND_INFO_READ: zero before READY (R604). -/
def execJanBindInfoRead (s : State) : Host.Outcome State Fault Refusal :=
  .next { s with reply := if !s.hostUp then .nack else .data (if s.isReady then (s.bind s.jan.sel).info else 0) }

end Sys2Proof.Machine
end

