-- ==== Sys2Proof/Machine/Carve.lean ====
section
/-! DEFINITION. Chapter 10's partitions: the carve record, CREATE, the disable sequence, ENABLE, DESTROY, the
resets of functions, and the end of a domain close. -/

namespace Sys2Proof.Machine

/-! ### PAR_CMD (R395, R396) -/

/-- An op ends with RESULT and LQ; the pool's source fires. -/
def State.parEnd (s : State) (r : Nat) (lq : Nat := 0xFF) : State :=
  ({ s with par := { s.par with busy := none, done := true, result := r, lq := lq } }).fire 0x128

/-- GO with an op: none while another op runs; RESULT 0x04 in the halts of R608; ignored before READY (R604). -/
def State.parGo (s0 : State) (op p : Nat) (k : State → State) : State :=
  let s := s0.l2Wake
  if !(s.isReady || s.haltServed) then s0
  else if s.par.busy.isSome then s
  else if !s.isReady then { s with par := { s.par with op := op, part := p } }.parEnd 4
  else k { s with par := { s.par with op := op, part := p, done := false, busy := some (op, p) } }

/-- A PAR_CMD op or an FLR on a partition whose TDI is LOCKED or RUN moves the TDI to ERROR (R417). -/
def State.tdiError (s : State) (p : Nat) : State :=
  match (s.part p).vf with
  | some v => if mget 0 s.vault.tdi v = 1 || mget 0 s.vault.tdi v = 2 then { s with vault := { s.vault with tdi := mset 0 s.vault.tdi v 3 } } else s
  | none => s

/-! ### The carve record (R390) -/

/-- A quadrant entry (Table 10.7). -/
structure QuadEntry where
  lq : Nat
  pq : Nat
  wa : Nat
  wc : Nat
  pch : Nat
  mask : Nat
  resv : Nat
  deriving DecidableEq, Repr

/-- A carve record (Table 10.6). -/
structure Carve where
  level : Nat
  mode : Nat
  s : Nat
  resv : Nat
  prioMax : Nat
  vf : Nat
  domBase : Nat
  domCount : Nat
  ctxBase : Nat
  ctxCount : Nat
  vectors : Nat
  credits : Nat
  quads : List QuadEntry
  reservedOk : Bool
  deriving DecidableEq, Repr

/-- Entry `lq`, with its pool defaults. -/
def quadEntry (c : StructCfg) (b : List Byte) (lq : Nat) : QuadEntry :=
  let o := 0x20 + 16 * lq
  let wa := fieldAt b (o + 1) 1
  let wc := fieldAt b (o + 2) 1
  let pch := fieldAt b (o + 3) 1
  { lq := lq, pq := fieldAt b o 1, wa := if wa = 0 && wc = 0 then c.waysDefault else wa, wc := wc
    pch := if pch = 0 then c.pchDefault else pch, mask := fieldAt b (o + 4) 4, resv := fieldAt b (o + 8) 8 }

/-- `d` where `n` is 0. -/
def orDefault (d n : Nat) : Nat := if n = 0 then d else n

/-- The record's fields, with the pool defaults of Table 2.5. -/
def carveOf (c : StructCfg) (b : List Byte) : Carve :=
  { level := fieldAt b 0 1, mode := fieldAt b 1 1, s := fieldAt b 2 1, resv := fieldAt b 3 1, prioMax := fieldAt b 4 1
    vf := fieldAt b 6 1
    domBase := bitsOf (fieldAt b 8 2) 0 12, domCount := orDefault c.domainsDefault (fieldAt b 0xA 2)
    ctxBase := bitsOf (fieldAt b 0xC 2) 0 12, ctxCount := fieldAt b 0xE 2
    vectors := orDefault c.vecDefault (fieldAt b 0x10 2), credits := orDefault c.creditDefault (fieldAt b 0x12 2)
    quads := (List.range 8).map (quadEntry c b)
    reservedOk := fieldAt b 5 1 == 0 && fieldAt b 7 1 == 0 && bitsOf (fieldAt b 8 2) 12 4 == 0 &&
      bitsOf (fieldAt b 0xC 2) 12 4 == 0 && allZero (slice b 0x14 12) }

/-- The quadrants used. -/
def Carve.used (c : Carve) : List QuadEntry := c.quads.filter (fun q => q.pq != 0xFF)
/-- Tiles of a mask. -/
def maskTiles (m : Nat) : List Nat := (List.range 32).filter (fun t => bitOf m t)
/-- C_res and the pinned contexts of a record. -/
def Carve.cRes (c : Carve) : Nat := min 8 (16 / max 1 c.s)
def Carve.pinned (c : Carve) : Nat := c.resv / max 1 c.s

/-! ### The pool (R392, R398) -/

/-- Is a tile free? -/
def State.tileFree (s : State) (q t : Nat) : Bool := (s.ownerOf ⟨q, t⟩).isNone && bitOf s.glb.cfg.quadEnable q
/-- Free, zero-filled pseudo-channels of a stack, ascending. -/
def State.freePchs (s : State) (k : Nat) : List Nat :=
  (List.range 64).filter (fun c => (s.pchOwner k c).isNone && (mget [] (s.stack k).zeroFill c).isEmpty)
/-- Free ways of a quadrant, ascending. -/
def State.freeWays (s : State) (q : Nat) : List Nat := (List.range 16).filter (fun w => (s.wayOwner q w).isNone)

/-- Two ranges share no number. -/
def apart (a n b m : Nat) : Bool := n == 0 || m == 0 || decide (a + n ≤ b) || decide (b + m ≤ a)

/-! ### CREATE (R391, R392) -/

/-- The quadrant that an entry takes: the lowest-numbered free ways and pseudo-channels, ADDRESSED ways first. -/
def State.takeQuad (s : State) (e : QuadEntry) : PQuad :=
  let w := s.freeWays e.pq
  { pq := e.pq, tiles := maskTiles e.mask, waysAddr := w.take e.wa, waysCache := (w.drop e.wa).take e.wc, pchs := (s.freePchs e.pq).take e.pch }

/-- Contexts as R372 sets them: pinned ones, or all where they fit, resident; the others swapped out, empty. -/
def initCtxs (now cRes pinned : Nat) (old : List Ctx) (n : Nat) : List Ctx :=
  (List.range n).map (fun i =>
    let o := old.getD i {}
    { res := if n ≤ cRes || i < pinned then .resident else .swapped, slot := if n ≤ cRes || i < pinned then i else 0
      prio := 0, bufBase := o.bufBase, bufLines := o.bufLines, since := some now, runSince := 0, image := none })

/-- The partition that CREATE makes. -/
def State.carved (s : State) (c : Carve) (key : Key256) : Part :=
  { state := .active, mode := c.mode, s := c.s, resv := c.resv, prioMax := c.prioMax, vf := some c.vf
    domBase := c.domBase, domCount := c.domCount, ctxBase := c.ctxBase, ctxCount := c.ctxCount
    vectors := c.vectors, credits := c.credits, quads := c.used.map s.takeQuad
    ctxs := initCtxs s.now c.cRes c.pinned [] c.ctxCount, key := key }

/-- The ranges of check 5 for one entry, which names no quadrant that an entry before it names. -/
def State.entryShape (s : State) (c : Carve) (e : QuadEntry) : Bool :=
  c.used.all (fun x => e.lq ≤ x.lq || x.pq != e.pq) && decide (e.pq < 8) && bitOf s.glb.cfg.quadEnable e.pq && e.mask != 0 && decide (e.wa + e.wc ≤ 16) && decide (1 ≤ e.pch) && decide (e.pch ≤ 64)

/-- Check 5's conditions on the whole record. -/
def State.carveShape (s : State) (c : Carve) : Bool :=
  [1, 2, 4, 8, 16].contains c.s && decide (c.resv ≤ s.glb.cfg.reservedMax) && c.resv % max 1 c.s == 0 && decide (c.pinned ≤ c.cRes) &&
  decide (c.prioMax ≤ 7) && inRange 1 4096 c.domCount && inRange 1 4096 c.ctxCount && inRange 1 2048 c.vectors &&
  !c.used.isEmpty && c.used.zipIdx.all (fun x => x.1.lq == x.2)

/-- The first entry that fails a check. -/
def firstBad (c : Carve) (ok : QuadEntry → Bool) : Option Nat := (c.used.find? (fun e => !ok e)).map QuadEntry.lq

/-- Checks 3 to 15 in order: RESULT and LQ of the first that fails. -/
def State.carveCheck (s : State) (p : Nat) (c : Carve) : Option (Nat × Nat) :=
  let others := s.parts.filter (fun e => e.1 != p)
  let cand : State := { s with parts := mput p (s.carved c 0) s.parts }
  let big := decide (c.cRes < c.ctxCount)
  if !c.reservedOk then some (2, 0xFF)
  else match c.quads.find? (fun e => e.resv != 0) with
  | some e => some (2, e.lq)
  | none =>
    if c.level ≠ s.glb.level || s.glb.level = 0 || 1 < c.mode then some (3, 0xFF)
    else match firstBad c (s.entryShape c) with
    | some lq => some (0xD, lq)
    | none =>
      if !s.carveShape c then some (0xD, 0xFF)
      else if c.mode = 1 && !s.glb.cfg.gr2Allowed then some (0xE, 0xFF)
      else if !(s.host.vfEnable && decide (c.vf < s.host.numVfs)) || (s.partOfVf c.vf).isSome then some (0xC, 0xFF)
      else match firstBad c (fun e => (maskTiles e.mask).all (fun t => s.tileFree e.pq t && !(s.tile ⟨e.pq, t⟩).vxu.test)) with
      | some lq => some (5, lq)
      | none => match firstBad c (fun e => decide (e.pch ≤ (s.freePchs e.pq).length) && (!big || decide (8 ≤ e.pch))) with
        | some lq => some (6, lq)
        | none => match firstBad c (fun e => decide (e.wa + e.wc ≤ (s.freeWays e.pq).length)) with
          | some lq => some (7, lq)
          | none =>
            if 4096 < c.domBase + c.domCount || !others.all (fun e => apart c.domBase c.domCount e.2.domBase e.2.domCount) then some (8, 0xFF)
            else if 4096 < c.ctxBase + c.ctxCount || !others.all (fun e => apart c.ctxBase c.ctxCount e.2.ctxBase e.2.ctxCount) ||
                c.ctxCount < c.pinned then some (9, 0xFF)
            else if Config.vfVectorPool < (others.map (fun e => e.2.vectors)).sum + c.vectors then some (0xA, 0xFF)
            else if Config.janusPool < (others.map (fun e => e.2.credits)).sum + c.credits then some (0xB, 0xFF)
            else match firstBad c (fun e => decide (cand.saveBytes p e.lq ≤ cand.regionBytes p e.lq 4)) with
            | some lq => some (0xF, lq)
            | none => none

/-- Bit `i` cleared. -/
def clearBit (n i : Nat) : Nat := if bitOf n i then n - 2 ^ i else n

/-- A quadrant leaves Q-gate: every bank and way zero, every slot empty (R582). -/
def State.ungate (s : State) (q : Nat) : State :=
  let s1 := s.modQuad q (fun k => { k with
    tiles := (k.tiles.map (fun t => (t.1, { t.2.scrubAll with scratch := { t.2.scratch with lines := [], banks := [] } }))).filter (fun t => t.2 != {})
    qb := { k.qb with lines := [] } })
  { s1 with clk := { s1.clk with gate := clearBit s1.clk.gate q, gated := clearBit s1.clk.gated q
                                 entering := clearBit s1.clk.entering q, exiting := clearBit s1.clk.exiting q } }

/-- CREATE's checks of Table 10.4 and the carve. -/
def State.createGo (s : State) (p : Nat) : State :=
  if (s.part p).state != .free || 256 ≤ p then s.parEnd 4
  else match s.hostRead s.par.addr 160 with
  | none => s.parEnd 0x10
  | some b =>
    let c := carveOf s.glb.cfg b
    match s.carveCheck p c with
    | some e => s.parEnd e.1 e.2
    | none =>
      let s1 := c.used.foldl (fun (s : State) e => if bitOf s.clk.gate e.pq || bitOf s.clk.gated e.pq then s.ungate e.pq else s) s
      let k := s1.draw 256
      ({ k.2 with parts := mput p (k.2.carved c k.1) k.2.parts }).parEnd 0

/-- PAR_CMD_CREATE. A gated quadrant that it names leaves Q-gate first. -/
def execParCmdCreate (p : Nat) (s : State) : Host.Outcome State Fault Refusal :=
  .next (s.parGo 1 p (fun s => s.createGo p))

/-! ### The disable sequence (R393) -/

/-- Does a command belong to partition `p`? -/
def State.ofPart (s : State) (p : Nat) (c : Cmd) : Bool :=
  match c.job.fn with
  | .pf => takesPart c.op && c.part == p
  | .vf v => s.partOfVf v == some p

/-- Every accepted command that has no record yet completes with ST_FUNCTION_DISABLED; where the function cannot
master the bus, its record is counted and not written. -/
def State.disableCmds (s : State) (p : Nat) (mute : Bool) (but : Option JobRef) : State :=
  let mine (c : Cmd) : Bool := s.ofPart p c && some c.job != but
  let regs := (s.host.cmds.filter (fun c => mine c && c.reg.isSome)).map Cmd.job
  let s1 := regs.foldl (fun (s : State) j => s.failReg j stFnDisabled) s
  let silent (c : Cmd) : Bool := mute && c.job.fn != .pf
  let n := (s.host.cmds.filter (fun c => mine c && silent c && !c.mute)).length
  { s1 with
    host := { s1.host with cmds := s1.host.cmds.map (fun c =>
      if mine c then { c with phase := .final, status := stFnDisabled, detail := 0, after := none, posted := [], mute := c.mute || silent c } else c) }
    par := { s1.par with disabledJobs := bump s1.par.freeze s1.par.disabledJobs n } }

/-- Attempts that this device coordinates and has not decided roll back with cause 0x3C. -/
def State.disableCommits (s : State) (p : Nat) : State :=
  (List.range 16).foldl (fun (s : State) k =>
    match (s.slot p k).commit with
    | some cm => if cm.coord && cm.phase != .decided then s.rollBack p k 0x3C stFnDisabled else s
    | none => s) s

/-- The ways of a partition that is destroyed read 'scrub in progress' (R240: their words change only at a carve or a destroy). -/
def State.scrubWays (s : State) (p : Nat) : State :=
  (s.part p).quads.foldl (fun (s : State) k => s.modQuad k.pq (fun q => { q with qb := { q.qb with
    scrubbing := q.qb.scrubbing ++ (k.waysAddr ++ k.waysCache).filter (fun w => !q.qb.scrubbing.contains w) } })) s

/-- The trigger of a disable: cause 0 DISABLE, 1 FLR, 2 VF Enable. `but` is the command whose own effect it is. -/
def State.disable (s : State) (p cause : Nat) (destroy : Bool) (but : Option JobRef := none) : State :=
  let s1 := (s.tdiError p).disableCommits p
  let s2 := s1.closeBindings (fun b => b.part == p)
  let s3 := (s2.disableCmds p (cause != 0) but).modPart p (fun x => { x with
    state := .disabling, switch := none, cause := cause, destroy := destroy, returns := false })
  if destroy then s3.scrubWays p else s3

/-- A closing or open domain of a disabled partition ends at once: its handles retire and its keys go. -/
def State.endDomain (s : State) (d : Nat) : State :=
  if (s.dom d).open_ then
    ((if (s.dom d).closing then s else s.closeDomain d).modDom d (fun x => { x with closing := true, owners := [] })).eraseDomain d
  else s

/-- Every VALID page of a partition's pseudo-channels goes to the zero-fill. -/
def State.dropPages (s : State) (p : Nat) : State :=
  (s.part p).quads.foldl (fun (s : State) k =>
    (((s.stack k.pq).pages.filter (fun e => e.2.valid && k.pchs.contains (e.1 / 576))).map Prod.fst).foldl (fun (s : State) key =>
      s.dropPage k.pq (key / 576) (key % 576)) s) s

/-- Step 4 of Table 10.9. -/
def State.emptyPart (s : State) (p : Nat) : State :=
  let cmds := s.host.cmds.filter (s.ofPart p)
  let s1 := cmds.foldl (fun (s : State) c => s.dropRefs c) s
  let s2 := (List.range 16).foldl (fun (s : State) k => (s.dropHeld p k).clearSlot p k) s1
  let s3 := { s2 with train := { s2.train with slots := s2.train.slots.filter (fun e => e.1 / 16 != p) } }
  let ds := (s3.dir.domains.filter (fun d => (s3.part p).hasDomain d.1)).map Prod.fst
  let s4 := ds.foldl State.endDomain s3
  let s5 := (s4.part p).sets.foldl (fun (s : State) c => s.removeSet p c) s4
  let k := (s5.dropPages p).draw 256
  let s6 := k.2.modPart p (fun x => { x with
    key := k.1, sets := [], patches := [], hostGen := 0, hosts := [], logging := false, suspended := false, importing := false, retiredAt := []
    quads := x.quads.map (fun q => { q with cache := [] }) })
  { s6 with
    mul := { s6.mul with
      gathers := s6.mul.gathers.filter (fun g => g.part != p)
      patchActive := s6.mul.patchActive && s6.mul.patchPart != p }
    quads := s6.quads.map (fun q => { q with sat := q.sat.filter (fun e => !(e.2.valid && e.2.part == p)) })
    host := { s6.host with
      exp := s6.host.exp.bind (fun e => if e.part = p && e.phase != 3 then none else some e)
      imp := s6.host.imp.bind (fun e => if e.part = p then none else some e) } }

/-- Step 5: every tile and every way is scrubbed. -/
def State.scrubPart (s : State) (p : Nat) : State :=
  let part := s.part p
  let s1 := part.tiles.foldl (fun (s : State) tl => s.modTile tl (fun t => { t.scrubAll with
    running := none, switching := none, scratch := { t.scrubAll.scratch with lost := [] } })) s
  part.quads.foldl (fun (s : State) k =>
    let ws := k.waysAddr ++ k.waysCache
    s.modQuad k.pq (fun q => { q with
      qb := { q.qb with lines := q.qb.lines.filter (fun e => !ws.contains (e.1 / 32768)), scrubbing := q.qb.scrubbing.filter (fun w => !ws.contains w) }
      cc := { q.cc with
        entries := q.cc.entries.filter (fun x => (s.cmd x.job).isSome && !((s.cmd x.job).map (s.ofPart p)).getD false)
        held := q.cc.held.filter (fun x => (s.cmd x.job).isSome && !((s.cmd x.job).map (s.ofPart p)).getD false) } })) s1

/-- A DISABLED partition returns to ACTIVE. -/
def State.enable (s : State) (p : Nat) : State := s.modPart p (fun x => { x with state := .active, returns := false, cause := 0 })

/-- Every page of a pseudo-channel goes to the zero-fill. -/
def State.dropChannel (s : State) (stack pch : Nat) : State :=
  (List.range Config.pagesPerPch).foldl (fun (s : State) g => s.dropPage stack pch g) s

/-- DESTROY returns the resources (R394): tiles, ways, vectors, credits and the VF at once, pseudo-channels after
their zero-fill, domain IDs and contexts with the last handle. -/
def State.destroyNow (s : State) (p : Nat) : State :=
  let s1 := (s.part p).quads.foldl (fun (s : State) k => k.pchs.foldl (fun (s : State) c => s.dropChannel k.pq c) s) s
  (s1.modPart p (fun x => { x with
    state := .destroying, vf := none, vectors := 0, credits := 0, key := 0
    quads := x.quads.map (fun k => { k with tiles := [], waysAddr := [], waysCache := [], cache := [] }) })).freeCheck p

/-- DISABLED is reached: what waits for it follows. -/
def State.disabled (s : State) (p : Nat) : State :=
  let part := s.part p
  let s1 := (s.modPart p (fun x => { x with state := .disabled, ctxs := initCtxs s.now x.cRes x.pinned x.ctxs x.ctxCount }))
  let s2 := { s1 with par := { s1.par with disables := bump s1.par.freeze s1.par.disables } }
  let s3 := if part.destroy then s2.destroyNow p else if part.returns then s2.enable p else s2
  if s.par.busy == some (2, p) || s.par.busy == some (4, p) then s3.parEnd 0 else s3

/-- PARTITION_DISABLED: the slices have drained, and steps 4 to 6 end. -/
def execPartitionDisabled (p : Nat) (s : State) : Host.Outcome State Fault Refusal :=
  .next <|
    if (s.part p).state != .disabling || (s.part p).tiles.any (fun tl => (s.tile tl).running.isSome) then s
    else (((s.emptyPart p).scrubPart p).disabled p)

/-- PAR_CMD_DISABLE. -/
def execParCmdDisable (p : Nat) (s : State) : Host.Outcome State Fault Refusal :=
  .next <| s.parGo 2 p (fun s =>
    let s1 := s.tdiError p
    if (s1.part p).state != .active then s1.parEnd 4 else s1.disable p 0 false)

/-- PAR_CMD_ENABLE. -/
def execParCmdEnable (p : Nat) (s : State) : Host.Outcome State Fault Refusal :=
  .next <| s.parGo 3 p (fun s =>
    let s1 := s.tdiError p
    if (s1.part p).state != .disabled then s1.parEnd 4 else (s1.enable p).parEnd 0)

/-- DESTROY: an ACTIVE partition is disabled first (R394). -/
def State.destroyGo (s : State) (p : Nat) : State :=
  let s1 := s.tdiError p
  match (s1.part p).state with
  | .active => s1.disable p 0 true
  | .disabled => (s1.destroyNow p).parEnd 0
  | _ => s1.parEnd 4

/-- PAR_CMD_DESTROY. -/
def execParCmdDestroy (p : Nat) (s : State) : Host.Outcome State Fault Refusal :=
  .next (s.parGo 4 p (fun s => s.destroyGo p))

/-! ### Function resets (R393, R477) -/

/-- The queues of a function are OFF; commands in flight run on. -/
def State.queuesOff (s : State) (fn : Fn) : State :=
  (List.range 64).foldl (fun (s : State) q => s.modQueue fn q (fun x => { x with enable := false, state := .off })) s

/-- VF_FLR. -/
def execVfFlr (v : Nat) (s : State) : Host.Outcome State Fault Refusal :=
  .next <|
    if !s.fnLive (.vf v) then s
    else
      let s1 := (s.queuesOff (.vf v))
      let s2 := { s1 with host := { s1.host with flr := s1.host.flr ++ [v] } }
      match s2.partOfVf v with
      | some p => if (s2.part p).state == .active then s2.disable p 1 false else s2.tdiError p
      | none => s2

/-- A partition's return by the trigger of its cause: now, or when DISABLED is reached. -/
def State.returnPart (s : State) (p cause : Nat) : State :=
  let x := s.part p
  if x.cause ≠ cause || x.destroy then s
  else match x.state with
  | .disabled => s.enable p
  | .disabling => s.modPart p (fun x => { x with returns := true })
  | _ => s

/-- VF_FLR_DONE. -/
def execVfFlrDone (v : Nat) (s : State) : Host.Outcome State Fault Refusal :=
  .next <|
    if !s.host.flr.contains v then s
    else
      let s1 := { s with host := { s.host with flr := s.host.flr.filter (· != v) } }
      match s1.partOfVf v with
      | some p => s1.returnPart p 1
      | none => s1

/-- PF_FLR: the PF's queues are OFF, and its commands run on without records. -/
def execPfFlr (s : State) : Host.Outcome State Fault Refusal :=
  .next <|
    let s1 := s.queuesOff .pf
    { s1 with host := { s1.host with cmds := s1.host.cmds.map (fun c => if c.job.fn = .pf then { c with mute := true } else c) } }

/-- VF_ENABLE_CLEAR: the partitions of every VF are disabled. -/
def execVfEnableClear (s : State) : Host.Outcome State Fault Refusal :=
  .next <|
    if !s.host.vfEnable then s
    else
      let s1 := (List.range s.host.numVfs).foldl (fun (s : State) v => s.queuesOff (.vf v)) s
      let s2 := { s1 with host := { s1.host with vfEnable := false, flr := [] } }
      ((s2.parts.filter (fun e => e.2.vf.isSome && e.2.state == .active)).map Prod.fst).foldl (fun (s : State) p => s.disable p 2 false) s2

/-- A partition whose VF exists again returns. -/
def State.vfReturn (s : State) (n : Nat) (e : Nat × Part) : State :=
  match e.2.vf with
  | some v => if v < n then s.returnPart e.1 2 else s
  | none => s

/-- VF_ENABLE_SET. -/
def execVfEnableSet (numVfs : Nat) (s : State) : Host.Outcome State Fault Refusal :=
  .next <|
    if s.host.vfEnable then s
    else
      let s1 := { s with host := { s.host with vfEnable := true, numVfs := min 256 numVfs } }
      s1.parts.foldl (fun (s : State) e => s.vfReturn (min 256 numVfs) e) s1

/-! ### The end of a domain close (R229, R312, R419) -/

/-- A domain of the partition is closed: a tile with no running slice clears it at once, any other at its boundary. -/
def State.scrubClosed (s : State) (d : Nat) : State :=
  match s.partOfDomain d with
  | some p => (s.part p).tiles.foldl (fun (s : State) tl =>
      if (s.tile tl).running.isSome then s.modTile tl (fun t => { t with toScrub := t.toScrub ++ [d] }) else s.scrubDomain p tl d) s
  | none => s

/-- The close of a domain ends: its keys go, and the tiles clear what it left (R229, R389). -/
def State.endClose (s : State) (d : Nat) : State := if s.closeReady d then (s.eraseDomain d).scrubClosed d else s

/-- KEY_SLOT_ERASED: every handle has entered RETIRING and the last reference is released; a registration that
still runs is waited for. -/
def execKeySlotErased (d : Nat) (s : State) : Host.Outcome State Fault Refusal :=
  .next (s.endClose d)

/-- DOMAIN_CLOSE_DONE: the key slot is erased, and the response of the request that waits is ready to collect
(R415, R419). -/
def execDomainCloseDone (d : Nat) (s : State) : Host.Outcome State Fault Refusal :=
  .next (s.endClose d)

end Sys2Proof.Machine
end

