-- ==== Sys2Proof/Machine/Tick.lean ====
section
/-! DEFINITION. What passes while no command waits: ORBIT counts (R506, R575), and the tiles count their stall
cycles (R266). -/

namespace Sys2Proof.Machine

/-- Ticks ORBIT gains in one MCLK cycle: 1 from the root PLL, 12 from REF, none while MCLK is stopped. -/
def orbitRate (s : State) : Nat :=
  let d := s.clk.dom.getD 2 {}
  if !d.running || s.clk.pm = .l3 then 0 else if d.cur = 1 then 12 else 1

/-- Ticks of one MCLK cycle after the synchronisation of R461: at half rate every second cycle counts, and a slew
adds or withholds one tick in 1,024 cycles. -/
def synced (s : State) (n : Nat) : Nat × Janus :=
  let j := s.jan
  if n = 0 then (0, j)
  else if j.half ≠ 0 then (if j.half % 2 = 0 then 0 else n, { j with half := j.half - 1 })
  else if j.slew = 0 then (n, j)
  else if j.slewCnt + 1 < 1024 then (n, { j with slewCnt := j.slewCnt + 1 })
  else if 0 < j.slew then (n + 1, { j with slew := j.slew - 1, slewCnt := 0 })
  else (n - 1, { j with slew := j.slew + 1, slewCnt := 0 })

/-- One ACLK cycle while MCLK is stopped: ROOSTER counts it, and in L3 its timer counts down (R507, R527). -/
def aclkTick (s : State) : State :=
  { s with roo := { s.roo with
      count := s.roo.count + 1
      timerLeft := if s.clk.pm = .l3 then s.roo.timerLeft.map (· - 1) else s.roo.timerLeft } }

/-- One idle step: one MCLK cycle, or one ACLK cycle while MCLK is stopped (log entry 2). -/
def idle (s : State) : Host.Outcome State Fault Refusal :=
  if orbitRate s = 0 then .next (aclkTick s)
  else
    let r := synced s (orbitRate s)
    .next ({ s with orbit := { s.orbit with val := (s.orbit.val + r.1) % 2 ^ 64 }, jan := r.2 }.countStalls (8 * orbitRate s))

end Sys2Proof.Machine
end

