-- ==== Sys2Proof/Machine/Reset.lean ====
section
/-! DEFINITION. Chapter 17's resets: what a trigger abandons, erases and keeps, and where MCLK stops and
restarts (R507, R598 to R600). -/

namespace Sys2Proof.Machine

/-! ### MCLK (R506, R507, R575) -/

/-- Change clock domain `n`. -/
def State.modDomain (s : State) (n : Nat) (f : Dom → Dom) : State :=
  { s with clk := { s.clk with dom := s.clk.dom.modify n f } }

/-- Clock domain `n`. -/
def State.clkDom (s : State) (n : Nat) : Dom := s.clk.dom.getD n {}

/-- MCLK restarts: ORBIT takes up the ACLK cycles that ROOSTER counted, and an edge that arrived in the stop
captures the restart value (R507, R509). -/
def State.mclkRestart (s : State) : State :=
  let v := (s.orbit.val + 120 * s.roo.count) % 2 ^ 64
  let o := s.orbit
  { s with
    orbit := if o.capAtRestart then { o with val := v, cap := v, capValid := true, overrun := o.overrun || o.capValid, capAtRestart := false }
             else { o with val := v }
    roo := { s.roo with sleep := s.roo.count, count := 0 } }

/-! ### What a trigger leaves (R599, R600) -/

/-- A tile after a trigger: its memory waits for the wipe, and everything else is at its Reset value. -/
def Tile.atReset (t : Tile) : Tile :=
  { scratch := { lines := t.scratch.lines }, treg := t.treg, tags := t.tags }

/-- A quadrant after a trigger. -/
def Quad.atReset (q : Quad) : Quad :=
  { tiles := (q.tiles.map (fun t => (t.1, t.2.atReset))).filter (fun t => t.2 != {}), qb := { lines := q.qb.lines } }

/-- A handle after a warm trigger: FREE, and the next epoch is one that no tenant saw (R605). -/
def DirEntry.atReset (e : DirEntry) : DirEntry :=
  { epoch := if e.state = .free then e.epoch else nextEpoch e.epoch }

/-- A domain ID after a warm trigger: closed, with its open generation (R600). -/
def Domain.atReset (d : Domain) : Domain := { gen := d.gen, opened := d.opened, exhausted := d.exhausted }

/-- The directory after a trigger. Epochs and open generations live in always-on storage. -/
def Dir.atReset (d : Dir) (cold : Bool) : Dir :=
  if cold then {}
  else
    { entries := (d.entries.map (fun e => (e.1, e.2.atReset))).filter (fun e => e.2 != {})
      domains := (d.domains.map (fun e => (e.1, e.2.atReset))).filter (fun e => e.2 != {}) }

/-- Always-on sources that fired in L3 are delivered after the exit (R527). -/
def Sdg.atReset (g : Sdg) (cause : Nat) : Sdg :=
  if cause = 0x11 then { src := g.src.filter (fun e => decide (0x380 ≤ e.1) && decide (e.1 < 0x3C0)) } else {}

/-- ROOSTER after a trigger: its counts run on, and the record of a wake stands after an exit from L3. -/
def Roo.atReset (r : Roo) (cause : Nat) (stopped : Bool) : Roo :=
  { count := if stopped then r.count else 0, wakeN := r.wakeN
    wakeValid := cause = 0x11 && r.wakeValid, wakeSource := if cause = 0x11 then r.wakeSource else 0 }

/-- The standby domain keeps its monitors, record, straps and pins; the registers return to their Reset values. -/
def Power.atReset (p : Power) : Power :=
  { p with
    inWarn := false, volts := 0, amps := 0, p1s := 0, p10ms := 0, limit := 1500, powerCap := 0, thermalCap := 0
    lowTicks := 0, sensors := [], clkFault := p.record }

/-- The clocks after a trigger: domains 0 to 3 stop until HOST_LINK, and CCLK will run at P3 until READY (R602). -/
def Clk.atReset (c : Clk) (osc : Nat) : Clk :=
  { locked := false, refOk := c.refOk, aclkRc := c.aclkRc, refTicks := c.refTicks, settled := c.settled, settleN := 2 ^ osc
    cur := 3, vdd := 620
    dom := List.replicate 4 stoppedDom ++ [{ src := 1, cur := if c.aclkRc then 2 else 1, want := 1 }] }

/-- Everything that a trigger abandons, erases or returns to its Reset value (R410, R599, R600). -/
def State.abandon (s : State) (cause : Nat) (cold : Bool) : State :=
  let stopped := orbitRate s == 0
  { s with
    glb := {}
    start := { cause := cause, cold := cold, cal := if cold then none else s.start.cal, laserTemp := s.start.laserTemp
               fuseHeld := s.start.fuseHeld && !cold }
    pwr := s.pwr.atReset
    clk := s.clk.atReset s.pwr.strapOsc
    orbit := if cold then {} else { val := s.orbit.val }
    roo := s.roo.atReset cause (stopped && !cold)
    sdg := s.sdg.atReset cause
    host := { mem := s.host.mem, fails := s.host.fails }
    dir := s.dir.atReset cold
    train := {}
    par := {}
    parts := []
    mul := {}
    quads := s.quads.map Quad.atReset
    hbm := s.hbm.map (fun k => { lines := k.lines, pages := k.pages })
    tri := {}
    vault := { sealed := s.vault.sealed }
    jan := {} }

/-! ### The start begins (R601, R602) -/

/-- HOST_LINK begins: MCLK runs from REF, and at a cold start ORBIT is 0 at its first cycle (R506). -/
def State.beginHostLink (s : State) : State :=
  let s1 := (List.range 4).foldl (fun (s : State) n => s.modDomain n (fun d => { d with running := true })) s
  let s2 := if s.start.cold then { s1 with orbit := {}, roo := { s1.roo with count := 0 } } else s1.mclkRestart
  { s2 with start := { s2.start with at_ := 3, stage := 3, waitPerst := false } }

/-- Stage `n` is next: POWER and HOST_LINK wait for the deassertion of PERST_N. -/
def State.enterEarly (s : State) (n : Nat) : State :=
  if n = 1 then { s with start := { s.start with at_ := 1 } }
  else if s.pwr.perst then { s with start := { s.start with at_ := n, waitPerst := true } }
  else if n = 2 then { s with start := { s.start with at_ := 2, waitPerst := false } }
  else s.beginHostLink

/-- A reset trigger with its cause (Table 17.1). The start is cold when the cause is, or when it abandons a cold
start that had not finished FUSE. -/
def State.resetTrigger (s : State) (cause : Nat) : State :=
  let cold := decide (cause < 0x10) || (s.start.result == 0 && s.start.cold && !s.start.fused)
  (s.abandon cause cold).enterEarly (if cold then 1 else if cause = 0x11 then 2 else 3)

/-! ### The reset register, pins and PLL (R571, R598, R618) -/

/-- GLB_RESET_COLD: a write of GLB_RESET with KEY 0xA5 and COLD. -/
def execGlbResetCold (value : Nat) (s : State) : Host.Outcome State Fault Refusal :=
  .next (if s.hostUp && bitsOf value 8 8 == 0xA5 && bitOf value 1 then s.resetTrigger 0x03 else s)

/-- GLB_RESET_WARM: a write with KEY 0xA5 and WARM; COLD set as well makes it cold. -/
def execGlbResetWarm (value : Nat) (s : State) : Host.Outcome State Fault Refusal :=
  .next <|
    if !(s.hostUp && bitsOf value 8 8 == 0xA5 && (bitOf value 0 || bitOf value 1)) then s
    else s.resetTrigger (if bitOf value 1 then 0x03 else 0x13)

/-- PLL_LOCK_LOSS. -/
def execPllLockLoss (s : State) : Host.Outcome State Fault Refusal :=
  .next (if s.clk.locked then s.resetTrigger 0x12 else s)

/-! ### L3 (R526, R527, R585, R586) -/

/-- L3 begins: keys are erased, the dies lose everything, MCLK stops and ROOSTER counts. -/
def State.enterL3 (s : State) : State :=
  let t := s.abandon 0 false
  { t with
    start := { t.start with at_ := 0 }
    clk := { t.clk with pm := .l3 }
    quads := List.replicate 8 {}
    hbm := List.replicate 8 {}
    sdg := { src := s.sdg.src.filter (fun e => decide (0x380 ≤ e.1)), cfg := s.sdg.cfg.filter (fun e => decide (0x380 ≤ e.1)) }
    roo := { s.roo with count := 0, wakeValid := false, timerLeft := if s.roo.timer = 0 then none else some s.roo.timer } }

/-- Does a VALID entry of the watch list name a source? -/
def State.watched (s : State) (n : Nat) : Bool := s.roo.watch.any (fun e => e.2.1 && e.2.2 == n)

/-- The exit from L3 begins with a watched source: ROO_WAKE holds it, WAKE_N is asserted, and power returns at the
deassertion of PERST_N. -/
def State.wakeUp (s : State) (n : Nat) : State :=
  let s1 := { s with roo := { s.roo with wakeValid := true, wakeSource := n, wakeN := s.roo.wakeN || s.roo.wakeNEn } }
  s1.resetTrigger 0x11

/-- An always-on source fires; in L3 the first watched one starts the exit. A source whose ENABLE is 0 ignores
its fire. -/
def State.fireAlways (s : State) (n : Nat) : State :=
  let s1 := s.fire n
  if s.clk.pm == .l3 && s.watched n && s.srcEnabled n then s1.wakeUp n else s1

/-- L3_WAKE: a watched source fires in L3. -/
def execL3Wake (source : Nat) (s : State) : Host.Outcome State Fault Refusal :=
  .next (if s.clk.pm == .l3 && s.watched source then s.fireAlways source else s)

/-- ROO_TIMER_EXPIRY: the timer that counts in L3 reaches zero. -/
def execRooTimerExpiry (s : State) : Host.Outcome State Fault Refusal :=
  .next (if s.clk.pm == .l3 && s.roo.timerLeft == some 0 then
    { s with roo := { s.roo with timerLeft := none } }.fireAlways 0x393 else s)

/-- LIGHT_DETECT: light appears on the receive fibre of a port. -/
def execLightDetect (p : Nat) (s : State) : Host.Outcome State Fault Refusal :=
  .next (if p < Config.ports then s.fireAlways (0x380 + p) else s)

/-- ORBIT_SYNC_EDGE (R509). While MCLK is stopped the edge captures at the restart. -/
def execOrbitSyncEdge (s : State) : Host.Outcome State Fault Refusal :=
  let run := (s.clk.dom.getD 2 {}).running && s.clk.pm != .l3
  .next <| State.fireAlways (n := 0x392) <|
    if run then { s with orbit := { s.orbit with
        cap := s.orbit.val, capValid := true,
        overrun := s.orbit.overrun || s.orbit.capValid } }
    else { s with orbit := { s.orbit with capAtRestart := true } }

/-- PE_RX_ACTIVITY. -/
def execPeRxActivity (s : State) : Host.Outcome State Fault Refusal := .next (s.fireAlways 0x390)

/-- HOST_LINK_L0: the host link returns to L0, and WAKE_N is released (R526). The speed, the width and the mode
that the link negotiated are free values (R502). -/
def execHostLinkL0 (s : State) : Host.Outcome State Fault Refusal :=
  .next <|
    if !s.hostUp then s
    else
      let d := s.draw 12
      let n := d.1.toNat
      { d.2 with
        roo := { s.roo with wakeN := false }
        host := { d.2.host with speed := 1 + n % 6, width := 1 + n / 6 % 16, flit := bitOf (n / 96) 0 } }

/-- PERST_ASSERT: ignored while PWRGD is low; with L3 armed it enters L3; otherwise it is a warm reset. -/
def execPerstAssert (s : State) : Host.Outcome State Fault Refusal :=
  .next <|
    let s1 := { s with pwr := { s.pwr with perst := true } }
    if s.pwr.main != .on || s.pwr.perst || s.clk.pm == .l3 then s1
    else if s.clk.pm == .armed then s1.enterL3
    else s1.resetTrigger 0x10

/-- PERST_DEASSERT: a stage that waits begins; in L3 it is the exit (R586, R602). -/
def execPerstDeassert (s : State) : Host.Outcome State Fault Refusal :=
  .next <|
    let s1 := { s with pwr := { s.pwr with perst := false } }
    if s.pwr.main != .on || !s.pwr.perst then s1
    else if s.clk.pm == .l3 then s1.resetTrigger 0x11
    else if s.start.waitPerst then s1.enterEarly s1.start.at_
    else s1

end Sys2Proof.Machine
end

