-- ==== Sys2Proof/Machine/Clocks.lean ====
section
/-! DEFINITION. Chapter 16's commands: clock switches, P-states, the reference monitor, Q-gate, L2 and L3. -/

namespace Sys2Proof.Machine

/-! ### P-states (R576 to R580) -/

/-- VDD_CORE in mV (Table 16.3). -/
def vddOf (p : Nat) : Nat := [780, 720, 670, 620].getD p 620

/-- The effective target: the slowest of the request and the two caps. -/
def State.pTarget (s : State) : Nat := max s.clk.req (max s.pwr.powerCap s.pwr.thermalCap)

/-- A transition begins where the target differs from the P-state reached; changes during a transition, an L2
entry or an L2 exit are taken up when it ends (R577, R587). -/
def State.retarget (s : State) : State :=
  let t := s.pTarget
  if s.clk.phase != .idle || !s.isReady || t == s.clk.cur || !(s.clk.pm == .d0 || s.clk.pm == .armed || s.clk.pm == .l2) then s
  else if t < s.clk.cur then { s with clk := { s.clk with goal := t, phase := .rampUp, vdd := vddOf t } }
  else { s with clk := { s.clk with goal := t, phase := .hold } }

/-- L2 entry begins (R583). -/
def State.beginL2 (s : State) : State :=
  { s with
    clk := { s.clk with pm := .entering, l2Waiting := false }
    dir := { s.dir with domains := (s.dir.domains.map (fun (d : Nat × Domain) => (d.1, { d.2 with slotKey := false }))).filter (fun (d : Nat × Domain) => d.2 != ({} : Domain)) } }

/-- A transition ends; an accepted L2 request that waited for it begins, or the next transition does. -/
def State.pEnd (s : State) : State :=
  let s1 := ({ s with clk := { s.clk with phase := .idle, changes := s.clk.changes + 1 } }).fire 0x126
  if s1.clk.l2Waiting then s1.beginL2 else s1.retarget

/-- PSTATE_REQUEST: a write of CLK_PSTATE_REQ. One that changes REQ leaves L2 (R584). -/
def execPstateRequest (value : Nat) (s : State) : Host.Outcome State Fault Refusal :=
  .next <|
    let r := bitsOf value 0 2
    if !s.hostUp then s
    else
      let s1 := if r = s.clk.req then s else s.l2Wake
      { s1 with clk := { s1.clk with req := r } }.retarget

/-- VDD_RAMP_UP_DONE: the hold is asserted. -/
def execVddRampUpDone (s : State) : Host.Outcome State Fault Refusal :=
  .next (if s.clk.phase = .rampUp then { s with clk := { s.clk with phase := .hold } } else s)

/-- Every tile holds a slice boundary: no slice, slot switch or test micro-op runs. -/
def State.atBoundary (s : State) : Bool :=
  s.quads.all (fun q => q.tiles.all (fun t => t.2.running.isNone && t.2.switching.isNone && !t.2.vxu.goBusy))

/-- CCLK_STOP_POINT. -/
def execCclkStopPoint (s : State) : Host.Outcome State Fault Refusal :=
  .next (if s.clk.phase = .hold && s.atBoundary then
    ({ s with clk := { s.clk with phase := .stopped } }).modDomain 0 (fun d => { d with running := false }) else s)

/-- CCLK_RESTART: CUR takes the new P-state. A faster one ends the transition; after a slower one VDD_CORE ramps
down. -/
def execCclkRestart (s : State) : Host.Outcome State Fault Refusal :=
  .next <|
    if s.clk.phase ≠ .stopped then s
    else
      let g := s.clk.goal
      let s1 := ({ s with clk := { s.clk with cur := g } }).modDomain 0 (fun d => { d with running := true })
      if s1.clk.vdd = vddOf g then s1.pEnd else { s1 with clk := { s1.clk with vdd := vddOf g, phase := .rampDown } }

/-- VDD_RAMP_DOWN_DONE. -/
def execVddRampDownDone (s : State) : Host.Outcome State Fault Refusal :=
  .next (if s.clk.phase = .rampDown then s.pEnd else s)

/-! ### Upper-level switches (R572 to R575) -/

/-- Source codes that a domain has. -/
def srcOk (n c : Nat) : Bool := if n = 4 then c == 1 || c == 2 else decide (n < 4) && decide (c ≤ 1)

/-- The ready flag of a source: 0 ROOT, 1 REF, 2 RC. -/
def State.srcReady (s : State) (c : Nat) : Bool := if c = 0 then s.clk.locked else if c = 1 then s.clk.refOk else true

/-- EV_CLK_SWITCH_REFUSED. -/
def State.refuseSwitch (s : State) (n c : Nat) : State := s.raise 0x0C 0x126 0xFF n c

/-- The condition of R574 on a switch that software requests. -/
def State.switchFree (s : State) : Bool :=
  s.parts.all (fun p => p.2.state == .free) && s.jan.ports.all (fun p => p.state == .off || p.state == .noPeer)

/-- CLOCK_SWITCH: a write of CLK_DOMn_CTRL. -/
def execClockSwitch (n value : Nat) (s : State) : Host.Outcome State Fault Refusal :=
  .next <|
    let c := bitsOf value 0 2
    if !s.hostUp || !srcOk n c then s
    else
      let s1 := s.modDomain n (fun d => { d with src := c })
      if !bitOf value 31 || (s.clkDom n).busy then s1
      else if n < 4 && !s.switchFree then (s1.modDomain n (fun d => { d with result := 2 })).refuseSwitch n c
      else s1.modDomain n (fun d => { d with busy := true, gated := false, want := c })

/-- CLOCK_STOP_POINT: the domain is gated and the mux acts; it refuses a source that is not ready. -/
def execClockStopPoint (n : Nat) (s : State) : Host.Outcome State Fault Refusal :=
  .next <|
    let d := s.clkDom n
    if !d.busy || d.gated || (n == 0 && !(s.atBoundary && s.clk.phase == .idle)) then s
    else
      let ok := s.srcReady d.want
      let s1 := s.modDomain n (fun d => { d with gated := true, running := false, outcome := if ok then 0 else 1, cur := if ok then d.want else d.cur })
      let s2 := if n = 2 then s1.setSynced false else s1
      let s3 := if n = 4 then { s2 with clk := { s2.clk with aclkRc := (s2.clkDom 4).cur == 2 } } else s2
      if ok then s3 else s3.refuseSwitch n d.want

/-- CLOCK_SWITCH_DONE: twelve cycles later the gate opens. -/
def execClockSwitchDone (n : Nat) (s : State) : Host.Outcome State Fault Refusal :=
  .next <|
    if !((s.clkDom n).busy && (s.clkDom n).gated) then s
    else
      let s1 := s.modDomain n (fun d => { d with gated := false, running := true, busy := false, result := d.outcome })
      (if n = 2 then s1.mclkRestart else s1).fire 0x126

/-! ### The reference monitor (R569) -/

/-- REF_MONITOR_TICK: one period of 100 µs. A loss of REF takes ACLK to RC and the root PLL out of lock. -/
def execRefMonitorTick (refOk : Bool) (s : State) : Host.Outcome State Fault Refusal :=
  .next <|
    if refOk && s.clk.settled then
      { s with clk := { s.clk with refOk := true, refTicks := if s.clk.aclkRc then s.clk.refTicks + 1 else 0 } }
    else if !s.clk.refOk then { s with clk := { s.clk with refTicks := 0 } }
    else
      let s1 := ({ s with clk := { s.clk with refOk := false, refTicks := 0, aclkRc := true } }).modDomain 4 (fun d => { d with cur := 2 })
      if s1.clk.locked then s1.resetTrigger 0x12 else s1

/-- ACLK_RETURN: REF has been ready for 1 ms. -/
def execAclkReturn (s : State) : Host.Outcome State Fault Refusal :=
  .next (if s.clk.aclkRc && s.clk.refOk && decide (10 ≤ s.clk.refTicks) && (s.clkDom 4).src == 1 then
    ({ s with clk := { s.clk with aclkRc := false, refTicks := 0 } }).modDomain 4 (fun d => { d with cur := 1 }) else s)

/-! ### Q-gate (R582, R587, R596) -/

/-- `n` with bit `i` set. -/
def setBit (n i : Nat) : Nat := if bitOf n i then n else n + 2 ^ i

/-- The exit of quadrant `q` begins: its banks return from Off and fill with zero (R211). -/
def State.beginUngate (s : State) (q : Nat) : State :=
  let s1 := s.modQuad q (fun k => { k with
    tiles := k.tiles.map (fun t => (t.1, { t.2 with scratch := { t.2.scratch with
      banks := t.2.scratch.banks.map (fun b => (b.1, BankMode.zeroFill)) } })) })
  { s1 with clk := { s1.clk with exiting := setBit s1.clk.exiting q } }

/-- QGATE_WRITE. A quadrant that the structure disables stays gated. -/
def execQgateWrite (value : Nat) (s : State) : Host.Outcome State Fault Refusal :=
  .next <|
    if !s.hostUp then s
    else
      let g := bitsOf value 0 8 ||| (0xFF - bitsOf s.glb.cfg.quadEnable 0 8)
      (List.range 8).foldl (fun (s : State) q => if !bitOf g q && bitOf s.clk.gated q && !bitOf s.clk.exiting q then s.beginUngate q else s)
        { s with clk := { s.clk with gate := g } }

/-- QGATE_ENTRY_START: the waiting request's conditions hold. -/
def execQgateEntryStart (q : Nat) (s : State) : Host.Outcome State Fault Refusal :=
  .next <|
    let c := s.clk
    if q < 8 && bitOf c.gate q && !bitOf c.gated q && !bitOf c.entering q && c.phase == .idle && s.isReady &&
        (List.range 32).all (fun t => (s.ownerOf ⟨q, t⟩).isNone) && (s.quad q).tiles.all (fun t => !t.2.vxu.test) &&
        (s.stack q).zeroFill.all (fun e => e.2.isEmpty) then
      { s with clk := { c with entering := setBit c.entering q } }
    else s

/-- A gated quadrant: every bank is Off, and the die holds nothing. -/
def State.gateOff (s : State) (q : Nat) : State :=
  s.modQuad q (fun k => { k with
    tiles := (List.range 32).map (fun t => (t, { (mget {} k.tiles t).scrubAll with
      treg := [], tags := [], slots := List.replicate 8 {}, current := none
      scratch := { (mget {} k.tiles t).scratch with lines := [], banks := (List.range 32).map (fun b => (b, BankMode.off)) } }))
    qb := { k.qb with lines := [] } })

/-- QGATE_ENTRY_DONE. A request withdrawn meanwhile begins the exit. -/
def execQgateEntryDone (q : Nat) (s : State) : Host.Outcome State Fault Refusal :=
  .next <|
    if !bitOf s.clk.entering q then s
    else
      let s1 := s.gateOff q
      let s2 := { s1 with clk := { s1.clk with entering := clearBit s1.clk.entering q, gated := setBit s1.clk.gated q } }
      (if bitOf s2.clk.gate q then s2 else s2.beginUngate q).fire 0x126

/-- QGATE_EXIT_DONE. -/
def execQgateExitDone (q : Nat) (s : State) : Host.Outcome State Fault Refusal :=
  .next (if bitOf s.clk.exiting q && bitOf s.clk.gated q then (s.ungate q).fire 0x126 else s)

/-! ### L2 and L3 (R583 to R587, R594, R595) -/

/-- A request ends with RESULT. -/
def State.pmEnd (s : State) (r : Nat) : State := { s with clk := { s.clk with pmDone := true, pmResult := r } }

/-- An entry or exit runs. -/
def State.pmBusy (s : State) : Bool := s.clk.pm == .entering || s.clk.pm == .exiting || s.clk.l2Waiting

/-- A GO is taken: DONE clears. -/
def State.pmGo (s : State) (target : Nat) : State := { s with clk := { s.clk with pmTarget := target, pmDone := false } }

/-- PM_REQUEST_D0. -/
def execPmRequestD0 (s : State) : Host.Outcome State Fault Refusal :=
  .next <|
    if !s.hostUp || s.pmBusy then s
    else
      let s1 := s.pmGo 0
      match s.clk.pm with
      | .l2 => s1.l2Wake
      | .armed => { s1 with clk := { s1.clk with pm := .d0 } }.pmEnd 0
      | _ => s1.pmEnd 0

/-- The conditions of R583. -/
def State.l2Ok (s : State) : Bool :=
  s.clk.pm == .d0 && s.host.exp.all (fun e => e.phase == 3) && s.host.imp.isNone &&
  s.parts.all (fun p => p.2.state == .free ||
    (p.2.switch.isNone && p.2.patches.isEmpty && !s.host.cmds.any (fun c => c.phase != .final && s.ofPart p.1 c) &&
      (List.range 16).all (fun k => (s.slot p.1 k).state != .committing && (s.slot p.1 k).state != .inDoubt)))

/-- PM_REQUEST_L2. -/
def execPmRequestL2 (s : State) : Host.Outcome State Fault Refusal :=
  .next <|
    if !s.hostUp || s.pmBusy then s
    else
      let s1 := s.pmGo 2
      if !s.isReady || !s.l2Ok then s1.pmEnd 1
      else if s.clk.phase ≠ .idle then { s1 with clk := { s1.clk with l2Waiting := true } }
      else s1.beginL2

/-- PM_REQUEST_L3. -/
def execPmRequestL3 (s : State) : Host.Outcome State Fault Refusal :=
  .next <|
    if !s.hostUp || s.pmBusy then s
    else
      let s1 := s.pmGo 3
      if s.clk.pm ≠ .d0 || !s.isReady then s1.pmEnd 1
      else if s.parts.any (fun p => p.2.state != .free) then s1.pmEnd 2
      else { s1 with clk := { s1.clk with pm := .armed, armedAt := s.now } }

/-- L2_ENTRY_DONE. -/
def execL2EntryDone (s : State) : Host.Outcome State Fault Refusal :=
  .next <|
    if s.clk.pm ≠ .entering then s
    else
      let s1 := ({ s with clk := { s.clk with pm := .l2, wakePending := false } }.pmEnd 0).fire 0x126
      if s.clk.wakePending then s1.l2Wake else s1

/-- L2_EXIT_DONE: key slots are loaded again and fetching resumes. -/
def execL2ExitDone (s : State) : Host.Outcome State Fault Refusal :=
  .next <|
    if s.clk.pm ≠ .exiting then s
    else
      let s1 := { s with
        clk := { s.clk with pm := .d0 }
        dir := { s.dir with domains := (s.dir.domains.map (fun (d : Nat × Domain) =>
          (d.1, { d.2 with slotKey := d.2.open_ }))).filter (fun (d : Nat × Domain) => d.2 != ({} : Domain)) } }
      ((s1.pmEnd 0).fire 0x126).retarget

/-- L3_ARM_TIMEOUT: 1 s without PERST_N. -/
def execL3ArmTimeout (s : State) : Host.Outcome State Fault Refusal :=
  .next (if s.clk.pm = .armed && decide (s.clk.armedAt + 1200000000 ≤ s.now) then
    { s with clk := { s.clk with pm := .d0 } }.pmEnd 3 else s)

end Sys2Proof.Machine
end

