-- ==== Sys2Proof/Machine/Supply.lean ====
section
/-! DEFINITION. Chapter 15's commands: the 72 V input, power sequencing, faults, caps, thermal levels and SMBus. -/

namespace Sys2Proof.Machine

/-! ### Loss of the main conversion (R553, R554) -/

/-- The main conversion goes off: everything that the dies hold is lost, and no stage runs until PWRGD is released. -/
def State.powerLoss (s : State) (m : MainRail) : State :=
  let t := s.abandon 0 true
  { t with
    start := { t.start with at_ := 0, cause := 0 }
    quads := List.replicate 8 {}
    hbm := List.replicate 8 {}
    pwr := { t.pwr with main := m } }

/-- Every sensor lies below CRITICAL. A monitor that has no reading yet does not say so. -/
def State.belowCritical (s : State) : Bool := !s.pwr.sensors.isEmpty && s.pwr.sensors.all (fun e => decide (e.2.level < 3))

/-- The input lies within its operating thresholds, and after a trip every sensor lies below CRITICAL (R554). -/
def State.rampOk (s : State) : Bool :=
  decide (5400 ≤ s.pwr.lastMv) && decide (s.pwr.lastMv < 8400) && (!s.pwr.tripHold || s.belowCritical)

/-- Is the main conversion running? A ramp that R554 holds off has not begun. -/
def State.mainRuns (s : State) : Bool :=
  s.pwr.main == .on || (s.pwr.main == .ramping && s.pwr.pwrEn && s.rampOk)

/-- A fault of Table 15.7: `causes` are the codes found in one ACLK cycle while the conversion runs, `sensor` is
that of a trip. -/
def State.mainFault (s : State) (runs : Bool) (causes : List Nat) (sensor : Nat := 0xFF) : State :=
  if causes.isEmpty || !runs then s
  else
    let first := causes.foldl min 0xF
    let bits := causes.foldl setBit 0
    let r : FaultRec := { valid := true, first := first, sensor := if first = 4 then sensor else 0xFF, causes := bits }
    let s1 := { s with pwr := { s.pwr with
      record := r, lowSeen := false, tripHold := causes.contains 4, thermTrip := s.pwr.thermTrip || causes.contains 4 } }
    s1.powerLoss .faulted

/-! ### The input monitor (R549) -/

/-- Causes of Table 15.5 that a sample shows, given the times that its limits have been passed. -/
def inputCauses (volts amps under ov oc : Nat) : List Nat :=
  (if volts < 4800 || 1000 ≤ under then [1] else []) ++ (if 100 ≤ ov then [2] else []) ++
  (if 6000 ≤ amps || 1000 ≤ oc then [3] else [])

/-- Outside the warning window. -/
def inputWarn (volts : Nat) : Bool := decide (volts < 6200) || decide (7800 < volts)

/-- INPUT_SAMPLE, every 10 µs: volts in 10 mV, amperes in 10 mA. -/
def execInputSample (volts amps : Nat) (s : State) : Host.Outcome State Fault Refusal :=
  .next <|
    if s.pwr.standby = .off then { s with pwr := { s.pwr with lastMv := volts } }
    else
      let under := if volts < 5400 then s.pwr.underUs + 10 else 0
      let ov := if 8400 ≤ volts then s.pwr.overUs + 10 else 0
      let oc := if 4000 ≤ amps then s.pwr.ocUs + 10 else 0
      let w := inputWarn volts
      let s1 := { s with pwr := { s.pwr with
        lastMv := volts, underUs := under, overUs := ov, ocUs := oc, inWarn := w, alert := s.pwr.alert || w != s.pwr.inWarn } }
      let s2 := if w = s.pwr.inWarn then s1 else s1.fireAlways 0x394
      s2.mainFault s.mainRuns (inputCauses volts amps under ov oc)

/-- INPUT_UVLO_RISE: the standby converter starts. -/
def execInputUvloRise (s : State) : Host.Outcome State Fault Refusal :=
  .next (if s.pwr.standby = .off then { s with pwr := { s.pwr with standby := .starting, underUs := 0, overUs := 0, ocUs := 0 } } else s)

/-- STANDBY_READY: the straps are sampled, and SMBus answers. -/
def execStandbyReady (idPins oscPins : Nat) (s : State) : Host.Outcome State Fault Refusal :=
  .next <|
    if s.pwr.standby ≠ .starting then s
    else { s with
      pwr := { s.pwr with
        standby := .ready, strapId := bitsOf idPins 0 4, strapOsc := bitsOf oscPins 0 3, alert := s.pwr.alert || s.pwr.record.valid
        main := if s.pwr.pwrEn then .ramping else .off }
      clk := { s.clk with settled := false, refOk := false, refTicks := 0, settleN := 2 ^ bitsOf oscPins 0 3 } }

/-- STANDBY_SHUTDOWN: 1 ms below the falling lockout threshold. The fault record is lost. -/
def execStandbyShutdown (s : State) : Host.Outcome State Fault Refusal :=
  .next <|
    if s.pwr.standby = .off || s.pwr.underUs < 1000 then s
    else
      let t := s.powerLoss .off
      { t with
        pwr := { t.pwr with
          standby := .off, record := {}, clkFault := {}, alert := false, thermTrip := false, tripHold := false, lowSeen := false
          underUs := 0, overUs := 0, ocUs := 0 }
        roo := {}
        orbit := {} }

/-! ### Power sequencing (R552 to R554) -/

/-- PWR_EN_HIGH: the rails ramp. After a fault they do so only when PWR_EN has been low for 10 ms. -/
def execPwrEnHigh (s : State) : Host.Outcome State Fault Refusal :=
  .next <|
    let up := s.pwr.standby == .ready && !s.pwr.pwrEn && (s.pwr.main == .off || (s.pwr.main == .faulted && s.pwr.lowSeen))
    { s with pwr := { s.pwr with pwrEn := true, main := if up then .ramping else s.pwr.main } }

/-- Readings that are gone while PWR_EN is low: dies, stacks and laser array (R547). -/
def dieSensor (n : Nat) : Bool := decide (n ≤ 0x08) || (decide (0x10 ≤ n) && decide (n ≤ 0x17)) || n == 0x23

/-- PWR_EN_LOW for a number of milliseconds: PWRGD falls and the rails go off. -/
def execPwrEnLow (ms : Nat) (s : State) : Host.Outcome State Fault Refusal :=
  .next <|
    let s1 := if s.mainRuns then s.powerLoss .off else s
    let p := s1.pwr
    { s1 with pwr := { p with
      pwrEn := false, thermTrip := false, lowSeen := p.lowSeen || (p.main == .faulted && decide (10 ≤ ms))
      sensors := p.sensors.filter (fun e => !dieSensor e.1) } }

/-- PWRGD_RELEASE: every main rail is in regulation, and a POWER_ON cold start begins. -/
def execPwrgdRelease (s : State) : Host.Outcome State Fault Refusal :=
  .next <|
    let p := s.pwr
    if p.main = .ramping && p.standby == .ready && p.pwrEn && s.rampOk then
      ({ s with pwr := { p with main := .on, tripHold := false } }).resetTrigger 0x01
    else s

/-- MAIN_RAIL_OUT_OF_REGULATION for 100 µs. -/
def execMainRailOutOfRegulation (s : State) : Host.Outcome State Fault Refusal :=
  .next (if s.pwr.main = .on then s.mainFault true [5] else s)

/-! ### Caps (R550, R551, R558) -/

/-- POWER_CAP_TICK, every 10 ms: averages in 10 mV, 10 mA and 0.1 W. -/
def execPowerCapTick (volts amps p1s p10ms : Nat) (s : State) : Host.Outcome State Fault Refusal :=
  .next <|
    if s.pwr.standby ≠ .ready then s
    else
      let p := { s.pwr with volts := min 0xFFFF volts, amps := min 0xFFFF amps, p1s := min 0xFFFF p1s, p10ms := min 0xFFFF p10ms }
      let p' : Power :=
        if 10 * p.limit < p1s then { p with powerCap := min 3 (p.powerCap + 1), lowTicks := 0 }
        else if 2 * p1s < 19 * p.limit then
          (if p.lowTicks + 1 < 10 then { p with lowTicks := p.lowTicks + 1 } else { p with powerCap := p.powerCap - 1, lowTicks := 0 })
        else { p with lowTicks := 0 }
      { s with pwr := p' }.retarget

/-- Thresholds WARN, THROTTLE, CRITICAL and TRIP of a sensor in °C (Tables 15.8 and 15.9); none: reserved. -/
def thresholds (n : Nat) : Option (List Nat) :=
  if n ≤ 0x08 then some [95, 100, 105, 115]
  else if 0x10 ≤ n && n ≤ 0x17 then some [85, 90, 95, 105]
  else if n = 0x20 then some [40, 43, 47, 55]
  else if n = 0x21 then some [55, 58, 62, 70]
  else if n = 0x22 then some [100, 110, 120, 125]
  else if n = 0x23 then some [65, 70, 75, 85]
  else none

/-- The highest level whose threshold a temperature (0.125 °C) has reached. -/
def levelOf (th : List Nat) (t : Int) : Nat := (th.filter (fun x => decide ((8 * x : Int) ≤ t))).length

/-- The level after a reading: lower only when the temperature has fallen 3 K below the current threshold. -/
def nextLevel (th : List Nat) (cur : Nat) (t : Int) : Nat :=
  let l := levelOf th t
  if cur ≤ l then l
  else if t < (8 * th.getD (cur - 1) 0 : Int) - 24 then l else cur

/-- The highest level of any sensor. -/
def Power.levelMax (p : Power) : Nat := p.sensors.foldl (fun m e => max m e.2.level) 0

/-- One reading (R557): the level moves, EV_THERMAL is raised for a change, and ALERT_N is asserted on entry to WARN
or above. 0x8000 is no reading. -/
def State.readSensor (s : State) (n temp : Nat) : State :=
  match thresholds n with
  | none => s
  | some th =>
    if temp % 2 ^ 16 = 0x8000 || (dieSensor n && s.pwr.main != .on) then s
    else
      let t := sint 16 temp
      let old := mget {} s.pwr.sensors n
      let l := nextLevel th old.level t
      let s1 := { s with pwr := { s.pwr with
        sensors := mset {} s.pwr.sensors n { level := l, temp := temp % 2 ^ 16 }
        alert := s.pwr.alert || decide (old.level < l) } }
      let s2 := if 0x10 ≤ n && n ≤ 0x17 then s1.modStack (n - 0x10) (fun k => { k with temp := temp % 2 ^ 16 }) else s1
      if l = old.level || s.pwr.main != .on then s2 else s2.raise 0x0A 0x125 0xFF n (uint 32 (t.tdiv 8)) l

/-- THERMAL_SAMPLE, every 100 µs: (sensor, temperature in 0.125 °C). CRITICAL caps at P3 at once, TRIP is fault 0x4. -/
def execThermalSample (readings : List (Nat × Nat)) (s : State) : Host.Outcome State Fault Refusal :=
  .next <|
    if s.pwr.standby ≠ .ready then s
    else
      let s1 := readings.foldl (fun (s : State) r => s.readSensor r.1 r.2) s
      let s2 := if 3 ≤ s1.pwr.levelMax then { s1 with pwr := { s1.pwr with thermalCap := 3 } }.retarget else s1
      match s2.pwr.sensors.find? (fun e => e.2.level == 4) with
      | some e => s2.mainFault s.mainRuns [4] e.1
      | none => s2

/-- THERMAL_CAP_STEP: the timer of the level expires, after 1 ms at THROTTLE and after 10 ms below it. -/
def execThermalCapStep (s : State) : Host.Outcome State Fault Refusal :=
  .next <|
    if s.pwr.standby ≠ .ready then s
    else
      let l := s.pwr.levelMax
      let c := if 3 ≤ l then 3 else if l = 2 then min 3 (s.pwr.thermalCap + 1) else s.pwr.thermalCap - 1
      { s with pwr := { s.pwr with thermalCap := c } }.retarget

/-- CLK_FAULT_CLEAR: a write of CLK_FAULT with VALID clears the register and the standby record. -/
def execClkFaultClear (value : Nat) (s : State) : Host.Outcome State Fault Refusal :=
  .next (if s.hostUp && bitOf value 31 then { s with pwr := { s.pwr with record := {}, clkFault := {} } } else s)

/-- LASER_ARRAY_SENSOR_SAMPLE, while the optics are off (R603): TEMP in 0.125 °C. -/
def execLaserArraySensorSample (temp : Nat) (s : State) : Host.Outcome State Fault Refusal :=
  .next <|
    if s.isReady || s.pwr.standby != .ready then s
    else
      let out (c : LaserCal) : Bool := decide (24 < (sint 16 temp - sint 16 c.temp).natAbs)
      { s with start := { s.start with
        laserTemp := temp % 2 ^ 16
        cal := s.start.cal.map (fun c => { c with drifted := c.drifted || out c }) } }

/-! ### SMBus (R546, R547) -/

/-- Answer a transaction addressed to the module; source 0x391 fires. -/
def State.smbAnswer (s : State) (a : Answer) : State :=
  if s.pwr.standby = .ready then { s with reply := a }.fireAlways 0x391 else { s with reply := .nack }

/-- CLK_FAULT's bits (Table 15.15). -/
def FaultRec.bits (r : FaultRec) : Nat := b2n r.valid * 2 ^ 31 + r.first * 2 ^ 24 + r.sensor * 2 ^ 16 + r.causes

/-- STATUS. -/
def State.smbStatusWord (s : State) : Nat :=
  let p := s.pwr
  b2n (p.main == .on) + 2 * b2n p.record.valid + 4 * p.levelMax + 32 * b2n p.inWarn + 64 * max p.powerCap p.thermalCap +
    256 * b2n (p.powerCap != 0) + 512 * b2n (p.thermalCap != 0)

/-- SMB_STATUS. -/
def execSmbStatus (s : State) : Host.Outcome State Fault Refusal := .next (s.smbAnswer (.data s.smbStatusWord))
/-- SMB_VIN. -/
def execSmbVin (s : State) : Host.Outcome State Fault Refusal := .next (s.smbAnswer (.data s.pwr.volts))
/-- SMB_IIN. -/
def execSmbIin (s : State) : Host.Outcome State Fault Refusal := .next (s.smbAnswer (.data s.pwr.amps))
/-- SMB_PIN. -/
def execSmbPin (s : State) : Host.Outcome State Fault Refusal := .next (s.smbAnswer (.data s.pwr.p1s))

/-- The sensor nearest to its TRIP threshold, the lowest number on a tie. -/
def Power.hottest (p : Power) : Nat × Sensor :=
  let room (e : Nat × Sensor) : Int := sint 16 e.2.temp - 8 * (((thresholds e.1).getD []).getD 3 0 : Int)
  let l := p.sensors.filter (fun e => e.2.temp != 0x8000)
  (minBy (fun (a b : Nat × Sensor) => decide (room b ≤ room a)) l).getD (0, {})

/-- SMB_THERMAL: sensor number, level and TEMP. -/
def execSmbThermal (s : State) : Host.Outcome State Fault Refusal :=
  let h := s.pwr.hottest
  .next (s.smbAnswer (.bytes (leBytes 1 h.1 ++ leBytes 1 h.2.level ++ leBytes 2 h.2.temp)))

/-- SMB_COOLANT: TEMP of sensors 0x20 and 0x21. -/
def execSmbCoolant (s : State) : Host.Outcome State Fault Refusal :=
  let t (n : Nat) : List Byte := leBytes 2 (mget {} s.pwr.sensors n).temp
  .next (s.smbAnswer (.bytes (t 0x20 ++ t 0x21)))

/-- SMB_FAULT, from the standby record. -/
def execSmbFault (s : State) : Host.Outcome State Fault Refusal :=
  .next (s.smbAnswer (.bytes (leBytes 4 s.pwr.record.bits)))

/-- GLB_ID (R43): the part and its stepping. -/
def State.glbId (s : State) : Nat := 0x40960000 + 16 * s.fuses.stepping

/-- SMB_IDENT. -/
def execSmbIdent (s : State) : Host.Outcome State Fault Refusal :=
  .next (s.smbAnswer (.bytes (leBytes 4 s.glbId ++ leBytes 1 s.pwr.strapId ++ leBytes 1 s.lc ++ leBytes 2 0)))

/-- SMB_ALERT_RESPONSE: the module's address, and ALERT_N is released. `again`: a condition of R547 arises in the
same ACLK cycle. -/
def execSmbAlertResponse (again : Bool) (s : State) : Host.Outcome State Fault Refusal :=
  .next <|
    if s.pwr.standby = .ready && s.pwr.alert then
      { s with pwr := { s.pwr with alert := again }, reply := .data (0x60 + s.pwr.strapId) }
    else { s with reply := .nack }

end Sys2Proof.Machine
end

