-- ==== Sys2Proof/Machine/Nvm.lean ====
section
/-! DEFINITION. The NVM of chapter 17: its copies and their selection, the NV fields, the start log, and STORE. -/

namespace Sys2Proof.Machine

/-! ### Copies (R611, R612) -/

/-- One copy of a doubled region: validity, SEQ and WRITES. -/
structure Copy where
  valid : Bool := false
  seq : Nat := 0
  writes : Nat := 0
  deriving DecidableEq, Repr

/-- First byte of settings copy `i` (0 A, 1 B), and of a structure copy's header and image. -/
def settingsAt (i : Nat) : Nat := if i = 0 then 0x00000 else 0x01000
def structHdrAt (i : Nat) : Nat := if i = 0 then 0x08000 else 0x19000
def structImgAt (i : Nat) : Nat := structHdrAt i + 0x1000

/-- `n` bytes of the NVM from `a`. -/
def Nvm.read (m : Nvm) (a n : Nat) : List Byte := Mem.readN m.bytes a n

/-- Write bytes to the NVM. -/
def Nvm.put (m : Nvm) (a : Nat) (bs : List Byte) : Nvm := { m with bytes := Mem.writeN m.bytes a bs }

/-- Does a block end in its CRC-32C? -/
def crcEnds (b : List Byte) : Bool := leNat (b.drop (b.length - 4)) == (crc32c (b.take (b.length - 4))).toNat

/-- A block closed with its CRC-32C. -/
def withCrc (b : List Byte) : List Byte := b ++ leBytes 4 (crc32c b).toNat

/-- A settings copy (Table 17.7). -/
def Nvm.settingsCopy (m : Nvm) (i : Nat) : Copy :=
  let b := m.read (settingsAt i) 4096
  if slice b 0 4 == ascii "JLNS" && crcEnds b then ⟨true, fieldAt b 8 4, fieldAt b 12 4⟩ else {}

/-- A structure copy (Table 17.8). -/
def Nvm.structCopy (m : Nvm) (i : Nat) : Copy :=
  let b := m.read (structHdrAt i) 32
  let len := fieldAt b 8 4
  if slice b 0 4 == ascii "JLNH" && crcEnds b && decide (64 ≤ len) && decide (len ≤ 65536) &&
      fieldAt b 0x10 4 == (crc32c (m.read (structImgAt i) len)).toNat then ⟨true, fieldAt b 4 4, fieldAt b 12 4⟩ else {}

/-- The selected copy: the valid one with the higher SEQ, A on a tie. -/
def selectCopy (a b : Copy) : Option Nat :=
  if a.valid && (!b.valid || decide (b.seq ≤ a.seq)) then some 0 else if b.valid then some 1 else none

/-- The source code of GLB_NVM_STATUS. -/
def sourceCode (a b : Copy) : Nat := if a.valid && b.valid then 0 else if a.valid || b.valid then 1 else 2

/-- The copies of both regions now. -/
def Nvm.settings (m : Nvm) : Copy × Copy := (m.settingsCopy 0, m.settingsCopy 1)
def Nvm.structs (m : Nvm) : Copy × Copy := (m.structCopy 0, m.structCopy 1)

/-- Bring the WRITES registers up to date (R620). -/
def Nvm.count (m : Nvm) : Nvm :=
  { m with writes := [m.structs.1.writes, m.structs.2.writes, m.settings.1.writes, m.settings.2.writes] }

/-! ### NV fields (R570, R613) -/

/-- N of the settle word; none where it fails its check. -/
def settleWord (b : List Byte) : Option Nat :=
  let n := fieldAt b 0x10 1
  if 1 ≤ n && n ≤ 128 && fieldAt b 0x11 1 == 255 - n && fieldAt b 0x12 1 == 0x5A && fieldAt b 0x13 1 == 0xA5 then some n else none

/-- N for the settle interval, as the standby domain reads it. -/
def Nvm.settleN (m : Nvm) : Option Nat :=
  match selectCopy m.settings.1 m.settings.2 with
  | some i => settleWord (m.read (settingsAt i) 0x14)
  | none => none

/-- The value where it lies in range, and the Reset value otherwise; false where it did not. -/
def nvField (lo hi reset v : Nat) : Nat × Bool := if inRange lo hi v then (v, true) else (reset, false)

/-- Load every NV field from a settings page (stage NVM). -/
def State.loadSettings (s : State) (b : List Byte) : State :=
  let lim := nvField 300 1500 1500 (fieldAt b 0x14 2)
  let gt := nvField 100 1000000 10000 (fieldAt b 0x18 4)
  let tt := nvField 1000 1000000 50000 (fieldAt b 0x1C 4)
  let bl := nvField 1 65535 20 (fieldAt b 0x20 2)
  let per (k : Nat) : Nat × Bool := nvField 1 255 0x18 (fieldAt b (0x24 + 2 * k) 1)
  let n := settleWord b
  let good := lim.2 && gt.2 && tt.2 && bl.2 && (List.range 8).all (fun k => (per k).2) && n.isSome
  { s with
    clk := { s.clk with settleN := n.getD (2 ^ s.pwr.strapOsc) }
    pwr := { s.pwr with limit := lim.1 }
    roo := { s.roo with wakeNEn := bitOf (fieldAt b 0x16 1) 0 }
    mul := { s.mul with timeout := gt.1 }
    train := { s.train with timeout := tt.1 }
    par := { s.par with block := bl.1 }
    hbm := s.hbm.zipIdx.map (fun x => { x.1 with scrubPeriod := (per x.2).1, scrubEnable := bitOf (fieldAt b (0x25 + 2 * x.2) 1) 0 })
    start := { s.start with fieldReset := !good } }

/-- The settings page of NV fields, with a SEQ and a WRITES. -/
def settingsPage (nv : List Byte) (seq writes : Nat) : List Byte :=
  withCrc (slice (ascii "JLNS" ++ leBytes 1 1 ++ leBytes 3 0 ++ leBytes 4 seq ++ leBytes 4 writes ++ nv) 0 4092)

/-! ### The start log (R609, R610) -/

/-- Entry `i` of the log. -/
def Nvm.logEntry (m : Nvm) (i : Nat) : List Byte := m.read (0x4000 + 256 * i) 256

/-- SEQ of the next entry: 1 plus the highest SEQ of the valid entries. -/
def Nvm.nextLog (m : Nvm) : Nat :=
  1 + (List.range 64).foldl (fun n i =>
    let e := m.logEntry i
    if slice e 0 4 == ascii "JLSL" && crcEnds e then max n (fieldAt e 8 4) else n) 0

/-- FLAGS of the entry. -/
def Start.flags (x : Start) : Nat :=
  b2n x.settleStrap + 2 * x.settingsSrc + 8 * x.structSrc + 32 * b2n x.sealedReplaced + 64 * b2n x.skipOptics +
    128 * b2n x.fuseWarm + 256 * b2n x.fieldReset

/-- The entry of this start (Table 17.5), for its RESULT. -/
def State.logBytes (s : State) (seq result stage detail : Nat) : List Byte :=
  let x := s.start
  withCrc (slice (ascii "JLSL" ++ leBytes 1 1 ++ leBytes 1 x.cause ++ leBytes 1 result ++ leBytes 1 stage ++ leBytes 4 seq ++
    leBytes 1 detail ++ leBytes 1 x.bankFail ++ leBytes 2 x.location ++ leBytes 8 s.now ++ leBytes 4 x.us ++
    leBytes 4 s.pwr.clkFault.bits ++ x.stageUs.flatMap (fun u => leBytes 4 u) ++ leBytes 4 x.flags ++ leBytes 2 s.glb.bsFrame) 0 252)

/-- A start that reached ROM writes its entry before RESULT changes. -/
def State.writeLog (s : State) (result stage detail : Nat) : State :=
  if s.start.stage < 6 then s
  else
    let seq := s.nvm.nextLog
    { s with
      nvm := s.nvm.put (0x4000 + 256 * (seq % 64)) (s.logBytes seq result stage detail)
      start := { s.start with count := seq } }

/-! ### STORE (R56, R614, R615) -/

/-- Another STORE was accepted before and has not completed (R615). -/
def State.storeBusy (s : State) (c : Cmd) : Bool :=
  s.host.cmds.any (fun d => d.op == 0x32 && d.phase != .final && decide (d.order < c.order))

/-- The target copy: the one that is not selected, or A. -/
def targetCopy (a b : Copy) : Nat :=
  match selectCopy a b with
  | some 0 => 1
  | _ => 0

/-- SEQ for the target: the other copy's plus one, or 1. -/
def targetSeq (other : Copy) : Nat := if other.valid then other.seq + 1 else 1

/-- The pair's copy `i`. -/
def pairAt (p : Copy × Copy) (i : Nat) : Copy := if i = 0 then p.1 else p.2

/-- STORE of a settings page, with the NV fields of its acceptance. A verify failure leaves the target copy invalid. -/
def State.storeSettings (s : State) (c : Cmd) (verifyOk : Bool) : State :=
  let p := s.nvm.settings
  let t := targetCopy p.1 p.2
  let page := settingsPage c.nv (targetSeq (pairAt p (1 - t))) ((pairAt p t).writes + 1)
  if verifyOk then ({ s with nvm := (s.nvm.put (settingsAt t) page).count }).finish c.job stOk
  else ({ s with nvm := (s.nvm.put (settingsAt t) (List.replicate 4096 0)).count }).finish c.job stEcc

/-- The writes of a checked structure image: header page zeroed, image, header. -/
def State.storeImage (s : State) (c : Cmd) (img : List Byte) (verifyOk : Bool) : State :=
  let p := s.nvm.structs
  let t := targetCopy p.1 p.2
  let m := (s.nvm.put (structHdrAt t) (List.replicate 4096 0)).put (structImgAt t) img
  let hdr := withCrc (ascii "JLNH" ++ leBytes 4 (targetSeq (pairAt p (1 - t))) ++ leBytes 4 img.length ++
    leBytes 4 ((pairAt p t).writes + 1) ++ leBytes 4 (crc32c img).toNat ++ leBytes 8 0)
  if verifyOk then ({ s with nvm := (m.put (structHdrAt t) hdr).count }).finish c.job stOk
  else ({ s with nvm := m.count }).finish c.job stEcc

/-- STORE of a structure bitstream: every check of §2.4 on LEN bytes at ADDR. -/
def State.storeStructure (s : State) (c : Cmd) (verifyOk : Bool) : State :=
  let len := c.param 0x24 4
  match s.hostRead (c.param 0x28 8) (min len 65537) with
  | none => s.finish c.job stAborted 0x51
  | some img => match checkFile 1 1 0 (fun _ => none) (s.signer 0) img with
    | .error e => (if e.1 = 0x12 then s.sigFail else s).finish c.job (reasonStatus e.1) e.1
    | .ok _ => s.storeImage c img verifyOk

/-- STORE_STRUCTURE. -/
def execStoreStructure (j : JobRef) (verifyOk : Bool) (s : State) : Host.Outcome State Fault Refusal :=
  .next <| match s.due j 0x32 with
  | none => s
  | some c =>
    if c.param 0x20 1 ≠ 1 then s
    else if s.storeBusy c then s.finish j stSlotBusy
    else s.storeStructure c verifyOk

/-- STORE_SETTINGS. -/
def execStoreSettings (j : JobRef) (verifyOk : Bool) (s : State) : Host.Outcome State Fault Refusal :=
  .next <| match s.due j 0x32 with
  | none => s
  | some c =>
    if c.param 0x20 1 ≠ 2 then s
    else if s.storeBusy c then s.finish j stSlotBusy
    else s.storeSettings c verifyOk

end Sys2Proof.Machine
end

