-- ==== Sys2Proof/Machine/Start.lean ====
section
/-! DEFINITION. Chapter 17's start: the stages, what each does and skips, halts, and READY (R601 to R610). -/

namespace Sys2Proof.Machine

/-! ### Halt and entry of stages -/

/-- The start halts at a stage with its DETAIL (R607). -/
def State.halt (s : State) (stage detail : Nat) (loc : Nat := 0xFFFF) : State :=
  let s1 := ({ s with start := { s.start with location := loc } }).writeLog 2 stage detail
  { s1 with start := { s1.start with result := 2, stage := stage, detail := detail, at_ := 0 } }

/-- Stage `n` begins. -/
def State.enter (s : State) (n : Nat) : State := { s with start := { s.start with at_ := n, stage := n } }

/-- Ports that are enabled, and take part in OPTICS or in lane training. -/
def State.portsTo (s : State) (st : PortState) : State :=
  (List.range 16).foldl (fun (s : State) p => if (s.glb.cfg.ports.getD p {}).enable then s.setPort p st else s) s

/-- The members of the group that run: OPTICS only where it is not skipped. -/
def Start.members (x : Start) : List Nat := if x.skipOptics then [0x0A, 0x0B] else [0x0A, 0x0B, 0x0C]

/-- OPTICS is skipped (R603): a warm start, a complete reference calibration without drift, not older than 24 hours,
of the structure copy selected now. -/
def State.opticsHeld (s : State) (aged : Bool) : Bool :=
  !s.start.cold && !aged && (match s.start.cal with
    | some c => c.complete && !c.drifted && c.seq == s.start.structSeq
    | none => false)

/-- WIPE, SELFTEST and OPTICS begin together; an OPTICS that runs is the reference calibration, complete only at its end
(R603). DESIGN CHOICE (log entry 71): the training that precedes a stack's wipe takes no
time of its own, so HBM_STATUS.STATE reads 0b01 from the stage's beginning to its end (R243, R605). -/
def State.enterGroup (s : State) (aged : Bool) : State :=
  let skip := s.opticsHeld aged
  let s1 := { s with
    hbm := s.hbm.map (fun (k : Stack) => { k with state := HbmState.wiping })
    start := { s.start with
      at_ := 0x0A, stage := 0x0A, groupDone := [], groupUs := 0, skipOptics := skip, cal := if skip then s.start.cal else none } }
  s1.portsTo (if skip then .training else .calibrating)

/-! ### The work of the stages -/

/-- SETTLE ends: REF may be ready from now on (R569, R570). -/
def State.endSettle (s : State) : State :=
  let w := s.nvm.settleN
  { s with
    clk := { s.clk with settled := true }
    start := { s.start with settleStrap := w.isNone } }.enterEarly 3

/-- HOST_LINK ends: FUSE follows at a cold start, or where a shadow fails its parity. -/
def State.endHostLink (s : State) (parityFail : Bool) : State :=
  if s.start.cold || parityFail || !s.start.fuseHeld then
    { s with start := { s.start with fuseWarm := !s.start.cold, fuseHeld := false } }.enter 4
  else { s with start := { s.start with fused := true }, tri := { s.tri with lcShown := true } }.enter 5

/-- FUSE ends: the shadows are held. -/
def State.endFuse (s : State) : State :=
  { s with start := { s.start with fused := true, fuseHeld := true }, tri := { s.tri with lcShown := true } }.enter 5

/-- PLL ends: domains 0 to 3 run from ROOT, CCLK at the P3 divider and voltage (R602). -/
def State.endPll (s : State) : State :=
  let s1 := (List.range 4).foldl (fun (s : State) n => s.modDomain n (fun d => { d with cur := 0, want := 0 })) s
  { s1 with clk := { s1.clk with locked := true, cur := 3, vdd := 620 } }.enter 6

/-- The first failure of FIRMWARE: unreadable region, TRITON's signature and SVN, the sequencers' (R414). -/
def State.firmwareDetail (s : State) (o : StageOutcome) : Nat :=
  if o.detail = 5 then 5 else if o.detail = 1 then 1 else if o.tritonSvn < s.fuses.tritonFloor then 2
  else if o.detail = 3 then 3 else if o.seqSvn < s.fuses.seqFloor then 4 else 0

/-- FIRMWARE ends: both images are measured. -/
def State.endFirmware (s : State) (o : StageOutcome) : State :=
  { s with vault := { s.vault with
      tritonFw := o.tritonFw, seqFw := o.seqFw, tritonSvn := min 255 o.tritonSvn, seqSvn := min 255 o.seqSvn } }.enter 8

/-- NVM ends: NV fields and the signer table are loaded, and the structure copy is selected. -/
def State.endNvm (s : State) (sealedFail : Bool) : State :=
  let st := s.nvm.settings
  let sc := s.nvm.structs
  let s1 := match selectCopy st.1 st.2 with
    | some i => s.loadSettings (s.nvm.read (settingsAt i) 4096)
    | none => s
  let seq := match selectCopy sc.1 sc.2 with
    | some i => (pairAt sc i).seq
    | none => 0
  { s1 with
    nvm := s1.nvm.count
    vault := { s1.vault with
      signers := if sealedFail then slot0Only else s1.vault.sealed
      sealed := if sealedFail then slot0Only else s1.vault.sealed }
    glb := { s1.glb with bsState := .loading }
    start := { s1.start with
      settingsSrc := sourceCode st.1 st.2, structSrc := sourceCode sc.1 sc.2, structSeq := seq, sealedReplaced := sealedFail } }.enter 9

/-- The image of the selected structure copy. -/
def Nvm.image (m : Nvm) : Option (List Byte) :=
  (selectCopy m.structs.1 m.structs.2).map (fun i => m.read (structImgAt i) (fieldAt (m.read (structHdrAt i) 32) 8 4))

/-- A refused structure halts the start (R68). -/
def State.refuseStruct (s : State) (reason frame : Nat) : State :=
  let s1 := if reason = 0x12 then s.sigFail else s
  ({ s1 with glb := { s1.glb with bsState := .refused, bsReason := reason, bsFrame := frame } }).halt 9 reason frame

/-- STRUCTURE ends: the loader checks the selected image; an accepted one is applied. -/
def State.endStructure (s : State) (aged : Bool) : State :=
  match s.nvm.image with
  | none => s.refuseStruct 1 0xFFFF
  | some img => match checkFile 1 1 0 (fun _ => none) (s.signer 0) img with
    | .error e => s.refuseStruct e.1 e.2
    | .ok fs =>
      let c := structOf img fs
      let off := 0xFF - bitsOf c.quadEnable 0 8
      { s with
        glb := { s.glb with bsState := .loaded, cfg := c }
        clk := { s.clk with gate := off } }.enterGroup aged

/-- WIPE ends (R605): every stack reads ready, and no memory holds anything. -/
def State.wipe (s : State) : State :=
  { s with
    quads := List.replicate 8 {}
    sdg := { s.sdg with reorder := [] }
    hbm := s.hbm.map (fun k => { state := .ready, temp := k.temp, scrubEnable := k.scrubEnable, scrubPeriod := k.scrubPeriod }) }

/-- OPTICS ends: it is the reference calibration from now on; a bank that fails leaves its four ports OFF. -/
def State.endOptics (s : State) (banks : Nat) : State :=
  let b := bitsOf banks 0 4
  let s1 := { s with start := { s.start with
    bankFail := b, cal := some { complete := b == 0, temp := s.start.laserTemp, seq := s.start.structSeq, drifted := false } } }
  (List.range 16).foldl (fun (s : State) p =>
    if bitOf b (p / 4) then (if (s.port p).state == .calibrating || (s.port p).state == .training then s.setPort p .off else s)
    else if (s.port p).state == .calibrating then s.setPort p .training else s) s1

/-- The private key of AK: from the DevID seed, the ROM and TRITON firmware digests, the life-cycle code and the DEBUG byte
(Table 11.2, R409). How the derived bits name a key is the model's choice (log entry 70). -/
def State.akKey (s : State) : Nat :=
  let devid := kdf (leBytes 32 s.fuses.drs) "DEVID" [] 384
  beNat (kdf devid "AK" (digestBytes s.vault.rom ++ digestBytes s.vault.tritonFw ++ leBytes 1 s.lc ++ leBytes 1 s.tri.debug) 384) % (p384n - 1) + 1

/-- AK and the SPDM chain: what the DevID stands for, and the AK certificate (R416). In DECOMMISSIONED the chain ends at the
DevID certificate. -/
def State.makeChain (s : State) : State :=
  let body := Config.devidChain ++ (if s.lc = 5 then [] else Config.akCertificate s.akKey)
  { s with vault := { s.vault with
      chain := leBytes 2 (body.length + 4) ++ leBytes 2 0 ++ body, ak := if s.lc = 5 then none else some s.akKey } }

/-- READY: P0, the caps act, disabled quadrants are in Q-gate, and ports that are trained attest. -/
def State.becomeReady (s : State) : State :=
  let s0 := s.makeChain
  let s1 := { s0 with tri := { s0.tri with ready := true } }.writeLog 1 0x0F 0
  let s2 := { s1 with
    start := { s1.start with result := 1, stage := 0x0F, at_ := 0 }
    clk := { s1.clk with cur := 0, goal := 0, vdd := 780, gated := s1.clk.gate } }
  let s3 := (List.range 8).foldl (fun (s : State) q => if bitOf s.clk.gated q then s.gateOff q else s) s2
  let s4 := (List.range 16).foldl (fun (s : State) p => if (s.port p).state = .attesting then s.beginHs (.port p) else s) s3
  s4.orbitTree.retarget

/-! ### START_STAGE_END -/

/-- Microseconds spent in a stage are counted; from POWER or HOST_LINK on they count in GLB_START_US. Of the group,
the longest member counts. -/
def State.spend (s : State) (code us : Nat) : State :=
  let x := s.start
  let grp := decide (0x0A ≤ code) && decide (code ≤ 0x0C)
  let more := if code = 1 then 0 else if grp then us - x.groupUs else us
  { s with start := { x with
      us := min 0xFFFFFFFF (x.us + more), groupUs := if grp then max x.groupUs us else x.groupUs
      stageUs := x.stageUs.set code (min 0xFFFFFFFF us) } }

/-- A member of the group ends; ATTEST follows the last. -/
def State.endMember (s : State) (o : StageOutcome) : State :=
  let n := o.stage
  if !s.start.members.contains n || s.start.groupDone.contains n then s
  else
    let s1 := s.spend n o.us
    if n = 0x0A && (o.detail = 1 || o.detail = 2) then
      (s1.modStack o.location (fun k => { k with state := .failed })).halt n o.detail o.location
    else if n = 0x0B && o.detail = 1 then s1.halt n 1 o.location
    else
      let s2 := if n = 0x0A then s1.wipe else if n = 0x0C then s1.endOptics o.banks else s1
      let done := n :: s2.start.groupDone
      match s2.start.members.find? (fun m => !done.contains m) with
      | some m => { s2 with start := { s2.start with groupDone := done, stage := m } }
      | none => ({ s2 with start := { s2.start with groupDone := done } }).enter 0x0D

/-- The stage that runs ends as its outcome says (Tables 17.3 and 17.4). -/
def State.endStage (s : State) (o : StageOutcome) : State :=
  let n := s.start.at_
  if n = 0x0A then s.endMember o
  else
    let s1 := s.spend n o.us
    match n with
    | 1 => s1.endSettle
    | 2 => s1.enterEarly 3
    | 3 => s1.endHostLink o.parityFail
    | 4 => if o.detail = 1 then s1.halt 4 1 else s1.endFuse
    | 5 => if o.detail = 1 || o.detail = 2 then s1.halt 5 o.detail
      else if !s1.clk.refOk then s1.halt 5 1 else s1.endPll
    | 6 => if o.detail = 1 then s1.halt 6 1 else { s1 with vault := { s1.vault with rom := o.rom } }.enter 7
    | 7 => if s1.firmwareDetail o ≠ 0 then s1.halt 7 (s1.firmwareDetail o) else s1.endFirmware o
    | 8 => if o.detail = 1 then s1.halt 8 1 o.location else s1.endNvm o.sealedFail
    | 9 => s1.endStructure o.aged
    | 0x0D => if o.detail = 1 || (o.detail = 2 && s1.lc != 1) then s1.halt 0x0D o.detail else s1.becomeReady
    | _ => s

/-- START_STAGE_END. -/
def execStartStageEnd (o : StageOutcome) (s : State) : Host.Outcome State Fault Refusal :=
  .next <|
    let n := s.start.at_
    if s.start.result ≠ 0 || n = 0 || s.start.waitPerst || s.pwr.standby != .ready || s.pwr.main != .on || s.clk.pm == .l3 then s
    else s.endStage o

end Sys2Proof.Machine
end

