-- ==== Sys2Proof/Machine/Report.lean ====
section
/-! DEFINITION. The attestation report of §11.6, byte by byte, and the measurements of Table 11.4. -/

namespace Sys2Proof.Machine

/-- A section header: TYPE, reserved, LENGTH (§11.6). -/
def sectionHdr (typ len : Nat) : List Byte := leBytes 1 typ ++ leBytes 3 0 ++ leBytes 4 len

/-- Bytes padded with zeros to a multiple of 8. -/
def pad8 (bs : List Byte) : List Byte := bs ++ List.replicate ((8 - bs.length % 8) % 8) 0

/-- TRI_FUSE_STATE (Table 11.14). -/
def State.fuseState (s : State) : Nat :=
  s.fuses.lcCount * 2 ^ 27 + s.fuses.tritonFloor * 2 ^ 19 + s.fuses.seqFloor * 2 ^ 11 + 2 * b2n (s.fuses.vendorHash != 0) + b2n (s.fuses.drs != 0)

/-- SIGNER_TABLE_DIGEST: each slot as a 96-byte key, zero if empty, and its KINDS byte. -/
def State.signerDigest (s : State) : Digest :=
  sha384 (s.vault.signers.flatMap (fun x => slice x.key 0 96 ++ leBytes 1 x.kinds))

/-- RULES_DIGEST: 16 rows of 80 bytes. -/
def Domain.rulesDigest (d : Domain) : Digest := sha384 (slice d.rules 0 1280)

/-- The FIRMWARE section (Table 11.7). -/
def State.firmwareSection (s : State) : List Byte :=
  let v := s.vault
  sectionHdr 2 256 ++ digestBytes v.rom ++ digestBytes v.tritonFw ++ digestBytes v.seqFw ++ digestBytes s.glb.cfg.digest ++
    leBytes 2 v.tritonSvn ++ leBytes 2 v.seqSvn ++ leBytes 4 0 ++ digestBytes s.signerDigest

/-- A mask of the numbers in a list. -/
def maskOf (l : List Nat) : Nat := l.foldl setBit 0

/-- QUAD[lq] of a PARTITION section. -/
def quadField : Option PQuad → List Byte
  | none => leBytes 1 0xFF ++ leBytes 23 0
  | some k => leBytes 1 k.pq ++ leBytes 1 k.waysAddr.length ++ leBytes 1 k.waysCache.length ++ leBytes 1 0 ++
      leBytes 4 (maskOf k.tiles) ++ leBytes 2 (maskOf (k.waysAddr ++ k.waysCache)) ++ leBytes 6 0 ++ leBytes 8 (maskOf k.pchs)

/-- SET[i] of a PARTITION section. -/
def CfgSet.field (c : CfgSet) : List Byte :=
  leBytes 1 c.num ++ leBytes 1 (b2n c.retired) ++ leBytes 2 0 ++ leBytes 4 c.patchCount ++ digestBytes c.file.base ++ digestBytes c.patchMeas

/-- A PARTITION section (Table 11.8). -/
def Part.reportSection (x : Part) (p : Nat) : List Byte :=
  let sets := sortBy (fun (a b : CfgSet) => decide (a.num ≤ b.num)) x.sets
  sectionHdr 3 (0x110 + 104 * sets.length) ++
    leBytes 1 p ++ leBytes 1 x.state.code ++ leBytes 1 x.mode ++ leBytes 1 x.s ++ leBytes 1 x.resv ++ leBytes 1 (x.vf.getD 0) ++
    leBytes 2 x.domBase ++ leBytes 2 x.domCount ++ leBytes 2 x.ctxCount ++ leBytes 4 0 ++
    (List.range 8).flatMap (fun lq => quadField x.quads[lq]?) ++
    digestBytes x.meas ++ leBytes 1 (maskOf (sets.map CfgSet.num)) ++ leBytes 7 0 ++ sets.flatMap CfgSet.field

/-- ADAPTER[i] of a DOMAIN section. -/
def adapterField (h : Nat) (e : DirEntry) : List Byte :=
  leBytes 2 h ++ leBytes 1 e.epoch ++ leBytes 1 e.state.code ++
    leBytes 1 (b2n e.baseRetired + 2 * b2n e.trainable + 4 * b2n e.offloadOk) ++ leBytes 3 0 ++ leBytes 4 e.step ++ leBytes 4 0 ++
    digestBytes e.base ++ digestBytes e.manifest

/-- A DOMAIN section (Table 11.9). -/
def State.domainSection (s : State) (d : Nat) : List Byte :=
  let x := s.dom d
  let hs := s.dir.entries.filter (fun e => e.2.domain == d && e.2.state != .free)
  sectionHdr 4 (0x78 + 112 * hs.length) ++
    leBytes 2 d ++ leBytes 2 x.gen ++ leBytes 1 ((s.partOfDomain d).getD 0xFF) ++ leBytes 3 0 ++
    digestBytes (sha384 (slice x.manifestKey 0 96)) ++ digestBytes x.rulesDigest ++ leBytes 4 hs.length ++ leBytes 4 0 ++
    hs.flatMap (fun e => adapterField e.1 e.2)

/-- The partitions in scope, ascending. -/
def State.scopeParts (s : State) (scope id : Nat) : List Nat :=
  if scope = 0 then (s.parts.filter (fun p => p.2.state != .free)).map Prod.fst
  else if scope = 1 then [id]
  else (s.partOfDomain id).toList

/-- The report header (Table 11.7). -/
def State.reportHeader (s : State) (scope id nonce len sections : Nat) : List Byte :=
  ascii "JLAR" ++ leBytes 1 s.recLevel ++ leBytes 1 1 ++ leBytes 1 scope ++ leBytes 1 0 ++ leBytes 4 len ++ leBytes 2 sections ++
    leBytes 2 (if scope = 0 then 0 else id) ++ leBytes 32 nonce ++ leBytes 8 s.now ++ leBytes 16 s.fuses.uid ++ leBytes 1 s.lc ++
    leBytes 1 s.tri.debug ++ leBytes 1 s.fuses.stepping ++ leBytes 1 0 ++ leBytes 4 s.fuseState ++ leBytes 16 0

/-- The sections between the header and SIGNATURE (R420). -/
def State.reportSections (s : State) (scope id : Nat) : List (List Byte) :=
  let chain := pad8 s.vault.chain
  (sectionHdr 1 (8 + chain.length) ++ chain) :: s.firmwareSection ::
    ((s.scopeParts scope id).map (fun p => (s.part p).reportSection p) ++ (if scope = 2 then [s.domainSection id] else []))

/-- A signature of a digest under AK: SIG_R then SIG_S, big-endian (R423). The number that each ECDSA signature draws is a
free value; without AK so is the signature (log entry 4). -/
def State.akSign (s : State) (h : Digest) : List Byte × State :=
  let r := s.draw 384
  match s.vault.ak with
  | some d =>
    let g := ecdsaSign d h (r.1.toNat % (p384n - 1) + 1)
    (beBytes 48 g.1 ++ beBytes 48 g.2, r.2)
  | none =>
    let t := r.2.draw 384
    (digestBytes r.1 ++ digestBytes t.1, t.2)

/-- A signature under AK over an SPDM transcript, whose digest is a free value (log entry 31). -/
def State.spdmSign (s : State) : List Byte × State :=
  let h := s.draw 384
  h.2.akSign h.1

/-- The whole report. -/
def State.report (s : State) (scope id nonce : Nat) : List Byte × State :=
  let secs := s.reportSections scope id
  let body := secs.flatten
  let hdr := s.reportHeader scope id nonce (96 + body.length + 104) (secs.length + 1)
  let span := hdr ++ body ++ sectionHdr 0x0F 104
  let g := s.akSign (sha384 span)
  (span ++ g.1, g.2)

/-- A snapshot is taken: commit points wait while it is copied (R424). -/
def State.takeSnapshot (s : State) : State :=
  { s with vault := { s.vault with copying := true }, tri := { s.tri with reports := bump s.tri.freeze s.tri.reports } }

/-- The value of a measurement index (Table 11.4). -/
def State.measurement (s : State) (index nonce : Nat) : Option (List Byte × State) :=
  match index with
  | 1 => some (digestBytes s.vault.rom, s)
  | 2 => some (digestBytes s.vault.tritonFw, s)
  | 3 => some (digestBytes s.vault.seqFw, s)
  | 4 => some (digestBytes s.glb.cfg.digest, s)
  | 5 => some (digestBytes s.signerDigest, s)
  | 6 => some (leBytes 1 s.lc ++ leBytes 1 s.tri.debug ++ leBytes 1 s.fuses.stepping ++ leBytes 1 0 ++ leBytes 4 s.fuseState, s)
  | 0xFD =>
    let r := s.report 0 0 nonce
    some (digestBytes (sha384 r.1), r.2.takeSnapshot)
  | _ => none

/-- SNAPSHOT_COPY_DONE: the commit points that waited take effect, in order. -/
def execSnapshotCopyDone (s : State) : Host.Outcome State Fault Refusal :=
  .next <|
    if !s.vault.copying then s
    else
      let s1 := { s with vault := { s.vault with copying := false, deferred := [] } }
      s.vault.deferred.foldl (fun (s : State) d => match d with
        | .register j => s.regCommit j
        | .step p k => s.commitNow p k
        | .patch p => s.patchRelease p) s1

end Sys2Proof.Machine
end

