-- ==== Sys2Proof/Machine/Triton.lean ====
section
/-! DEFINITION. Chapter 11's commands: the mailbox, SPDM, the domain requests, SIGNER_SET, TEST_OPEN, life-cycle
transitions and SVN floors. -/

namespace Sys2Proof.Machine

/-! ### Carriers, sessions and answers (R415, R418, R433, R434) -/

/-- VF field of a carrier: 0xFF for none. -/
def State.carrierVf (s : State) : Carrier → Nat
  | .doe .pf => 0xFF
  | .doe (.vf v) => v
  | .mailbox => s.tri.mbxReqVf

/-- Key of a carrier in the map of connections: a function's DOE, or the mailbox with its VF field. -/
def State.connKey (s : State) : Carrier → Nat
  | .doe fn => fnKey fn
  | .mailbox => 512 + s.tri.mbxReqVf

/-- Bytes of an SPDM 1.2 message: version, code, two parameters and the payload (log entry 31). -/
def spdmBytes (code p1 p2 : Nat) (body : List Byte) : List Byte := [byte 0x12, byte code, byte p1, byte p2] ++ body

/-- SPDM response codes (log entry 31). -/
def rspError : Nat := 0x7F
def rspVendor : Nat := 0x7E

/-- The bytes of an answer, as an SPDM message. -/
def Answer.message : Answer → List Byte
  | .spdm code bs => spdmBytes code 0 0 bs
  | .vendor _ bs => spdmBytes rspVendor 0 0 bs
  | .error e => spdmBytes rspError e 0 []
  | _ => []

/-- DWORDs of a DOE data object: header of two DWORDs and the message. -/
def doeDwords (bs : List Byte) : Nat := min 1024 (2 + ceilDiv bs.length 4)

/-- Answer a request: a mailbox request fills the response area and ends BUSY, and source 0x129 fires. A message of a
session is encrypted, so the area then holds a free value (log entry 4). -/
def State.answer (s : State) (c : Carrier) (secured : Bool) (a : Answer) : State :=
  let s1 := { s with reply := a }
  match c with
  | .doe _ => s1
  | .mailbox =>
    let bs := a.message
    let n := if secured then doeDwords (bs ++ List.replicate 24 0) else doeDwords bs
    let d := s1.draw (32 * n)
    let hdr := leBytes 2 1 ++ leBytes 1 (if secured then 2 else 1) ++ leBytes 1 0 ++ leBytes 4 n
    let out := if secured then hdr ++ leBytes (4 * n - 8) d.1.toNat else hdr ++ slice bs 0 (4 * n - 8)
    let s2 := if secured then d.2 else s1
    ({ s2 with tri := { s2.tri with mbxBusy := false, mbxDone := true, mbxResp := n, mbxOut := Mem.writeN s2.tri.mbxOut 0 out } }).fire 0x129

/-- Does TRITON hear the carrier: a function of the link, or a request that waits in the mailbox? -/
def State.hears (s : State) : Carrier → Bool
  | .doe fn => s.hostUp && s.fnLive fn
  | .mailbox => s.hostUp && s.tri.mbxBusy

/-- A request reaches TRITON: a DOE request fires source 0x180. Before READY, in a halt and during a life-cycle transition the
answer is ERROR Busy; in DECOMMISSIONED only `early` requests are answered. -/
def State.request! (s : State) (c : Carrier) (secured early : Bool) (k : State → State × Answer) : State :=
  if !s.hears c then s
  else
    let s1 := match c with
      | .doe _ => s.fire 0x180
      | .mailbox => s
    if !s1.isReady || s1.tri.lcBusy then s1.answer c false (.error 0x03)
    else if s1.lc = 5 && !early then
      { s1 with reply := .nack, tri := if c = .mailbox then { s1.tri with mbxBusy := false } else s1.tri }
    else
      let r := k s1
      r.1.answer c secured r.2

/-- The session that a request names, on its own carrier. -/
def State.session (s : State) (c : Carrier) (id : Nat) : Option Session :=
  s.vault.sessions.find? (fun x => x.id == id && x.carrier == c && x.vf == s.carrierVf c)

/-- The negotiation a carrier has reached: 0 none, 1 version, 2 capabilities, 3 algorithms (log entry 31). -/
def State.conn (s : State) (c : Carrier) : Nat := mget 0 s.vault.conn (s.connKey c)

/-- Set it. -/
def State.setConn (s : State) (c : Carrier) (n : Nat) : State :=
  { s with vault := { s.vault with conn := mset 0 s.vault.conn (s.connKey c) n } }

/-- Sessions end: their ownership, snapshot and waiting responses go (R419, R424). -/
def State.endSessions (s : State) (p : Session → Bool) : State :=
  let gone := (s.vault.sessions.filter p).map Session.id
  { s with
    vault := { s.vault with
      sessions := s.vault.sessions.filter (fun x => !p x)
      closes := s.vault.closes.filter (fun c => !gone.contains c.1)
      snap := s.vault.snap.bind (fun x => if gone.contains x.session then none else some x) }
    dir := { s.dir with domains := (s.dir.domains.map (fun (d : Nat × Domain) =>
      (d.1, { d.2 with owners := d.2.owners.filter (fun o => !gone.contains o) }))).filter (fun (d : Nat × Domain) => d.2 != ({} : Domain)) } }

/-! ### SPDM (R415, R416) -/

/-- A request that the negotiation must have reached: UnexpectedRequest before. -/
def State.needs (s : State) (c : Carrier) (n : Nat) (k : State → State × Answer) : State × Answer :=
  if s.conn c < n then (s, .error 0x04) else k s

/-- A drawn byte string. -/
def State.drawBytes (s : State) (n : Nat) : List Byte × State :=
  let d := s.draw (8 * n)
  (leBytes n d.1.toNat, d.2)

/-- GET_VERSION: 1.2 alone. The connection starts again, and the carrier's sessions end. -/
def execGetVersion (c : Carrier) (s : State) : Host.Outcome State Fault Refusal :=
  .next (s.request! c false true (fun s =>
    ((s.endSessions (fun x => x.carrier == c && x.vf == s.carrierVf c)).setConn c 1, .spdm 0x04 [0, 1, 0, byte 0x12])))

/-- GET_CAPABILITIES: CT exponent 15. CERT, CHAL, MEAS with signature, ENCRYPT, MAC, KEY_EX, HBEAT and KEY_UPD. -/
def execGetCapabilities (c : Carrier) (s : State) : Host.Outcome State Fault Refusal :=
  .next (s.request! c false true (fun s => s.needs c 1 (fun s =>
    (s.setConn c (max 2 (s.conn c)), .spdm 0x61 (leBytes 1 0 ++ leBytes 1 15 ++ leBytes 2 0 ++ leBytes 4 0x62F6 ++ leBytes 4 4096 ++ leBytes 4 4096)))))

/-- NEGOTIATE_ALGORITHMS: the one set of R415. -/
def execNegotiateAlgorithms (c : Carrier) (supported : Bool) (s : State) : Host.Outcome State Fault Refusal :=
  .next (s.request! c false true (fun s => s.needs c 2 (fun s =>
    if !supported then (s, .error 0x07)
    else (s.setConn c 3, .spdm 0x63 (leBytes 2 36 ++ leBytes 2 1 ++ leBytes 4 4 ++ leBytes 4 0x80 ++ leBytes 4 2 ++ leBytes 16 0 ++
      leBytes 4 0x00100002 ++ leBytes 4 0x00020003 ++ leBytes 4 0x00010005)))))

/-- GET_DIGESTS: slot 0. -/
def execGetDigests (c : Carrier) (s : State) : Host.Outcome State Fault Refusal :=
  .next (s.request! c false true (fun s => s.needs c 3 (fun s => (s, .spdm 0x01 (digestBytes (sha384 s.vault.chain))))))

/-- GET_CERTIFICATE: a portion of the chain of slot 0. -/
def execGetCertificate (c : Carrier) (slot off len : Nat) (s : State) : Host.Outcome State Fault Refusal :=
  .next (s.request! c false true (fun s => s.needs c 3 (fun s =>
    let ch := s.vault.chain
    if slot ≠ 0 then (s, .error 0x07)
    else if ch.length ≤ off then (s, .error 0x01)
    else
      let part := (ch.drop off).take len
      (s, .spdm 0x02 (leBytes 2 part.length ++ leBytes 2 (ch.length - off - part.length) ++ part)))))

/-- CHALLENGE: the chain's digest, and a nonce, a measurement summary and a signature under AK that are free values. -/
def execChallenge (c : Carrier) (slot : Nat) (s : State) : Host.Outcome State Fault Refusal :=
  .next (s.request! c false false (fun s => s.needs c 3 (fun s =>
    if slot ≠ 0 then (s, .error 0x07)
    else
      let n := s.drawBytes 80
      let g := n.2.spdmSign
      (g.2, .spdm 0x03 (digestBytes (sha384 s.vault.chain) ++ n.1 ++ leBytes 2 0 ++ g.1)))))

/-- The indices served. -/
def measIndices : List Nat := [1, 2, 3, 4, 5, 6, 0xFD]

/-- DMTF measurement blocks with raw bit streams. -/
def State.measBlocks (s : State) (ixs : List Nat) (nonce : Nat) : List Byte × State :=
  ixs.foldl (fun (r : List Byte × State) i => match r.2.measurement i nonce with
    | some m => (r.1 ++ leBytes 1 i ++ leBytes 1 1 ++ leBytes 2 (m.1.length + 3) ++ leBytes 1 0x80 ++ leBytes 2 m.1.length ++ m.1, m.2)
    | none => r) ([], s)

/-- GET_MEASUREMENTS: index 0 counts them, 0xFF names all. -/
def execGetMeasurements (c : Carrier) (slot index nonce : Nat) (s : State) : Host.Outcome State Fault Refusal :=
  .next (s.request! c false false (fun s => s.needs c 3 (fun s =>
    if slot ≠ 0 then (s, .error 0x07)
    else
      let ixs := if index = 0 then [] else if index = 0xFF then measIndices else [index]
      if !ixs.all measIndices.contains then (s, .error 0x01)
      else
        let b := s.measBlocks ixs nonce
        let n := b.2.drawBytes 32
        let g := n.2.spdmSign
        (g.2, .spdm 0x60 (leBytes 1 (if index = 0 then 7 else ixs.length) ++ leBytes 3 b.1.length ++ b.1 ++ n.1 ++ leBytes 2 0 ++ g.1)))))

/-- KEY_EXCHANGE: a session begins. Mutual authentication is not supported. -/
def execKeyExchange (c : Carrier) (slot : Nat) (needsMutual : Bool) (s : State) : Host.Outcome State Fault Refusal :=
  .next (s.request! c false false (fun s => s.needs c 3 (fun s =>
    if slot ≠ 0 || needsMutual then (s, .error 0x07)
    else
      let x := s.drawBytes 130
      let g := x.2.spdmSign
      let v := g.2.vault
      let id := v.nextSession
      ({ g.2 with vault := { v with nextSession := id + 1, sessions := v.sessions ++ [{ id := id, carrier := c, vf := s.carrierVf c }] } },
        .spdm 0x64 (leBytes 2 id ++ x.1 ++ g.1)))))

/-- SPDM_FINISH: the session is established with its TH2 transcript hash. -/
def execSpdmFinish (c : Carrier) (session : Nat) (macOk : Bool) (s : State) : Host.Outcome State Fault Refusal :=
  .next (s.request! c true false (fun s => match s.session c session with
    | none => (s, .error 0x02)
    | some x =>
      if x.established then (s, .error 0x04)
      else if !macOk then (s.endSessions (fun y => y.id == session), .error 0x06)
      else
        let d := s.draw 384
        let v := d.2.vault
        ({ d.2 with
          vault := { v with sessions := v.sessions.map (fun y => if y.id = session then { y with established := true, th2 := d.1 } else y) }
          tri := { d.2.tri with sessionsCtr := bump d.2.tri.freeze d.2.tri.sessionsCtr } }, .spdm 0x65 [])))

/-- An established session of the carrier. -/
def State.inSession (s : State) (c : Carrier) (id : Nat) (k : State → State × Answer) : State × Answer :=
  match s.session c id with
  | some x => if x.established then k s else (s, .error 0x04)
  | none => (s, .error 0x02)

/-- HEARTBEAT. -/
def execHeartbeat (c : Carrier) (session : Nat) (s : State) : Host.Outcome State Fault Refusal :=
  .next (s.request! c true false (fun s => s.inSession c session (fun s => (s, .spdm 0x68 []))))

/-- KEY_UPDATE. -/
def execKeyUpdate (c : Carrier) (session : Nat) (s : State) : Host.Outcome State Fault Refusal :=
  .next (s.request! c true false (fun s => s.inSession c session (fun s => (s, .spdm 0x69 []))))

/-- END_SESSION. -/
def execEndSession (c : Carrier) (session : Nat) (s : State) : Host.Outcome State Fault Refusal :=
  .next (s.request! c true false (fun s => s.inSession c session (fun s => (s.endSessions (fun x => x.id == session), .spdm 0x6C []))))

/-- RESPOND_IF_READY: the response of a DOMAIN_CLOSE, or ResponseNotReady while its drain continues. -/
def execRespondIfReady (c : Carrier) (session : Nat) (s : State) : Host.Outcome State Fault Refusal :=
  .next (s.request! c true false (fun s => s.inSession c session (fun s =>
    match s.vault.closes.find? (fun x => x.1 == session) with
    | none => (s, .error 0x04)
    | some x =>
      if !x.2.2 then (s, .error 0x42)
      else ({ s with vault := { s.vault with closes := s.vault.closes.erase x } },
        .vendor 0 (leBytes 1 3 ++ leBytes 1 s.recLevel ++ leBytes 6 0)))))

/-! ### Vendor requests (R418, R419, Table 11.6) -/

/-- What a request's checks and effect answer: RESULT, the response fields, and the state. -/
structure VRes where
  result : Nat
  fields : List Byte := []
  after : State

/-- A RESULT of the model's own: the response is not ready, and the answer is ERROR ResponseNotReady (R415). -/
def notReady : Nat := 0x100

/-- A vendor request: its session, then reserved fields, bits [15:12] of DOMAIN among them (0x04), LEVEL (0x05), and the rest in the order of R419.
Refusals are counted. -/
def State.vendor (s : State) (r : VReq) (op : Nat) (needSession reserved : Bool) (k : State → VRes) : State :=
  s.request! r.carrier (r.session != 0) false (fun s =>
    let go (s : State) : State × Answer :=
      let v : VRes :=
        if reserved || !r.reservedOk then ⟨4, [], s⟩
        else if r.level ≠ s.recLevel then ⟨5, [], s⟩
        else k s
      let s1 := if v.result = 0 || v.result = notReady then v.after
        else { v.after with tri := { v.after.tri with refusedCtr := bump v.after.tri.freeze v.after.tri.refusedCtr } }
      (s1, if v.result = notReady then .error 0x42 else .vendor v.result (leBytes 1 op ++ leBytes 1 s.recLevel ++ leBytes 2 0 ++ leBytes 1 v.result ++ leBytes 3 0 ++ v.fields))
    if needSession || r.session != 0 then s.inSession r.carrier r.session go else go s)

/-- A domain in the range of the carrier's ACTIVE partition (R418). -/
def State.domainSeen (s : State) (c : Carrier) (d : Nat) : Bool :=
  match c with
  | .doe .pf => false
  | _ => (match s.partOfVf (s.carrierVf c) with
    | some p => (s.part p).state == .active && (s.part p).hasDomain d
    | none => false)

/-- The life-cycle states that serve domains (Table 11.11). -/
def State.domainsServed (s : State) : Bool := s.lc == 2 || s.lc == 3

/-- DOMAIN_OPEN. -/
def execDomainOpen (r : VReq) (d flags : Nat) (key : List Byte) (seed : Nat) (s : State) : Host.Outcome State Fault Refusal :=
  .next (s.vendor r 1 true (decide (4096 ≤ d) || 1 < flags || (!bitOf flags 0 && seed != 0)) (fun s =>
    let x := s.dom d
    if !s.domainSeen r.carrier d then ⟨3, [], s⟩
    else if !s.domainsServed || x.open_ || x.closing then ⟨2, [], s⟩
    else if x.opened && decide (65535 ≤ x.gen) then ⟨8, [], s⟩
    else
      let kd := s.draw 256
      let ik := kd.2.draw 256
      let sd := ik.2.draw 64
      let sv := if bitOf flags 0 then seed % 2 ^ 64 else sd.1.toNat
      let s1 := if bitOf flags 0 then ik.2 else sd.2
      let g := if x.opened then x.gen + 1 else x.gen
      let s2 := s1.modDom d (fun _ => {
        open_ := true, gen := g, opened := true, kd := kd.1, importKey := ik.1, manifestKey := slice key 0 96, seed := sv
        slotKey := true, owners := [r.session] })
      ⟨0, leBytes 2 g ++ leBytes 6 0 ++ leBytes 8 sv ++ leBytes 32 ik.1.toNat,
        { s2 with tri := { s2.tri with opens := bump s2.tri.freeze s2.tri.opens } }⟩))

/-- TH2 of a session. -/
def State.th2 (s : State) (id : Nat) : Digest := match s.vault.sessions.find? (fun x => x.id == id) with
  | some x => x.th2
  | none => 0

/-- DOMAIN_CLAIM: a signature under the manifest key over SHA-384 of "JLDC", DOMAIN and TH2. -/
def execDomainClaim (r : VReq) (d sigR sigS : Nat) (s : State) : Host.Outcome State Fault Refusal :=
  .next (s.vendor r 2 true (decide (4096 ≤ d)) (fun s =>
    let x := s.dom d
    if !s.domainSeen r.carrier d then ⟨3, [], s⟩
    else if !x.open_ || x.closing then ⟨2, [], s⟩
    else if !ecdsaVerify x.manifestKey (sha384 (ascii "JLDC" ++ leBytes 2 d ++ digestBytes (s.th2 r.session))) sigR sigS then ⟨7, [], s.sigFail⟩
    else ⟨0, leBytes 2 x.gen, s.modDom d (fun x => { x with owners := if x.owners.contains r.session then x.owners else x.owners ++ [r.session] })⟩))

/-- A request of an owner on an open domain: range, ownership, state. -/
def State.owned (s : State) (r : VReq) (d : Nat) (k : State → VRes) : VRes :=
  if !s.domainSeen r.carrier d then ⟨3, [], s⟩
  else if !(s.dom d).owners.contains r.session then ⟨1, [], s⟩
  else if !(s.dom d).open_ || (s.dom d).closing then ⟨2, [], s⟩
  else k s

/-- DOMAIN_CLOSE: the close of R312 begins, and the answer is ResponseNotReady until the key slot is erased. -/
def execDomainClose (r : VReq) (d : Nat) (s : State) : Host.Outcome State Fault Refusal :=
  .next (s.vendor r 3 true (decide (4096 ≤ d)) (fun s => s.owned r d (fun s =>
    let s1 := s.closeDomain d
    ⟨notReady, [], { s1 with vault := { s1.vault with closes := s1.vault.closes ++ [(r.session, d, false)] } }⟩)))

/-- GET_IMPORT_KEY. -/
def execGetImportKey (r : VReq) (d : Nat) (s : State) : Host.Outcome State Fault Refusal :=
  .next (s.vendor r 4 true (decide (4096 ≤ d)) (fun s => s.owned r d (fun s => ⟨0, leBytes 32 (s.dom d).importKey.toNat, s⟩)))

/-- An F32 field that is neither NaN nor infinite. -/
def finite32 (v : Nat) : Bool := bitsOf v 23 8 != 255

/-- The checks of R346 on a row: reserved fields, coefficients, ETA, BC1 and BC2. -/
def ruleRowOk (b : List Byte) : Bool :=
  let f (o : Nat) : Nat := fieldAt b o 4
  let unit (v : Nat) : Bool := decide (v < 0x3F800000) || v == 0x80000000
  fieldAt b 0x48 8 == 0 && decide (f 0x3C < 8) && (List.range 15).all (fun i => finite32 (f (4 * i))) &&
    !(bitOf (f 0x2C) 31 && f 0x2C != 0x80000000) && unit (f 0x34) && unit (f 0x38)

/-- SET_RULES. -/
def execSetRules (r : VReq) (d row : Nat) (rule : List Byte) (s : State) : Host.Outcome State Fault Refusal :=
  .next (s.vendor r 5 true (decide (4096 ≤ d)) (fun s =>
    if 15 < row then ⟨3, [], s⟩
    else s.owned r d (fun s =>
      let b := slice rule 0 80
      if !ruleRowOk b then ⟨6, [], s⟩
      else
        let s1 := s.modDom d (fun x => { x with rules := overlay (slice x.rules 0 1280) (80 * row) b })
        ⟨0, digestBytes (s1.dom d).rulesDigest, s1⟩)))

/-- The ranges of a GET_REPORT: SCOPE, SCOPE_ID and LENGTH. -/
def State.scopeOk (s : State) (scope id len : Nat) : Bool :=
  decide (len ≤ 65536) &&
  (if scope = 0 then id == 0 else if scope = 1 then decide (id < 256) && (s.part id).state != .free else scope == 2)

/-- The bytes OFFSET to OFFSET + LENGTH - 1 of a snapshot, behind TOTAL. -/
def Snapshot.portion (x : Snapshot) (off len : Nat) : List Byte := leBytes 4 x.bytes.length ++ leBytes 4 0 ++ (x.bytes.drop off).take len

/-- GET_REPORT: OFFSET 0 takes a snapshot for its NONCE; otherwise the one held is read. -/
def State.getReport (s : State) (r : VReq) (scope id off len nonce : Nat) : VRes :=
  if off ≠ 0 then
    match s.vault.snap with
    | some x => if x.session = r.session && x.nonce = nonce then ⟨0, x.portion off len, s⟩ else ⟨9, [], s⟩
    | none => ⟨9, [], s⟩
  else
    let b := s.report scope id nonce
    let x : Snapshot := { session := r.session, nonce := nonce, bytes := b.1 }
    let s1 := b.2.takeSnapshot
    ⟨0, x.portion 0 len, { s1 with vault := { s1.vault with snap := some x } }⟩

/-- GET_REPORT. -/
def execGetReport (r : VReq) (scope id off len nonce : Nat) (s : State) : Host.Outcome State Fault Refusal :=
  .next (s.vendor r 6 true (scope == 2 && decide (4096 ≤ id)) (fun s =>
    if !s.scopeOk scope id len then ⟨3, [], s⟩
    else if scope = 2 then s.owned r id (fun s => s.getReport r scope id off len nonce)
    else s.getReport r scope id off len nonce))

/-- The PF's carriers: its DOE, or the mailbox with VF 0xFF (R433). -/
def State.pfCarrier (s : State) (c : Carrier) : Bool := s.carrierVf c == 0xFF

/-- SIGNER_SET: the sealed table changes; the loaded one stands until the next start (R412). -/
def execSignerSet (r : VReq) (slot kinds : Nat) (key : List Byte) (s : State) : Host.Outcome State Fault Refusal :=
  .next (s.vendor r 0x10 false (7 < kinds) (fun s =>
    if !s.pfCarrier r.carrier || slot = 0 || 7 < slot then ⟨3, [], s⟩
    else if !s.domainsServed then ⟨2, [], s⟩
    else ⟨0, [], { s with vault := { s.vault with
      sealed := s.vault.sealed.set slot (if kinds = 0 then {} else { key := slice key 0 96, kinds := kinds }) } }⟩))

/-- TEST_OPEN: test access opens until the next reset (R425); with the DEBUG byte, AK and its certificate change (R409). -/
def execTestOpen (r : VReq) (parts : Nat) (s : State) : Host.Outcome State Fault Refusal :=
  .next (s.vendor r 0x11 false (3 < parts) (fun s =>
    if !s.pfCarrier r.carrier || parts = 0 then ⟨3, [], s⟩
    else if !(s.lc == 1 || s.lc == 4) then ⟨2, [], s⟩
    else if !s.vault.erased then ⟨0, [], s⟩
    else ⟨0, [], { s with tri := { s.tri with debug := setBit (if bitOf parts 1 then setBit s.tri.debug 1 else s.tri.debug) 0 } }.makeChain⟩))

/-! ### The mailbox (R433, R434) -/

/-- TRI_MBX_GO: a write of TRI_MBX_CTRL with GO. -/
def execTriMbxGo (value : Nat) (s : State) : Host.Outcome State Fault Refusal :=
  .next <|
    if !s.hostUp then s
    else
      let s1 := { s with tri := { s.tri with mbxVf := bitsOf value 12 8, mbxLen := bitsOf value 0 12 } }
      if !bitOf value 31 || s.tri.mbxBusy || !inRange 1 1024 (bitsOf value 0 12) then s1
      else ({ s1 with tri := { s1.tri with mbxBusy := true, mbxDone := false, mbxReqVf := bitsOf value 12 8 } }).fire 0x181

/-- TRI_MBX_ABORT: a request not yet taken is discarded. -/
def execTriMbxAbort (value : Nat) (s : State) : Host.Outcome State Fault Refusal :=
  .next <|
    if !s.hostUp then s
    else { s with tri := { s.tri with
      mbxVf := bitsOf value 12 8, mbxLen := bitsOf value 0 12, mbxBusy := s.tri.mbxBusy && !bitOf value 30 } }

/-! ### Life cycle (R426, R427, R431, R432) -/

/-- The transitions of Table 11.12, and whether a vendor token authorises them. -/
def lcTransition (a b : Nat) : Option Bool :=
  if (a == 1 && b == 2) || (a == 3 && b == 4) || (a == 4 && b == 2) then some true
  else if (a == 2 && b == 3) || (b == 5 && (a == 2 || a == 3 || a == 4)) then some false
  else none

/-- The token's fields and its signature under the vendor key (R426): both hold. -/
def State.tokenFields (s : State) (t : List Byte) (target : Nat) : Bool :=
  fieldAt t 0 16 == s.fuses.uid && fieldAt t 16 1 == target && fieldAt t 17 7 == 0 && fieldAt t 24 2 == s.fuses.lcCount && fieldAt t 26 6 == 0
def tokenSigned (t : List Byte) : Bool :=
  ecdsaVerify Config.vendorKey (sha384 (t.take 32)) (beNat (slice t 32 48)) (beNat (slice t 80 48))

/-- The token of a transition holds; a signature that fails is counted. -/
def State.tokenCheck (s : State) (target : Nat) : Bool × State :=
  match s.hostRead (s.tri.token / 64 * 64) 128 with
  | none => (false, s)
  | some t => if !s.tokenFields t target then (false, s) else if tokenSigned t then (true, s) else (false, s.sigFail)

/-- A refused request: DONE with RESULT, and source 0x129 fires. -/
def State.lcRefuse (s : State) (r : Nat) : State := ({ s with tri := { s.tri with lcDone := true, lcResult := r } }).fire 0x129

/-- Steps 1 to 3 of R427: no commands and sessions, keys erased, the sealed signer table back to slot 0. -/
def State.lcAccept (s : State) (target : Nat) : State :=
  let s1 := s.endSessions (fun _ => true)
  { s1 with
    tri := { s1.tri with lcDone := true, lcResult := 0, lcBusy := true, lcTarget := target }
    vault := { s1.vault with sealed := slot0Only, ak := none, erased := true, conn := [] }
    dir := { s1.dir with domains := (s1.dir.domains.map (fun (d : Nat × Domain) => (d.1, d.2.atReset))).filter (fun (d : Nat × Domain) => d.2 != ({} : Domain)) }
    jan := { s1.jan with sessions := [] } }

/-- Is the transition authorised: by its token where one is needed? -/
def State.lcAuth (s : State) (token : Bool) (target : Nat) : Bool × State :=
  if token then s.tokenCheck target else (true, s)

/-- The checks of R427 after the transition's own, in order, and the acceptance. -/
def State.lcGo (s : State) (target : Nat) (authorised : Bool) : State :=
  if !authorised then s.lcRefuse 2
  else if s.parts.any (fun p => p.2.state != .free) then s.lcRefuse 3
  else if 16 ≤ s.fuses.lcCount then s.lcRefuse 4
  else s.lcAccept target

/-- A request for `target`: refused where Table 11.12 has no such transition, else checked. -/
def State.lcAsk (s : State) (target : Nat) : State :=
  match lcTransition s.lc target with
  | none => s.lcRefuse 1
  | some token => (s.lcAuth token target).2.lcGo target (s.lcAuth token target).1

/-- LC_REQUEST: a write of TRI_LC_REQ. -/
def execLcRequest (value : Nat) (s : State) : Host.Outcome State Fault Refusal :=
  .next <|
    if !s.hostUp then s
    else
      let target := bitsOf value 0 4
      let s1 := { s with tri := { s.tri with toState := target } }
      if !bitOf value 31 || s.tri.lcBusy || !s.tri.ready then s1
      else ({ s1 with tri := { s1.tri with lcDone := false } }).lcAsk target

/-- LC_FUSE_BLOWN: the fuse is blown, and a cold start brings up the new state. -/
def execLcFuseBlown (s : State) : Host.Outcome State Fault Refusal :=
  .next <|
    if !s.tri.lcBusy then s
    else ({ s with lc := s.tri.lcTarget, fuses := { s.fuses with lcCount := s.fuses.lcCount + 1 } }).resetTrigger 0x02

/-- SVN_FLOOR_RAISE: `which` 0 TRITON, 1 sequencer (R414). -/
def execSvnFloorRaise (which level : Nat) (sigOk : Bool) (s : State) : Host.Outcome State Fault Refusal :=
  .next <|
    if !s.tri.ready || !sigOk then s
    else if which = 0 then
      (if s.fuses.tritonFloor < level && level ≤ s.vault.tritonSvn then { s with fuses := { s.fuses with tritonFloor := level } } else s)
    else if which = 1 then
      (if s.fuses.seqFloor < level && level ≤ s.vault.seqSvn then { s with fuses := { s.fuses with seqFloor := level } } else s)
    else s

end Sys2Proof.Machine
end

