-- ==== Sys2Proof/Machine/Migration.lean ====
section
/-! DEFINITION. Migration (§13.9): the ticket, the records of Table 13.18, EXPORT and IMPORT. -/

namespace Sys2Proof.Machine

/-! ### Shared pieces -/

/-- The detail of every check of §13.9 that fails. -/
def migFail : Nat := 0x53

/-- The largest record's room: the least BUF_LEN of an op that sends records (R499). -/
def recordRoom : Nat := 2097280

/-- A fresh private key and its public key's 96 bytes. -/
def State.ecdhe (s : State) : Nat × List Byte × State :=
  let r := s.draw 384
  let k := r.1.toNat % (p384n - 1) + 1
  let q := ecAffine (ecMul k ⟨p384G.1, p384G.2, 1⟩)
  (k, beBytes 48 q.1 ++ beBytes 48 q.2, r.2)

/-- PRK from the ticket's NONCE and the shared secret (R498). -/
def migPrk (nonce : List Byte) (priv : Nat) (pub : List Byte) : List Byte :=
  hkdfExtract nonce (beBytes 48 (ecAffine (ecMul priv ⟨beNat (slice pub 0 48), beNat (slice pub 48 48), 1⟩)).1)

/-- The migration key (R498). -/
def migKey (prk : List Byte) : List Byte := hkdfExpand prk (ascii "JMIG") 32

/-- The release token (R501). -/
def releaseToken (prk nonce : List Byte) (seq : Nat) : List Byte :=
  hmac384 (hkdfExpand prk (ascii "JREL") 48) (ascii "JMRL" ++ nonce ++ leBytes 8 seq)

/-- A report header for a ticket or SOURCE_HELLO. The manual does not say what its LENGTH and section count are
there: they are free values. -/
def State.migHeader (s : State) (p nonce : Nat) : List Byte × State :=
  let l := s.draw 32
  let n := l.2.draw 16
  (s.reportHeader 1 p nonce l.1.toNat n.1.toNat, n.2)

/-- The checks of R498 on a report header and a FIRMWARE section, but for chain, signature and shape. -/
def State.peerOk (s : State) (hdr fw : List Byte) : Bool :=
  slice hdr 0 4 == ascii "JLAR" && fieldAt hdr 4 1 == s.recLevel && fieldAt hdr 6 1 == 1 &&
  fieldAt hdr 72 1 == s.lc && (s.lc == 2 || s.lc == 3) && fieldAt hdr 73 1 == 0 &&
  slice fw 0 8 == sectionHdr 2 256 &&
  decide (s.fuses.tritonFloor ≤ fieldAt fw 200 2) && decide (s.fuses.seqFloor ≤ fieldAt fw 202 2) &&
  fieldAt hdr 56 16 != s.fuses.uid

/-- Does a public key lie on the curve? -/
def pubOk (pub : List Byte) : Bool := ecOnCurve (beNat (slice pub 0 48)) (beNat (slice pub 48 48))

/-- Ones in a number of `w` bits. -/
def ones (w n : Nat) : Nat := ((List.range w).filter (fun i => bitOf n i)).length

/-- The shape that a ticket's PARTITION section shows matches the source (R496). The section does not hold PRIO_MAX. -/
def Part.shapeOk (x : Part) (sec : List Byte) : Bool :=
  slice sec 0 8 == sectionHdr 3 0x110 &&
  fieldAt sec 0x0A 1 == x.mode && fieldAt sec 0x0B 1 == x.s && fieldAt sec 0x0C 1 == x.resv &&
  fieldAt sec 0x0E 2 == x.domBase && fieldAt sec 0x10 2 == x.domCount && fieldAt sec 0x12 2 == x.ctxCount &&
  (List.range 8).all (fun lq =>
    let o := 0x18 + 24 * lq
    match x.quads[lq]? with
    | none => fieldAt sec o 1 == 0xFF
    | some k => fieldAt sec o 1 != 0xFF && fieldAt sec (o + 1) 1 == k.waysAddr.length && fieldAt sec (o + 2) 1 == k.waysCache.length &&
        ones 32 (fieldAt sec (o + 4) 4) == k.tiles.length && ones 64 (fieldAt sec (o + 16) 8) == k.pchs.length)

/-- The lines of the CACHE ways are written back and the ways cleared (R216). -/
def State.flushCache (s : State) (p : Nat) : State :=
  (List.range (s.part p).quads.length).foldl (fun (s : State) lq =>
    let k := (s.part p).quadAt lq
    ((k.cache.filter CacheLine.dirty).foldl (fun (s : State) c => s.logPage k.pq c.pch (c.line / 32768)) s).modPQuad p lq
      (fun k => { k with cache := [] })) s

/-- Is a page of a pseudo-channel in the context save area (R381)? -/
def State.savePage (s : State) (p lq page : Nat) : Bool :=
  let g := (regionPages s.glb.cfg 4).1
  decide (g + s.generalStripes p lq ≤ page)

/-- Pages of the partition, by logical quadrant, rank and page, whose key in their stack's map satisfies `f`. -/
def State.pagesWhere (s : State) (p : Nat) (f : Stack → Nat → Bool) : List (Nat × Nat × Nat) :=
  (List.range (s.part p).quads.length).flatMap (fun lq =>
    let k := (s.part p).quadAt lq
    k.pchs.zipIdx.flatMap (fun c => ((List.range 576).filter (fun g => f (s.stack k.pq) (c.1 * 576 + g))).map (fun g => (lq, c.2, g))))

/-- Pages whose dirty bit is set. -/
def State.dirtyPages (s : State) (p : Nat) : List (Nat × Nat × Nat) := s.pagesWhere p (fun st k => mget false st.dirty k)

/-- Read and clear the dirty bits: a PAGE record for each page found outside the save area (R232, R501). -/
def State.takeDirty (s : State) (p : Nat) : List MigItem × State :=
  let s1 := s.flushCache p
  let ds := s1.dirtyPages p
  ((ds.filter (fun x => !s1.savePage p x.1 x.2.2)).map (fun x => .page x.1 x.2.1 x.2.2),
   ds.foldl (fun (s : State) x =>
     let k := (s.part p).quadAt x.1
     s.modStack k.pq (fun st => { st with dirty := mset false st.dirty (k.pchs.getD x.2.1 0 * 576 + x.2.2) false })) s1)

/-! ### Record bodies (Table 13.18): the source -/

/-- A page's location. -/
def State.pageLoc (s : State) (p lq rank page line : Nat) : LineLoc :=
  let k := (s.part p).quadAt lq
  ⟨k.pq, k.pchs.getD rank 0, page, page * 32768 + line⟩

/-- PAGE: a line with an uncorrectable word is sent as zero and listed. -/
def State.pageBody (s : State) (p lq rank page : Nat) : List Byte :=
  let l0 := s.pageLoc p lq rank page 0
  let a := s.attr l0
  let bad := (List.range 32768).filter (fun i => (s.pageLine (s.pageLoc p lq rank page i)).marks != 0)
  let all := decide (24 < bad.length)
  let list := if all then [] else bad
  leBytes 1 lq ++ leBytes 1 rank ++ leBytes 2 page ++ leBytes 1 (b2n a.shared + 2 * b2n a.frozen + 4 * b2n all) ++ leBytes 1 0 ++
    leBytes 2 (if a.shared then 0 else a.domain) ++ leBytes 2 list.length ++ leBytes 6 0 ++ slice (list.flatMap (leBytes 2)) 0 48 ++
    (List.range 32768).flatMap (fun i =>
      let v := s.pageLine (s.pageLoc p lq rank page i)
      leBytes 64 (if v.marks = 0 then v.data.toNat else 0))

/-- A line record of 72 bytes (R380); an uncorrectable word travels in the POISON field. -/
def lineRecord (l : Line) (gen : Nat) : List Byte :=
  let l1 := if l.marks != 0 && l.poison == 0 then { l with poison := 2 } else l
  l1.bytes ++ leBytes 8 (l1.metaWord + gen % 65536 * 2 ^ 36)

/-- WAY. -/
def State.wayBody (s : State) (p lq rank first n : Nat) : List Byte :=
  let k := (s.part p).quadAt lq
  let w := k.waysAddr.getD rank 0
  leBytes 1 lq ++ leBytes 1 rank ++ leBytes 2 0 ++ leBytes 4 first ++ leBytes 4 n ++ leBytes 52 0 ++
    (List.range n).flatMap (fun i =>
      let l := mget clearLine (s.quad k.pq).qb.lines (w * 32768 + first + i)
      lineRecord l (s.genOf l))

/-- The 2,816 bytes of context state: VFLAGS, each row tag word's KIND and open generation. No job runs, so that no
chain, ring, segment or position is left to carry. The manual gives these bytes no layout; this one is the model's. -/
def ctxState (vflags : Nat) (kinds gens : Nat → Nat) : List Byte :=
  slice (leBytes 4 vflags ++ (List.range 64).flatMap (fun r => leBytes 1 (kinds r)) ++ (List.range 64).flatMap (fun r => leBytes 2 (gens r))) 0 2816

/-- A share image, each record tested under R382 first (R500). -/
def State.shareBody (s : State) (m : ShareImg) (t : TCtx) : List Byte :=
  let tag (r : Nat) : Nat × Nat :=
    let e := mget (0, 0) m.tags r
    if e.1 = 3 && !s.tagOk e.2 (mget 0 m.tagGens r) then (0, 0) else e
  (List.range 1536).flatMap (fun i =>
      let l := s.restoreLine (mget clearLine m.lines i) (mget 0 m.gens i)
      lineRecord l (if l.kind = .clear then 0 else mget 0 m.gens i)) ++
    (List.range 256).flatMap (fun i => leBytes 4 (mget 0 m.treg i).toNat) ++
    (List.range 64).flatMap (fun r => leBytes 4 (tag r).2) ++
    ctxState t.vflags (fun r => (tag r).1) (fun r => if (tag r).1 = 3 then mget 0 m.tagGens r else 0)

/-- The logical number of the tile of rank `rank` in a logical quadrant. -/
def Part.tileAt (x : Part) (lq rank : Nat) : Nat := ((x.quads.take lq).map (fun k => k.tiles.length)).sum + rank

/-- CONTEXT. -/
def State.contextBody (s : State) (p lq rank share ctx : Nat) : List Byte :=
  let part := s.part p
  let c := part.ctxs.getD ctx {}
  let x := part.tileAt lq rank
  let res := c.res != .swapped
  let img := c.image.getD {}
  let tl := part.tiles.getD x ⟨0, 0⟩
  leBytes 1 lq ++ leBytes 1 rank ++ leBytes 1 share ++ leBytes 1 (b2n res) ++ leBytes 2 ctx ++ leBytes 1 (if res then c.slot else 0) ++ leBytes 57 0 ++
    (if res then s.shareBody (s.shareImage (s.tile tl) (c.slot * part.s + share)) (mget {} (s.tile tl).ctxs ctx)
     else s.shareBody (mget {} img.shares (16 * x + share)) (mget {} img.tctx x))

/-- DOMAIN. -/
def State.domainBody (s : State) (d : Nat) : List Byte :=
  let x := s.dom d
  leBytes 2 d ++ leBytes 2 0 ++ leBytes 2 x.gen ++ leBytes 2 0 ++ leBytes 8 x.seed ++ slice x.manifestKey 0 96 ++ slice x.rules 0 1280 ++ leBytes 16 0

/-- One DIRECTORY entry. -/
def State.dirBody (s : State) (p h : Nat) : List Byte :=
  let e := s.entry h
  leBytes 2 h ++ leBytes 1 e.epoch ++ leBytes 1 e.state.code ++ leBytes 2 e.domain ++
    leBytes 1 (b2n e.baseRetired + 2 * b2n e.trainable + 4 * b2n e.offloadOk + 8 * e.live) ++ leBytes 1 0 ++ leBytes 2 e.binds ++ leBytes 2 0 ++
    leBytes 4 e.step ++ leBytes 8 (if e.hostUnits = 0 then 0 else e.hostIndex) ++ leBytes 4 e.hostUnits ++ leBytes 4 0 ++
    (List.range 8).flatMap (fun lq => leBytes 8 (e.offs.getD lq 0 * s.stripeBytes p lq)) ++
    digestBytes e.base ++ digestBytes e.manifest ++
    (List.range 16).flatMap (fun i => match e.experts[i]? with
      | some x => leBytes 2 x.1 ++ leBytes 2 x.2
      | none => leBytes 4 0xFFFFFFFF)

/-- One SET entry of PARTITION. -/
def setBody : Option CfgSet → List Byte
  | none => leBytes 128 0
  | some c => leBytes 1 c.num ++ leBytes 1 (b2n c.retired) ++ leBytes 2 0 ++ leBytes 4 c.patchCount ++ leBytes 8 c.baseOff ++
      digestBytes c.file.base ++ digestBytes c.patchMeas ++ leBytes 8 c.hostIndex ++ leBytes 4 c.hostUnits ++ leBytes 4 0

/-- One SLOT entry of PARTITION. -/
def TrSlot.body (t : TrSlot) : List Byte :=
  leBytes 1 (if t.state = .clean then 0 else 1) ++ leBytes 1 (b2n t.partialG + 2 * t.gradFmt) ++ leBytes 1 t.list.length ++ leBytes 1 0 ++
    leBytes 2 t.micro ++ leBytes 2 0 ++ leBytes 4 t.seq.toNat ++ leBytes 4 t.group ++ leBytes 4 t.gabOff ++ leBytes 4 t.stashOff ++
    leBytes 4 t.stashBytes ++ leBytes 4 t.qbOff ++ leBytes 4 t.qbLines ++ leBytes 28 0 ++ slice (t.list.flatMap (leBytes 8)) 0 512 ++ leBytes 64 0

/-- PARTITION. -/
def State.partitionBody (s : State) (p : Nat) : List Byte :=
  let x := s.part p
  lineRound (digestBytes x.meas ++ leBytes 1 (maskOf (x.sets.map CfgSet.num)) ++ leBytes 15 0 ++
    (List.range 4).flatMap (fun k => setBody (x.set? k)) ++ (List.range 16).flatMap (fun k => (s.slot p k).body) ++
    x.ctxs.flatMap (fun c => leBytes 1 (c.prioNext.getD c.prio) ++ leBytes 1 (b2n c.image.isSome) ++ leBytes 2 0 ++ leBytes 4 c.bufBase ++ leBytes 4 c.bufLines ++ leBytes 4 0))
where
  lineRound (bs : List Byte) : List Byte := slice bs 0 (ceilDiv bs.length 64 * 64)

/-- HOST. -/
def State.hostBody (s : State) (p index units owner : Nat) : List Byte :=
  leBytes 8 index ++ leBytes 4 units ++ leBytes 2 owner ++ leBytes 50 0 ++ s.hostTierRead p index units

/-- TYPE of a record. -/
def MigItem.code : MigItem → Nat
  | .page .. => 1
  | .way .. => 2
  | .context .. => 3
  | .domain _ => 4
  | .directory _ => 5
  | .partition => 6
  | .fin => 7
  | .host .. => 8

/-- The body of a record. END counts the records before it, SOURCE_HELLO included: as many as its SEQ. -/
def State.body (s : State) (e : Export) : MigItem → List Byte
  | .page lq r g => s.pageBody e.part lq r g
  | .way lq r f n => s.wayBody e.part lq r f n
  | .context lq t sh c => s.contextBody e.part lq t sh c
  | .domain d => s.domainBody d
  | .directory hs => leBytes 4 hs.length ++ leBytes 60 0 ++ hs.flatMap (s.dirBody e.part)
  | .partition => s.partitionBody e.part
  | .fin => leBytes 8 e.seq ++ leBytes 56 0
  | .host i u o => s.hostBody e.part i u o

/-- Uncorrectable words that a PAGE record meets are errors of their stack, and a HOST record's units whose tags fail
raise EV_ECC_UE (R206, R234). -/
def State.noteItem (s : State) (p : Nat) : MigItem → State
  | .page lq r g => (List.range 32768).foldl (fun (s : State) i => s.stackMarks (s.pageLoc p lq r g i) p 0) s
  | .host i u _ => ((List.range u).map (fun x => i + x)).foldl (fun (a : State) n =>
      if (s.hostUnit p n).isNone then a.raise 0x09 0x129 p 0 0x7 n else a) s
  | _ => s

/-- A record: header, ciphertext, tag, 16 zero bytes (R499). -/
def sealRecord (key : List Byte) (typ level seq obj : Nat) (body : List Byte) : List Byte :=
  let hdr := leBytes 1 typ ++ leBytes 1 level ++ leBytes 2 0 ++ leBytes 4 body.length ++ leBytes 8 seq ++ leBytes 8 obj ++ leBytes 8 0
  let c := gcmSeal key (leBytes 8 seq ++ leBytes 4 0) hdr body
  hdr ++ c.1 ++ c.2 ++ leBytes 16 0

/-- What a run over the items leaves: the bytes, the export and the state. -/
structure Emitted where
  bytes : List Byte
  exp : Export
  state : State

/-- Send items while their records fit in `room` bytes. -/
def emit : List MigItem → Nat → Export → State → Emitted
  | [], _, e, s => ⟨[], { e with todo := [] }, s⟩
  | i :: is, room, e, s =>
    let b := s.body e i
    let n := b.length + 64
    if room < n then ⟨[], { e with todo := i :: is }, s⟩
    else
      let o := mget 0 e.ordinals i.code
      let r := emit is (room - n) { e with
        seq := e.seq + 1, ordinals := mset 0 e.ordinals i.code (o + 1), endSeq := if i = .fin then e.seq else e.endSeq } (s.noteItem e.part i)
      ⟨sealRecord e.key i.code s.recLevel e.seq o b ++ r.bytes, r.exp, r.state⟩

/-- An op that sends records ends: bytes written, pages dirty, MORE while items are left. -/
def State.exportEnd (s : State) (j : JobRef) (op : Nat) (e : Export) (hello : List Byte) : State :=
  match s.cmd j with
  | none => s
  | some c =>
    let r := emit e.todo (c.param 0x24 4 - hello.length) e s
    let out := hello ++ r.bytes
    let more := !r.exp.todo.isEmpty
    if !s.hostOk (c.param 0x28 8) out.length then s.finish j stAborted 0x51
    else
      let s1 := r.state.hostWrite (c.param 0x28 8) out
      let s2 := { s1 with host := { s1.host with exp := some { r.exp with moreOp := if more then some op else none } } }
      (s2.finish j stOk).modCmd j (fun c => { c with res0 := out.length, res1 := (s2.dirtyPages e.part).length, more := more })

/-! ### EXPORT (R498, R501) -/

/-- The export that command `c` continues or serves: it names its partition and no other op's MORE is outstanding. -/
def State.exportFor (s : State) (c : Cmd) (op : Nat) : Except (Nat × Nat) Export :=
  match s.host.exp with
  | none => .error (stAborted, migFail)
  | some e =>
    if e.moreOp.any (· != op) then .error (stSlotBusy, 0)
    else if e.part != c.part then .error (stAborted, migFail)
    else .ok e

/-- Ticket bytes before SIG_R, without the chain. -/
def ticketFixed : Nat := 0x2E0

/-- Is a ticket well-formed (Table 13.13)? -/
def ticketOk (t : List Byte) : Bool :=
  slice t 0 4 == ascii "JLMT" && decide (ticketFixed + ceilDiv (fieldAt t 8 4) 8 * 8 + 96 ≤ t.length)

/-- A reserved field of a report header or of a FIRMWARE or PARTITION section is set (Tables 11.7, 11.8). -/
def reportReserved (h : List Byte) : Bool := fieldAt h 7 1 != 0 || fieldAt h 75 1 != 0 || !allZero (slice h 80 16)
def firmwareReserved (f : List Byte) : Bool := fieldAt f 1 3 != 0 || fieldAt f 204 4 != 0
def partitionReserved (x : List Byte) : Bool :=
  fieldAt x 1 3 != 0 || fieldAt x 0x14 4 != 0 || !allZero (slice x 0x109 7) ||
  (List.range 8).any (fun lq => fieldAt x (0x18 + 24 * lq + 3) 1 != 0 || !allZero (slice x (0x18 + 24 * lq + 10) 6))

/-- A reserved field of a ticket is set (R5). -/
def ticketReserved (t : List Byte) : Bool :=
  !allZero (slice t 5 3) || !allZero (slice t 0x0C 4) || reportReserved (slice t 0x70 96) || firmwareReserved (slice t 0xD0 256) ||
  partitionReserved (slice t 0x1D0 272)

/-- Every VALID page outside the save area. -/
def State.validPages (s : State) (p : Nat) : List MigItem :=
  ((s.pagesWhere p (fun st k => (mget {} st.pages k).valid)).filter (fun x => !s.savePage p x.1 x.2.2)).map (fun x => .page x.1 x.2.1 x.2.2)

/-- SOURCE_HELLO: the ECDHE key, the report header, FIRMWARE, the chain and the signature under AK over the ticket's NONCE
and these bytes, padded to 64 bytes (R498). The manual gives these items and no layout; this one is the model's. -/
def State.sourceHello (s : State) (p : Nat) (nonce pub : List Byte) : List Byte × State :=
  let n := s.draw 256
  let h := n.2.migHeader p n.1.toNat
  let body := pub ++ h.1 ++ s.firmwareSection ++ pad8 s.vault.chain
  let g := h.2.akSign (sha384 (nonce ++ body))
  let bs := body ++ g.1
  (slice bs 0 (ceilDiv bs.length 64 * 64), g.2)

/-- EXPORT_START. -/
def execExportStart (j : JobRef) (peer : PeerCheck) (s : State) : Host.Outcome State Fault Refusal :=
  .next <| match s.due j 0x30 with
  | none => s
  | some c =>
    if c.param 0x20 1 ≠ 1 then s
    else match s.host.exp.filter (fun e => e.phase != 3) with
    | some e => if e.moreOp = some 1 && e.part = c.part then s.exportEnd j 1 e [] else s.finish j stSlotBusy
    | none =>
      if c.param 0x24 4 < recordRoom then s.finish j stAborted migFail
      else match s.hostRead (c.param 0x30 8) (c.param 0x38 4) with
      | none => s.finish j stAborted 0x51
      | some t =>
        let pub := slice t 0x10 96
        if ticketReserved t then s.finish j stReserved
        else if fieldAt t 4 1 ≠ s.glb.level then s.finish j stVersion
        else if !(ticketOk t && peer.chainOk && peer.sigOk && s.peerOk (slice t 0x70 96) (slice t 0xD0 256) &&
            (s.part c.part).shapeOk (slice t 0x1D0 272) && pubOk pub) then s.finish j stAborted migFail
        else
          let k := s.ecdhe
          let nonce := slice t 0x80 32
          let h := k.2.2.sourceHello c.part nonce k.2.1
          let prk := migPrk nonce k.1 pub
          let s1 := (h.2.flushCache c.part).modPart c.part (fun x => { x with logging := true })
          if c.param 0x24 4 < h.1.length then s.finish j stAborted migFail
          else
            let r := s1.exportEnd j 1 { part := c.part, phase := 1, key := migKey prk, prk := prk, nonce := nonce, seq := 1, hello := h.1
                                        todo := s1.validPages c.part } h.1
            if (r.cmd j).any (fun d => d.status == stAborted) then s.finish j stAborted 0x51 else r

/-- EXPORT_ROUND. -/
def execExportRound (j : JobRef) (s : State) : Host.Outcome State Fault Refusal :=
  .next <| match s.due j 0x30 with
  | none => s
  | some c =>
    if c.param 0x20 1 ≠ 2 then s
    else match s.exportFor c 2 with
    | .error e => s.finish j e.1 e.2
    | .ok e =>
      if e.phase ≠ 1 || c.param 0x24 4 < recordRoom then s.finish j stAborted migFail
      else if e.moreOp.isSome then s.exportEnd j 2 e []
      else
        let d := s.takeDirty c.part
        let r := d.2.exportEnd j 2 { e with todo := d.1 } []
        if (r.cmd j).any (fun x => x.status == stAborted) then s.finish j stAborted 0x51 else r

/-- The records that follow the last dirty pages in FINAL (R501). -/
def State.finalItems (s : State) (p : Nat) : List MigItem :=
  let x := s.part p
  let nq := List.range x.quads.length
  let ways := nq.flatMap (fun lq => (List.range (x.quadAt lq).waysAddr.length).flatMap (fun r =>
    [MigItem.way lq r 0 16384, .way lq r 16384 16384]))
  let ctxs := x.ctxs.zipIdx.flatMap (fun c =>
    if c.1.res = .swapped && c.1.image.isNone then []
    else nq.flatMap (fun lq => (List.range (x.quadAt lq).tiles.length).flatMap (fun t => (List.range x.s).map (fun sh => MigItem.context lq t sh c.2))))
  let hosts := x.hosts.flatMap (fun h =>
    let owner := match s.dir.entries.find? (fun e => e.2.part == p && e.2.state != .free && e.2.hostUnits != 0 &&
        decide (e.2.hostIndex ≤ h.index) && decide (h.index < e.2.hostIndex + e.2.hostUnits)) with
      | some e => e.2.domain
      | none => 0x8000
    (List.range (ceilDiv h.units 256)).map (fun i => MigItem.host (h.index + 256 * i) (min 256 (h.units - 256 * i)) owner))
  let doms := ((s.dir.domains.filter (fun d => x.hasDomain d.1 && d.2.open_)).map Prod.fst).map MigItem.domain
  let hs := (s.dir.entries.filter (fun e => e.2.part == p && (e.2.state == .resident || e.2.state == .offloaded))).map Prod.fst
  ways ++ ctxs ++ hosts ++ doms ++ (pieces 8191 (hs.length + 1) hs).map MigItem.directory ++ [.partition, .fin]

/-- FINAL's conditions (R501): every other command of the partition has completed, and no slot is COMMITTING or
IN_DOUBT. -/
def State.finalOk (s : State) (c : Cmd) : Bool :=
  !s.host.cmds.any (fun d => d.phase != .final && s.ofPart c.part d && d.job != c.job) &&
  (List.range 16).all (fun k => (s.slot c.part k).state != .committing && (s.slot c.part k).state != .inDoubt)

/-- FINAL still waits: a handle is RETIRING, a slice has not ended, or a switch runs. -/
def State.finalWaits (s : State) (p : Nat) : Bool :=
  s.dir.entries.any (fun e => e.2.part == p && e.2.state == .retiring) || (s.part p).switch.isSome ||
  (s.part p).tiles.any (fun tl => (s.tile tl).running.isSome || (s.tile tl).switching.isSome)

/-- EXPORT_FINAL. While it waits fetching is stopped and the command stays accepted. -/
def execExportFinal (j : JobRef) (s : State) : Host.Outcome State Fault Refusal :=
  .next <| match s.due j 0x30 with
  | none => s
  | some c =>
    if c.param 0x20 1 ≠ 3 then s
    else match s.exportFor c 3 with
    | .error e => s.finish j e.1 e.2
    | .ok e =>
      if c.param 0x24 4 < recordRoom then s.finish j stAborted migFail
      else if e.moreOp.isSome then s.exportEnd j 3 e []
      else if e.phase ≠ 1 then s.finish j stAborted migFail
      else if !s.finalOk c then s.finish j stSlotBusy
      else
        let s0 := s.modPart c.part (fun x => { x with suspended := true })
        if s0.finalWaits c.part then s0
        else
          let d := s0.takeDirty c.part
          let r := d.2.exportEnd j 3 { e with phase := 2, todo := d.1 ++ d.2.finalItems c.part } []
          if (r.cmd j).any (fun x => x.status == stAborted) then s.finish j stAborted 0x51 else r

/-- EXPORT_CANCEL: logging goes off; after FINAL fetching resumes. With no export it has nothing to cancel. -/
def execExportCancel (j : JobRef) (s : State) : Host.Outcome State Fault Refusal :=
  .next <| match s.due j 0x30 with
  | none => s
  | some c =>
    if c.param 0x20 1 ≠ 4 then s
    else match s.host.exp with
    | none => s.finish j stAlreadyDone
    | some e =>
      if e.phase = 3 then s.finish j stAlreadyDone
      else if e.part ≠ c.part then s.finish j stAborted migFail
      else
        let s1 := s.modPart e.part (fun x => { x with logging := false, suspended := false })
        { s1 with host := { s1.host with exp := none } }.finish j stOk

/-- EXPORT_RELEASE: the token goes to BUF, and the partition is disabled (R393). -/
def execExportRelease (j : JobRef) (s : State) : Host.Outcome State Fault Refusal :=
  .next <| match s.due j 0x30 with
  | none => s
  | some c =>
    if c.param 0x20 1 ≠ 5 then s
    else match s.exportFor c 5 with
    | .error e => s.finish j e.1 e.2
    | .ok e =>
      if e.phase ≠ 2 || c.param 0x24 4 < 48 then s.finish j stAborted migFail
      else if !s.hostOk (c.param 0x28 8) 48 then s.finish j stAborted 0x51
      else
        let s1 := s.hostWrite (c.param 0x28 8) (releaseToken e.prk e.nonce e.endSeq)
        let s2 := { s1 with host := { s1.host with exp := some { e with phase := 3, key := [], prk := [] } } }
        (((s2.finish j stOk).modCmd j (fun c => { c with res0 := 48, res1 := (s2.dirtyPages e.part).length })).modPart e.part
          (fun x => { x with logging := false })).disable e.part 0 false (some j)

/-! ### Record bodies: the destination -/

/-- A line from its 72-byte record, and the record's generation. -/
def lineOfRecord (b : List Byte) : Line × Nat :=
  let m := fieldAt b 64 8
  ({ data := lineData (slice b 0 64), kind := LineKind.ofCode (bitsOf m 34 2), poison := bitsOf m 32 2, tag := bitsOf m 0 32 }, bitsOf m 36 16)

/-- A reserved bit of one of the line records in some bytes is set (R380). -/
def linesReserved (bs : List Byte) : Bool := (pieces 72 (bs.length / 72 + 1) bs).any (fun r => bitsOf (fieldAt r 64 8) 52 12 != 0)

/-- A reserved field of a record's body is set (Table 13.18, R5). -/
def bodyReserved (typ : Nat) (b : List Byte) : Bool :=
  match typ with
  | 1 => !allZero (slice b 5 1) || decide (8 ≤ fieldAt b 4 1) || decide (4096 ≤ fieldAt b 6 2) || !allZero (slice b 10 6)
  | 2 => !allZero (slice b 2 2) || !allZero (slice b 12 52) || linesReserved (b.drop 64)
  | 3 => decide (2 ≤ fieldAt b 3 1) || !allZero (slice b 7 57) || linesReserved (slice b 64 110592)
  | 4 => decide (4096 ≤ fieldAt b 0 2) || fieldAt b 2 2 != 0 || fieldAt b 6 2 != 0 || !allZero (slice b 1392 16)
  | 5 => !allZero (slice b 4 60) || (pieces 256 (b.length / 256 + 1) (b.drop 64)).any (fun e =>
      decide (16 ≤ fieldAt e 6 1) || fieldAt e 7 1 != 0 || fieldAt e 10 2 != 0 || fieldAt e 28 4 != 0)
  | 6 => !allZero (slice b 49 15) ||
      (List.range 4).any (fun k => let x := slice b (64 + 128 * k) 128
        decide (2 ≤ fieldAt x 1 1) || fieldAt x 2 2 != 0 || fieldAt x 124 4 != 0) ||
      (List.range 16).any (fun k => let x := slice b (576 + 640 * k) 640
        decide (4 ≤ fieldAt x 1 1) || fieldAt x 3 1 != 0 || fieldAt x 6 2 != 0 || !allZero (slice x 36 28) || !allZero (slice x 576 64)) ||
      (pieces 16 (b.length / 16 + 1) (b.drop 10816)).any (fun x => decide (2 ≤ fieldAt x 1 1) || fieldAt x 2 2 != 0 || fieldAt x 12 4 != 0)
  | 7 => !allZero (slice b 8 56)
  | _ => bitsOf (fieldAt b 12 2) 12 3 != 0 || !allZero (slice b 14 50)

/-- The generation that a record carries once its domain has opened here (R500). -/
def newGen (gens : List (Nat × Nat × Nat)) (d g : Nat) : Nat :=
  match gens.find? (fun x => x.1 == d && x.2.1 == g) with
  | some x => x.2.2
  | none => g

/-- Replace the generations of a share image. -/
def ShareImg.regen (m : ShareImg) (gens : List (Nat × Nat × Nat)) : ShareImg :=
  { m with
    gens := m.gens.map (fun (e : Nat × Nat) => (e.1, newGen gens (mget clearLine m.lines e.1).domain e.2))
    tagGens := m.tagGens.map (fun (e : Nat × Nat) => (e.1, newGen gens (bitsOf (mget (0, 0) m.tags e.1).2 20 12) e.2)) }

/-- What a record leaves, or the status and detail with which it is refused. -/
abbrev Placed := Except (Nat × Nat) State

/-- A record that breaks Table 13.18. -/
def broken : Placed := .error (stAborted, migFail)

/-- Change the import. -/
def State.modImp (s : State) (f : Import → Import) : State := { s with host := { s.host with imp := s.host.imp.map f } }

/-- PAGE. -/
def State.loadPage (s : State) (p : Nat) (b : List Byte) : Placed :=
  let lq := fieldAt b 0 1
  let rank := fieldAt b 1 1
  let page := fieldAt b 2 2
  let f := fieldAt b 4 1
  let d := fieldAt b 6 2
  let n := fieldAt b 8 2
  let k := (s.part p).quadAt lq
  if b.length ≠ 2097216 || (s.part p).quads.length ≤ lq || k.pchs.length ≤ rank || 576 ≤ page || s.savePage p lq page ||
      (bitOf f 0 && d != 0) || 24 < n ||
      !allZero (slice b (16 + 2 * n) (48 - 2 * n)) then broken
  else
    let bad := (List.range n).map (fun i => fieldAt b (16 + 2 * i) 2)
    if bad.any (fun i => decide (32768 ≤ i)) then broken
    else
      let s1 := s.setPage k.pq (k.pchs.getD rank 0) page { valid := true, shared := bitOf f 0, frozen := bitOf f 1, domain := d }
      .ok ((linesOf (b.drop 64)).zipIdx.foldl (fun (s : State) x =>
        let poison := bitOf f 2 || bad.contains x.2
        s.putLine (s.pageLoc p lq rank page x.2) { data := if poison then 0 else lineData x.1, marks := if poison then 255 else 0 }) s1)

/-- WAY. -/
def State.loadWay (s : State) (p : Nat) (b : List Byte) : Placed :=
  let lq := fieldAt b 0 1
  let rank := fieldAt b 1 1
  let first := fieldAt b 4 4
  let n := fieldAt b 8 4
  let k := (s.part p).quadAt lq
  let recs := (pieces 72 (n + 1) (b.drop 64)).map lineOfRecord
  if b.length ≠ 64 + 72 * n || n = 0 || 16384 < n || (s.part p).quads.length ≤ lq || k.waysAddr.length ≤ rank || 32768 < first + n then broken
  else
    let w := k.waysAddr.getD rank 0
    .ok (s.modQuad k.pq (fun q => { q with qb := { q.qb with
      lines := recs.zipIdx.foldl (fun m x => mset clearLine m (w * 32768 + first + x.2) x.1.1) q.qb.lines } }))

/-- CONTEXT: the image goes into the save area; a RESIDENT one is noted for FINISH. -/
def State.loadContext (s : State) (p : Nat) (im : Import) (b : List Byte) : Placed :=
  let lq := fieldAt b 0 1
  let rank := fieldAt b 1 1
  let share := fieldAt b 2 1
  let f := fieldAt b 3 1
  let ctx := fieldAt b 4 2
  let slot := fieldAt b 6 1
  let part := s.part p
  let recs := (pieces 72 1537 (slice b 64 110592)).map lineOfRecord
  if b.length ≠ 114752 || part.quads.length ≤ lq || (part.quadAt lq).tiles.length ≤ rank || part.s ≤ share || part.ctxs.length ≤ ctx ||
      (f = 0 && slot != 0) || part.cRes ≤ slot then broken
  else
    let o := 64 + 110592
    let st := o + 1280
    let ls := recs.zipIdx
    let m0 : ShareImg := { lines := (ls.map (fun x => (x.2, x.1.1))).filter (fun e => e.2 != clearLine)
                           gens := (ls.map (fun x => (x.2, x.1.2))).filter (fun e => e.2 != 0)
                           treg := ((List.range 256).map (fun i => (i, BitVec.ofNat 32 (fieldAt b (o + 4 * i) 4)))).filter (fun e => e.2 != 0)
                           tags := ((List.range 64).map (fun r => (r, fieldAt b (st + 4 + r) 1, fieldAt b (o + 1024 + 4 * r) 4))).filter (fun e => e.2 != (0, 0))
                           tagGens := ((List.range 64).map (fun r => (r, fieldAt b (st + 68 + 2 * r) 2))).filter (fun e => e.2 != 0) }
    let m := m0.regen im.gens
    let x := part.tileAt lq rank
    let t : TCtx := { vflags := fieldAt b st 4 }
    let s1 := s.modPart p (fun y => { y with ctxs := y.ctxs.modify ctx (fun c =>
      let img := c.image.getD {}
      { c with image := some { shares := mset {} img.shares (16 * x + share) m, tctx := mset {} img.tctx x t } }) })
    .ok (if f = 1 then s1.modImp (fun im => { im with resident := if im.resident.contains (ctx, slot) then im.resident else im.resident ++ [(ctx, slot)] }) else s1)

/-- What of a partition was placed for a domain before it opened is encrypted again under the domain's new root (R499): its
stack pages, and its host-tier units. -/
def State.rekeyDomain (s : State) (p d : Nat) (kd : Key256) : State :=
  let mine (k pch page : Nat) : Bool :=
    let a := s.pageAttr k pch page
    a.valid && !a.shared && a.domain == d && s.pchOwner k pch == some p
  let s1 := (List.range 8).foldl (fun (a : State) k => a.modStack k (fun st => { st with lines := st.lines.map (fun e =>
    if mine k (e.1 / 2 ^ 25) (e.1 % 2 ^ 25 / 32768) && e.2.key.isSome then (e.1, { e.2 with key := some kd }) else e) })) s
  { s1 with hostTier := s1.hostTier.map (fun e => match (s.part p).extentOf e.1, e.2 with
    | some x, .sealed k ix g bs ok => if x.domain = some d then (e.1, .sealed kd ix g bs ok) else (e.1, .sealed k ix g bs ok)
    | _, u => (e.1, u)) }

/-- DOMAIN: the domain opens with new keys and the next generation, and has no owner (R499). -/
def State.loadDomain (s : State) (p : Nat) (b : List Byte) : Placed :=
  let d := fieldAt b 0 2
  let x := s.dom d
  if b.length ≠ 1408 || !(s.part p).hasDomain d || x.open_ || x.closing || (x.opened && decide (65535 ≤ x.gen)) then broken
  else
    let kd := s.draw 256
    let ik := kd.2.draw 256
    let g := if x.opened then x.gen + 1 else x.gen
    let one := [(d, fieldAt b 4 2, g)]
    let s1 := ik.2.modDom d (fun _ => {
      open_ := true, gen := g, opened := true, kd := kd.1, importKey := ik.1, manifestKey := slice b 16 96, seed := fieldAt b 8 8
      rules := slice b 112 1280, slotKey := true, owners := [] })
    let s2 := s1.modPart p (fun y => { y with ctxs := y.ctxs.map (fun c => { c with
      image := c.image.map (fun m => { m with shares := m.shares.map (fun (e : Nat × ShareImg) => (e.1, e.2.regen one)) }) }) })
    .ok ((s2.rekeyDomain p d kd.1).modImp (fun im => { im with gens := im.gens ++ one }))

/-- One DIRECTORY entry breaks the table. -/
def dirEntryBad (s : State) (p : Nat) (b : List Byte) : Bool :=
  let st := fieldAt b 3 1
  (st != 2 && st != 3) || !(s.part p).hasDomain (fieldAt b 4 2) || decide (16 ≤ fieldAt b 2 1)

/-- Place one DIRECTORY entry. The manifest is read back from where the adapter lies; the seed results, which no
record carries, are free values. -/
def State.loadEntry (s : State) (p : Nat) (b : List Byte) : State :=
  let h := fieldAt b 0 2
  let f := fieldAt b 6 1
  let offs := (List.range (s.part p).quads.length).map (fun lq => fieldAt b (32 + 8 * lq) 8 / max 1 (s.stripeBytes p lq))
  let resident := fieldAt b 3 1 == 2
  let ix := fieldAt b 16 8
  let take (n : Nat) : List Byte :=
    if resident then s.regionRead p 0 1 (fieldAt b 32 8) n else (s.hostTierRead p ix (ceilDiv n 4096)).take n
  let m := (take (manRoom (take 512))).take (manLength (take 512))
  let r := (List.range (if manSeed m then manTensors m else 0)).foldl (fun (a : List Nat × State) _ =>
    let x := a.2.draw 32
    (a.1 ++ [x.1.toNat], x.2)) ([], s)
  let ex := ((List.range 16).map (fun i => (fieldAt b (192 + 4 * i) 2, fieldAt b (194 + 4 * i) 2))).filter (fun e => e != (0xFFFF, 0xFFFF))
  r.2.modEntry h (fun _ => {
    state := if resident then .resident else .offloaded, epoch := fieldAt b 2 1, part := p, domain := fieldAt b 4 2
    base := digestOf (slice b 96 48), manifest := digestOf (slice b 144 48), manifestBytes := m, binds := fieldAt b 8 2
    baseRetired := bitOf f 0, trainable := bitOf f 1, offloadOk := bitOf f 2, live := b2n (bitOf f 3), step := fieldAt b 12 4
    offs := if resident then offs else [], hostIndex := ix, hostUnits := fieldAt b 24 4, experts := ex, seeds := r.1 })

/-- DIRECTORY: every handle is FREE here, or IMPORT LOAD gives ST_SLOT_BUSY (R496). -/
def State.loadDirectory (s : State) (p : Nat) (b : List Byte) : Placed :=
  let n := fieldAt b 0 4
  let es := pieces 256 (n + 1) (b.drop 64)
  if n = 0 || 8191 < n || b.length ≠ 64 + 256 * n || es.any (dirEntryBad s p) then broken
  else if es.any (fun e => (s.entry (fieldAt e 0 2)).state != .free) then .error (stSlotBusy, 0)
  else .ok (es.foldl (fun (s : State) e => s.loadEntry p e) s)

/-- One set: its record is read back from the configuration store, whose pages have arrived. -/
def State.loadSetEntry (s : State) (p k : Nat) (b : List Byte) : State :=
  let t := s.cfgRead p 0 64
  let r := s.cfgRead p (fieldAt t (16 * k) 8) (fieldAt t (16 * k + 8) 8)
  let c := { setOfRecord s.glb.level r with
    num := k, retired := bitOf (fieldAt b 1 1) 0, patchCount := fieldAt b 4 4, baseOff := fieldAt b 8 8, patchMeas := digestOf (slice b 64 48)
    hostIndex := fieldAt b 112 8, hostUnits := fieldAt b 120 4, cfgOff := fieldAt t (16 * k) 8 }
  s.modPart p (fun x => { x with
    sets := x.sets ++ [{ c with file := { c.file with base := digestOf (slice b 16 48) } }]
    retiredAt := if c.retired then mput k (s.host.nextOrder - 1) x.retiredAt else x.retiredAt })

/-- One training slot. -/
def State.loadSlot (s : State) (p k : Nat) (b : List Byte) : State :=
  let list := (List.range (fieldAt b 2 1)).map (fun i => fieldAt b (64 + 8 * i) 8)
  let acc := fieldAt b 0 1 == 1
  let s1 := s.modSlot p k (fun _ => {
    state := if acc then .accumulating else .clean, list := list, gradFmt := b2n (bitOf (fieldAt b 1 1) 1), partialG := bitOf (fieldAt b 1 1) 0
    micro := fieldAt b 4 2, seq := BitVec.ofNat 32 (fieldAt b 8 4), group := fieldAt b 12 4, gabOff := fieldAt b 16 4, stashOff := fieldAt b 20 4
    stashBytes := fieldAt b 24 4, qbOff := fieldAt b 28 4, qbLines := fieldAt b 32 4
    domain := if acc then (s.entry (leHandle (list.getD 0 0))).domain else 0 })
  if acc then list.foldl (fun (s : State) w => s.modEntry (leHandle w) (fun e => { e with slot := some k })) s1 else s1

/-- PARTITION. -/
def State.loadPartition (s : State) (p : Nat) (b : List Byte) : Placed :=
  let x := s.part p
  let mask := fieldAt b 48 1
  let slotAt (k : Nat) : List Byte := slice b (576 + 640 * k) 640
  let setAt (k : Nat) : List Byte := slice b (64 + 128 * k) 128
  let ctxAt (i : Nat) : List Byte := slice b (10816 + 16 * i) 16
  let n := 10816 + 16 * x.ctxCount
  let setBad (k : Nat) : Bool := bitOf mask k && fieldAt (setAt k) 0 1 != k
  let slotBad (k : Nat) : Bool := decide (2 ≤ fieldAt (slotAt k) 0 1) || decide (64 < fieldAt (slotAt k) 2 1)
  let ctxBad (i : Nat) : Bool := decide (x.prioMax < fieldAt (ctxAt i) 0 1)
  if b.length ≠ ceilDiv n 64 * 64 || 16 ≤ mask || !x.sets.isEmpty || (List.range 4).any setBad ||
      (List.range 16).any slotBad || (List.range x.ctxCount).any ctxBad || !allZero (b.drop n) then broken
  else
    let s1 := s.modPart p (fun x => { x with
      meas := digestOf (slice b 0 48)
      ctxs := x.ctxs.mapIdx (fun i c => { c with prio := fieldAt (ctxAt i) 0 1, bufBase := fieldAt (ctxAt i) 4 4, bufLines := fieldAt (ctxAt i) 8 4 }) })
    let s2 := ((List.range 4).filter (fun k => bitOf mask k)).foldl (fun (s : State) k => s.loadSetEntry p k (setAt k)) s1
    .ok ((List.range 16).foldl (fun (s : State) k => s.loadSlot p k (slotAt k)) s2)

/-- HOST: units placed under a new generation; a full counter is STORE_FULL (R233). -/
def State.loadHost (s : State) (p : Nat) (b : List Byte) : Placed :=
  let n := fieldAt b 8 4
  let o := fieldAt b 12 2
  if n = 0 || 256 < n || b.length ≠ 64 + 4096 * n || (bitOf o 15 && o != 0x8000) then broken
  else match s.hostPlace p (fieldAt b 0 8) (if bitOf o 15 then none else some o) [] (b.drop 64) with
  | some s1 => .ok s1
  | none => .error (stAborted, 0x27)

/-- END. -/
def State.loadEnd (s : State) (im : Import) (b : List Byte) : Placed :=
  if b.length ≠ 64 || fieldAt b 0 8 ≠ im.seq then broken
  else .ok (s.modImp (fun im => { im with phase := 2, endSeq := im.seq }))

/-- Place a record's body. -/
def State.loadBody (s : State) (im : Import) (typ : Nat) (b : List Byte) : Placed :=
  match typ with
  | 1 => s.loadPage im.part b
  | 2 => s.loadWay im.part b
  | 3 => s.loadContext im.part im b
  | 4 => s.loadDomain im.part b
  | 5 => s.loadDirectory im.part b
  | 6 => s.loadPartition im.part b
  | 7 => s.loadEnd im b
  | _ => s.loadHost im.part b

/-- Take one record of the buffer: its bytes consumed and the state, or the refusal. Reserved fields come before LEVEL and
the type code (R5), and these before what Table 13.18 and the tag ask. -/
def State.loadRecord (s : State) (im : Import) (buf : List Byte) : Except (Nat × Nat) (Nat × State) :=
  let hdr := buf.take 32
  let n := fieldAt hdr 4 4
  let typ := fieldAt hdr 0 1
  let o := mget 0 im.ordinals typ
  if fieldAt hdr 2 2 != 0 || fieldAt hdr 24 8 != 0 then .error (stReserved, 0)
  else if fieldAt hdr 1 1 ≠ s.recLevel || typ = 0 || 8 < typ then .error (stVersion, 0)
  else if buf.length < n + 64 || n % 64 != 0 || fieldAt hdr 8 8 != im.seq || fieldAt hdr 16 8 != o || !allZero (slice buf (n + 48) 16) then
    .error (stAborted, migFail)
  else match gcmOpen im.key (leBytes 8 im.seq ++ leBytes 4 0) hdr (slice buf 32 n) (slice buf (32 + n) 16) with
  | none => .error (stAborted, migFail)
  | some b => if bodyReserved typ b then .error (stReserved, 0) else match s.loadBody im typ b with
    | .error e => .error e
    | .ok s1 => .ok (n + 64, s1.modImp (fun im => { im with seq := im.seq + 1, ordinals := mset 0 im.ordinals typ (o + 1) }))

/-- Take SOURCE_HELLO (R498): the chain's own length says where it ends. -/
def State.loadHello (s : State) (im : Import) (peer : PeerCheck) (buf : List Byte) : Except (Nat × Nat) (Nat × State) :=
  let n := 448 + ceilDiv (fieldAt buf 448 2) 8 * 8 + 96
  let pub := slice buf 0 96
  if reportReserved (slice buf 96 96) || firmwareReserved (slice buf 192 256) then .error (stReserved, 0)
  else if buf.length < ceilDiv n 64 * 64 || !peer.chainOk || !peer.sigOk || !s.peerOk (slice buf 96 96) (slice buf 192 256) || !pubOk pub then
    .error (stAborted, migFail)
  else
    let prk := migPrk im.nonce im.priv pub
    .ok (ceilDiv n 64 * 64, s.modImp (fun im => { im with helloDone := true, prk := prk, key := migKey prk }))

/-- Take records until the buffer or END is reached, or one is refused: bytes consumed, the refusal, the state. -/
def State.loadAll (peer : PeerCheck) : Nat → List Byte → Nat → State → Nat × Option (Nat × Nat) × State
  | 0, _, n, s => (n, none, s)
  | k + 1, buf, n, s =>
    match s.host.imp with
    | none => (n, none, s)
    | some im =>
      if buf.isEmpty || im.phase = 2 then (n, none, s)
      else match (if im.helloDone then s.loadRecord im buf else s.loadHello im peer buf) with
      | .error e => (n, some e, s)
      | .ok (u, s1) => State.loadAll peer k (buf.drop u) (n + u) s1

/-! ### IMPORT (R497, R499, R501) -/

/-- No open domain, no loaded set, no handle (R497). -/
def State.partEmpty (s : State) (p : Nat) : Bool :=
  let x := s.part p
  x.state == .active && x.sets.isEmpty && !s.dir.domains.any (fun d => x.hasDomain d.1 && d.2.open_) &&
  !s.dir.entries.any (fun e => e.2.part == p && e.2.state != .free)

/-- The ticket but for its signature (Table 13.13). -/
def State.ticket (s : State) (p nonce : Nat) (pub : List Byte) : List Byte × State :=
  let h := s.migHeader p nonce
  (ascii "JLMT" ++ leBytes 1 s.recLevel ++ leBytes 3 0 ++ leBytes 4 s.vault.chain.length ++ leBytes 4 0 ++ pub ++ h.1 ++ s.firmwareSection ++
    (s.part p).reportSection p ++ pad8 s.vault.chain, h.2)

/-- IMPORT_PREPARE. -/
def execImportPrepare (j : JobRef) (s : State) : Host.Outcome State Fault Refusal :=
  .next <| match s.due j 0x31 with
  | none => s
  | some c =>
    if c.param 0x20 1 ≠ 1 then s
    else if s.host.imp.isSome then s.finish j stSlotBusy
    else if !s.partEmpty c.part then s.finish j stAborted migFail
    else
      let k := s.ecdhe
      let n := k.2.2.draw 256
      let t := n.2.ticket c.part n.1.toNat k.2.1
      let g := t.2.akSign (sha384 t.1)
      let out := t.1 ++ g.1
      if c.param 0x24 4 < out.length then s.finish j stAborted migFail
      else if !s.hostOk (c.param 0x28 8) out.length then s.finish j stAborted 0x51
      else
        let s1 := (g.2.hostWrite (c.param 0x28 8) out).modPart c.part (fun x => { x with importing := true })
        let x := s.part c.part
        ({ s1 with host := { s1.host with imp := some { part := c.part, phase := 1, nonce := leBytes 32 n.1.toNat, priv := k.1, meas := x.meas
                                                        bufs := x.ctxs.map (fun (c : Ctx) => (c.bufBase, c.bufLines)) } } }.finish j stOk).modCmd j
          (fun c => { c with res0 := out.length })

/-- The import that command `c` serves. -/
def State.importFor (s : State) (c : Cmd) (phase : Nat) : Option Import := s.host.imp.filter (fun im => im.part == c.part && im.phase == phase)

/-- IMPORT_LOAD: records before a refused one stay placed. -/
def execImportLoad (j : JobRef) (peer : PeerCheck) (s : State) : Host.Outcome State Fault Refusal :=
  .next <| match s.due j 0x31 with
  | none => s
  | some c =>
    if c.param 0x20 1 ≠ 2 then s
    else if (s.importFor c 1).isNone then s.finish j stAborted migFail
    else match s.hostRead (c.param 0x28 8) (c.param 0x24 4) with
    | none => s.finish j stAborted 0x51
    | some buf =>
      let r := State.loadAll peer (buf.length / 64 + 1) buf 0 s
      let s1 := match r.2.1 with
        | some e => r.2.2.finish j e.1 e.2
        | none => r.2.2.finish j stOk
      s1.modCmd j (fun c => { c with res0 := r.1 })

/-- The contexts that came RESIDENT are restored into their slots (R382); every other context is swapped out. -/
def State.settleCtxs (s : State) (im : Import) : State :=
  let p := im.part
  let part := s.part p
  let s1 := im.resident.foldl (fun (s : State) r =>
    let img := (part.ctxs.getD r.1 {}).image.getD {}
    let shares := slotShares part.s r.2
    part.tiles.zipIdx.foldl (fun (s : State) x => s.modTile x.1 (fun t =>
      let t1 := shares.zipIdx.foldl (fun t y => s.restoreShare t y.1 (mget {} img.shares (16 * x.2 + y.2))) t
      s.restoreTctx t1 r.1 img x.2 shares)) s) s
  s1.modPart p (fun y => { y with ctxs := y.ctxs.mapIdx (fun i c => match im.resident.find? (fun r => r.1 == i) with
    | some r => { c with res := .resident, slot := r.2 }
    | none => { c with res := .swapped, slot := 0 }) })

/-- IMPORT_FINISH: needs END and a valid token; the partition then runs. -/
def execImportFinish (j : JobRef) (s : State) : Host.Outcome State Fault Refusal :=
  .next <| match s.due j 0x31 with
  | none => s
  | some c =>
    if c.param 0x20 1 ≠ 3 then s
    else match s.importFor c 2 with
    | none => s.finish j stAborted migFail
    | some im => match s.hostRead (c.param 0x30 8) 48 with
      | none => s.finish j stAborted 0x51
      | some tok =>
        if tok ≠ releaseToken im.prk im.nonce im.endSeq then s.finish j stAborted migFail
        else
          let s1 := (s.settleCtxs im).modPart im.part (fun x => { x with importing := false })
          ({ s1 with host := { s1.host with imp := none } }.finish j stOk).resched im.part

/-- IMPORT_CANCEL: steps 4 and 5 of Table 10.9 leave the partition ACTIVE and empty. -/
def execImportCancel (j : JobRef) (s : State) : Host.Outcome State Fault Refusal :=
  .next <| match s.due j 0x31 with
  | none => s
  | some c =>
    if c.param 0x20 1 ≠ 4 then s
    else match s.host.imp with
    | none => s.finish j stAlreadyDone
    | some im =>
      if im.part ≠ c.part then s.finish j stAborted migFail
      else
        let s1 := ((s.emptyPart im.part).scrubPart im.part).modPart im.part (fun x => { x with
          meas := im.meas
          ctxs := (initCtxs s.now x.cRes x.pinned [] x.ctxCount).zip im.bufs |>.map (fun (c : Ctx × (Nat × Nat)) => { c.1 with bufBase := c.2.1, bufLines := c.2.2 }) })
        { s1 with host := { s1.host with imp := none } }.finish j stOk

end Sys2Proof.Machine
end

