-- ==== Sys2Proof/Machine/Regs.lean ====
section
/-! DEFINITION. Reading registers: the map of chapter 18, and what every register reads. -/

namespace Sys2Proof.Machine

/-! ### The map (R478, R622, R623) -/

/-- Where an offset of PF BAR0 lies: a block or window, and the offset inside it. -/
inductive Place where
  | glb (o : Nat)
  | clk (o : Nat)
  | sdg (o : Nat)
  | roo (o : Nat)
  | tri (o : Nat)
  | jan (p o : Nat)
  | mul (o : Nat)
  | par (o : Nat)
  | hbm (k o : Nat)
  | quad (q o : Nat)
  | tile (t : TileId) (o : Nat)
  | none
  deriving DecidableEq, Repr

/-- The place of an offset of PF BAR0 (R623). -/
def place (a : Nat) : Place :=
  let o := a % 0x100000
  match a / 0x100000 with
  | 0 => .glb o
  | 1 => .clk o
  | 2 => .sdg o
  | 3 => .roo o
  | 4 => .tri o
  | 5 => .jan (o / 0x10000) (o % 0x10000)
  | 6 => .mul o
  | 7 => .par o
  | 8 => if o < 0x80000 then .hbm (o / 0x10000) (o % 0x10000) else .none
  | _ =>
    let r := a - 0x1000000
    let w := r % 0x400000
    if a < 0x1000000 || 0x3000000 ≤ a then .none
    else if w < 0x200000 then .quad (r / 0x400000) w
    else .tile ⟨r / 0x400000, (w - 0x200000) / 0x10000⟩ (w % 0x10000)

/-- Blocks that answer before READY (R604). -/
def Place.early : Place → Bool
  | .glb _ | .clk _ | .roo _ | .tri _ => true
  | _ => false

/-- The PAR block. -/
def Place.isPar : Place → Bool
  | .par _ => true
  | _ => false

/-- Blocks whose access leaves L2 (R584). -/
def Place.wakes : Place → Bool
  | .quad _ _ | .tile _ _ | .par _ | .mul _ | .hbm _ _ => true
  | _ => false

/-- A stretch of consecutive registers: the first offset, their number, and what each reads. -/
structure Bank where
  base : Nat
  count : Nat
  word : Nat → Nat

/-- One register. -/
def one (o v : Nat) : Bank := ⟨o, 1, fun _ => v⟩

/-- Consecutive registers with their values. -/
def run (o : Nat) (vs : List Nat) : Bank := ⟨o, vs.length, fun i => vs.getD i 0⟩

/-- The counters of a table. -/
def ctrs (o : Nat) (vs : List Word32) : Bank := run o (vs.map BitVec.toNat)

/-- What offset `o` reads: zero where no line of the index names it (R622). -/
def look (bs : List Bank) (o : Nat) : Nat :=
  match bs.find? (fun b => decide (b.base ≤ o) && decide (o < b.base + 4 * b.count)) with
  | some b => b.word ((o - b.base) / 4)
  | none => 0

/-- Low and high words of a 64-bit value. -/
def lo32 (v : Nat) : Nat := v % 2 ^ 32
def hi32 (v : Nat) : Nat := v / 2 ^ 32 % 2 ^ 32

/-- A word of flags, bit `b` for item `b`. -/
def flags (n : Nat) (f : Nat → Bool) : Nat := maskOf ((List.range n).filter f)

/-! ### GLB (chapters 1, 2, 13, 14, 17) -/

/-- STATE of GLB_BS_STATUS. -/
def BsState.code : BsState → Nat
  | .notLoaded => 0
  | .loading => 1
  | .loaded => 2
  | .refused => 3

/-- GLB_NVM_STATUS (Table 17.12). -/
def State.nvmStatus (s : State) : Nat :=
  let newest (p : Copy × Copy) : Nat := if selectCopy p.1 p.2 = some 1 then 1 else 0
  b2n (s.host.cmds.any (fun c => c.op == 0x32 && c.phase != .final)) * 2 ^ 31 + s.start.structSrc * 64 +
    s.start.settingsSrc * 16 + newest s.nvm.structs * 8 + newest s.nvm.settings * 4

/-- GLB_MIG_STATUS (Table 13.17). -/
def State.migStatus (s : State) : Nat :=
  (match s.host.exp with
    | some e => e.phase * 2 ^ 28 + e.part * 2 ^ 16
    | none => 0) +
  (match s.host.imp with
    | some e => e.phase * 2 ^ 24 + e.part * 2 ^ 8
    | none => 0)

/-- The GLB block. -/
def State.glbReg (s : State) (o : Nat) : Nat :=
  let loaded := s.glb.bsState == .loaded
  let h := s.host
  look [
    run 0x000 [s.glbId, 2, s.glb.level + 256 * b2n s.glb.locked],
    run 0x010 [0x08200810, 0x100C0CFF, 0x08080FFF],
    run 0x040 [0x100, s.glb.bsState.code * 2 ^ 30 + (if s.glb.bsState = .refused then s.glb.bsReason * 2 ^ 16 else 0) + s.glb.bsFrame,
      if loaded then lo32 s.glb.cfg.build else 0, if loaded then hi32 s.glb.cfg.build else 0,
      if loaded then s.glb.cfg.quadEnable else 0],
    ⟨0x080, 12, fun i => if loaded then fieldAt (digestBytes s.glb.cfg.digest) (4 * i) 4 else 0⟩,
    run 0x100 [s.start.result * 2 ^ 30 + s.start.cause * 2 ^ 16 + s.start.detail * 2 ^ 8 + s.start.stage, s.start.us, s.start.count],
    one 0x110 s.nvmStatus,
    run 0x114 s.nvm.writes,
    one 0x124 s.start.logSel,
    run 0x200 [b2n h.ide * 2 ^ 11 + b2n h.flit * 2 ^ 10 + h.width * 16 + h.speed, b2n h.freeze],
    ctrs 0x208 [h.subword, h.accepted, h.refused, h.abortLate],
    one 0x220 s.migStatus,
    run 0x300 [lo32 s.orbit.val, hi32 s.orbit.val, lo32 s.orbit.cap, hi32 s.orbit.cap,
      b2n s.orbit.capValid * 2 ^ 31 + b2n s.orbit.overrun * 2 ^ 30 + b2n s.jan.synced * 2 ^ 29],
    ⟨0x400, 64, fun i => fieldAt (s.nvm.logEntry s.start.logSel) (4 * i) 4⟩] o

/-! ### CLK/PWR (chapters 15, 16) -/

/-- CLK_DOMn_STATUS (Table 16.8). -/
def State.domStatus (s : State) (n : Nat) : Nat :=
  let d := s.clkDom n
  let div := if d.cur = 2 then 1 else if d.cur = 1 then (if n = 4 then 10 else 1)
    else if n = 0 then [4, 5, 6, 8].getD s.clk.cur 4 else [0, 6, 8, 24].getD n 1
  b2n d.running * 2 ^ 31 + b2n d.busy * 2 ^ 30 + d.cur * 2 ^ 28 + d.result * 2 ^ 26 + b2n (n != 4 && s.clk.locked) * 2 ^ 25 +
    b2n s.clk.refOk * 2 ^ 24 + b2n (n == 4) * 2 ^ 23 + div

/-- STATE of CLK_PM_STATUS: L2 is seen while an exit runs. -/
def PmPhase.code : PmPhase → Nat
  | .l2 | .exiting => 2
  | .armed => 3
  | _ => 0

/-- CLK_PWR_STATUS (Table 15.14). -/
def Power.status (p : Power) : Nat :=
  b2n (p.powerCap != 0) * 2 ^ 31 + b2n (p.thermalCap != 0) * 2 ^ 30 + b2n p.inWarn * 2 ^ 29 + p.levelMax * 2 ^ 8 +
    p.thermalCap * 16 + p.powerCap * 4 + max p.powerCap p.thermalCap

/-- The CLK/PWR block. -/
def State.clkReg (s : State) (o : Nat) : Nat :=
  let c := s.clk
  let p := s.pwr
  look [
    run 0x0000 [b2n c.locked * 2 ^ 31 + b2n c.refOk * 2 ^ 30 + b2n c.aclkRc * 2 ^ 29, c.settleN],
    ⟨0x0010, 10, fun i => if i % 2 = 0 then (s.clkDom (i / 2)).src else s.domStatus (i / 2)⟩,
    run 0x0100 [c.req, b2n (c.phase != .idle) * 2 ^ 31 + c.vdd * 2 ^ 16 + s.pTarget * 16 + c.cur, c.changes.toNat],
    run 0x0200 [c.pmTarget, b2n c.pmDone * 2 ^ 31 + b2n s.pmBusy * 2 ^ 30 + c.pm.code * 2 ^ 28 + c.pmResult, c.gate,
      c.exiting * 2 ^ 16 + c.entering * 2 ^ 8 + c.gated],
    run 0x8000 [p.volts, p.amps, p.p1s * 2 ^ 16 + p.p10ms, p.limit, p.status],
    one 0x8020 (p.strapOsc * 16 + p.strapId),
    one 0x8030 p.clkFault.bits,
    ⟨0x8100, 64, fun i => let x := mget {} p.sensors i; x.level * 2 ^ 28 + x.temp⟩] o

/-! ### SDG and ROO (chapter 14) -/

/-- STATE of SDG_SRC_STATEn. -/
def SrcPhase.code : SrcPhase → Nat
  | .inactive => 0
  | .pending => 1
  | .active => 2
  | .activePending => 3

/-- A source that waits for a delivery. -/
def State.srcPending (s : State) (n : Nat) : Bool :=
  (mget {} s.sdg.src n).phase == .pending || (mget {} s.sdg.src n).phase == .activePending

/-- SDG_SRC_CFGn; zero for a source that is not delivered to the PF (R534). -/
def State.srcCfgWord (s : State) (n : Nat) : Nat :=
  let c := mget {} s.sdg.cfg n
  if pfSource n then b2n c.enable * 2 ^ 31 + b2n c.mask.now * 2 ^ 30 + c.vector else 0

/-- The SDG block. -/
def State.sdgReg (s : State) (o : Nat) : Nat :=
  let g := s.sdg
  look [
    one 0x0000 (b2n g.gdis.now * 2 ^ 31 + b2n g.freeze),
    ctrs 0x0010 [g.delivered, g.coalesced, g.window, g.evLost],
    one 0x0020 (Config.vfVectorPool - (s.parts.map (fun p => p.2.vectors)).sum),
    ⟨0x0100, 32, fun n => flags 32 (fun b => s.srcPending (32 * n + b))⟩,
    ⟨0x1000, 1024, fun n => s.srcCfgWord n⟩,
    ⟨0x2000, 1024, fun n => let x := mget {} g.src n; x.phase.code * 2 ^ 30 + x.coalesced⟩] o

/-- The ROO block. -/
def State.rooReg (s : State) (o : Nat) : Nat :=
  let r := s.roo
  look [
    run 0x0000 [b2n r.wakeNEn, r.timer, b2n r.wakeValid * 2 ^ 31 + r.wakeSource],
    run 0x0010 [lo32 r.sleep, hi32 r.sleep],
    ⟨0x0100, 32, fun n => let w := mget (false, 0) r.watch n; b2n w.1 * 2 ^ 31 + w.2⟩] o

/-! ### TRI (chapter 11) -/

/-- The TRI block. -/
def State.triReg (s : State) (o : Nat) : Nat :=
  let t := s.tri
  look [
    run 0x0000 [b2n t.ready * 2 ^ 31 + b2n t.lcBusy * 2 ^ 30 + t.debug * 2 ^ 8 + (if t.lcShown then s.lc else 0), s.fuseState],
    ⟨0x0010, 4, fun i => fieldAt (leBytes 16 s.fuses.uid) (4 * i) 4⟩,
    run 0x0020 [t.toState, b2n t.lcDone * 2 ^ 31 + t.lcResult, lo32 t.token, hi32 t.token],
    run 0x0100 [t.mbxVf * 2 ^ 12 + t.mbxLen, b2n t.mbxBusy * 2 ^ 31 + b2n t.mbxDone * 2 ^ 30 + t.mbxResp],
    one 0x0200 (b2n t.freeze),
    ctrs 0x0204 [t.sessionsCtr, t.opens, t.closes, t.sigFails, t.reports, t.refusedCtr],
    ⟨0x1000, 1024, fun i => Mem.readLe t.mbxIn (4 * i) 4⟩,
    ⟨0x2000, 1024, fun i => Mem.readLe t.mbxOut (4 * i) 4⟩] o

/-! ### JAN (chapter 12) -/

/-- STATE of JAN_PORT_STATUS (Table 12.14). -/
def PortState.code : PortState → Nat
  | .off => 0
  | .calibrating => 1
  | .training => 2
  | .noPeer => 3
  | .attesting => 4
  | .keys => 5
  | .up => 6
  | .attestFailed => 7

/-- JAN_ROUTEn is LOCKED while the session to peer n is open (R450, R475). -/
def State.routeLocked (s : State) (n : Nat) : Bool := (s.sess n).state != 0

/-- JAN_ROUTEn (Table 12.21). -/
def State.routeWord (s : State) (n : Nat) : Nat :=
  let r := s.route n
  b2n r.valid * 2 ^ 31 + b2n (s.routeLocked n) * 2 ^ 30 + (s.sess n).state * 2 ^ 24 + r.mask

/-- Credits of the JANUS pool not carved. -/
def State.janPool (s : State) : Nat := Config.janusPool - (s.parts.map (fun p => p.2.credits)).sum

/-- JAN_ORBIT (R473). -/
def State.janOrbit (s : State) : Nat :=
  b2n (s.glb.cfg.role == 2) * 2 ^ 31 + b2n s.jan.synced * 2 ^ 30 + s.jan.parent * 2 ^ 24 + s.jan.dist * 2 ^ 16 + uint 16 s.jan.offset

/-- A port window of the JAN block; the device's registers lie in port 0's. -/
def State.janReg (s : State) (p o : Nat) : Nat :=
  let x := s.port p
  let j := s.jan
  let port := [
    run 0x0000 [x.state.code * 2 ^ 28 + b2n x.synced * 2 ^ 27 + x.lastCause * 2 ^ 16 + x.peer, x.rtt, b2n x.freeze],
    ⟨0x0010, 8, fun i => let l := mget (false, 0, 0) x.lanes i; b2n l.1 * 2 ^ 31 + l.2.1 * 2 ^ 16 + l.2.2⟩,
    ctrs 0x0040 x.ctr]
  look (if p = 0 then port ++ [
    run 0x8000 [b2n j.freeze, s.janPool],
    run 0x8010 [j.arg0, j.arg1, j.arg2, j.op * 2 ^ 16 + j.bindingArg, b2n j.done * 2 ^ 31 + j.result * 2 ^ 16 + j.number, j.sel,
      (s.bind j.sel).info],
    one 0x8030 s.janOrbit,
    ctrs 0x8040 j.ctr,
    ⟨0xC000, 4096, fun n => s.routeWord n⟩] else port) o

/-! ### MUL, PAR and HBM (chapters 6 to 10) -/

/-- Rings with an unreleased buffer. -/
def Ring.active (r : Ring) : Bool := r.fills.any (fun f => f.started || f.done)

/-- MUL_STATUS.ACTIVE_RINGS. -/
def State.activeRings (s : State) : Nat :=
  (s.parts.map (fun e => (e.2.tiles.map (fun tl => ((s.tile tl).ctxs.filter (fun c =>
    (e.2.ctxs.getD c.1 {}).res == .resident && (match c.2.ring with
      | some r => r.active
      | none => false))).length)).sum)).sum

/-- MULE's counters of a quadrant (Table 7.9). -/
def MulQ.words (m : MulQ) : List Word32 := [m.stack, m.peer, m.host, m.stallCycles, m.stalls, m.gatherFail, m.barrierWaits]

/-- The MUL block. -/
def State.mulReg (s : State) (o : Nat) : Nat :=
  let m := s.mul
  look ([
    run 0x0000 [b2n m.freeze, b2n s.hostTierOn * 2 ^ 17 + b2n s.glb.cfg.peerTier * 2 ^ 16 + s.activeRings, m.timeout],
    one 0x0010 (b2n m.patchActive * 2 ^ 31 + m.patchPhase * 2 ^ 29 + m.patchSet * 2 ^ 27 + m.patchLayer * 2 ^ 12 + m.patchPart)] ++
    (List.range 8).map (fun q => ctrs (0x100 + 0x20 * q) (s.quad q).mul.words)) o

/-- PAR_INFO (Table 10.13) and PAR_INFO_CTX (R400). -/
def Part.info (x : Part) : List Nat :=
  [x.state.code * 2 ^ 29 + x.mode * 2 ^ 28 + x.s * 2 ^ 23 + x.resv * 2 ^ 18 + x.prioMax * 2 ^ 15 + (x.quads.length - 1) * 2 ^ 12 +
      b2n x.vf.isSome * 2 ^ 8 + x.vf.getD 0,
    x.ctxBase * 2 ^ 16 + x.ctxCount]

/-- STATE of PAR_TRAIN_SLOT (Table 9.1). -/
def TrState.code : TrState → Nat
  | .clean => 0
  | .accumulating => 1
  | .committing => 2
  | .inDoubt => 3

/-- PAR_TRAIN_SLOT, SEQ and GROUP (R363, R364). -/
def TrSlot.words (t : TrSlot) : List Nat :=
  [t.state.code * 2 ^ 28 + b2n t.partialG * 2 ^ 27 + t.gradFmt * 2 ^ 26 + t.list.length * 2 ^ 16 + t.micro, t.seq.toNat, t.group]

/-- PAR_POOL0 and PAR_POOL1 (Table 10.12), over enabled quadrants. -/
def State.poolWords (s : State) : List Nat :=
  let qs := (List.range 8).filter (fun q => bitOf s.glb.cfg.quadEnable q)
  let tiles := (qs.map (fun q => ((List.range 32).filter (fun t => s.tileFree q t)).length)).sum
  let frees := 256 - (s.parts.filter (fun p => p.2.state != .free)).length
  [tiles * 2 ^ 16 + frees, (qs.map (fun q => (s.freePchs q).length)).sum * 2 ^ 16 + (qs.map (fun q => (s.freeWays q).length)).sum]

/-- Handles in a state that `f` accepts. -/
def State.handleCount (s : State) (f : HState → Bool) : Nat := (s.dir.entries.filter (fun e => f e.2.state)).length

/-- The PAR block. -/
def State.parReg (s : State) (o : Nat) : Nat :=
  let p := s.par
  let d := s.dir
  let t := s.train
  look [
    run 0x0000 [b2n p.busy.isSome * 2 ^ 30 + p.op * 2 ^ 16 + p.part, b2n p.done * 2 ^ 31 + p.lq * 2 ^ 8 + p.result, lo32 p.addr, hi32 p.addr],
    ⟨0x0010, 2, fun i => s.poolWords.getD i 0⟩,
    run 0x0020 (p.sel :: p.snap),
    one 0x0030 p.block,
    one 0x003C (b2n p.freeze),
    ctrs 0x0040 [p.swapFree, p.swapPrio, p.swapBlocked, p.scrubs, p.disables, p.disabledJobs],
    run 0x80000 [b2n d.freeze, s.handleCount (· != .free), s.handleCount (· == .retiring), d.sel],
    run 0x80010 d.snap,
    ctrs 0x80020 [d.registered, d.evicted, d.reissued, d.slotBusy, d.staleDrop, d.rowsAccepted, d.rowsVoid],
    run 0x90000 ([b2n t.freeze, t.timeout, t.sel] ++ t.snap),
    ctrs 0x90020 [t.commits, t.rollbacks, t.inDoubt, t.frozen, t.spills, t.drops, t.replays]] o

/-- STATE of HBM_STATUS. -/
def HbmState.code : HbmState → Nat
  | .notTrained => 0
  | .wiping => 1
  | .ready => 2
  | .failed => 3

/-- HBM_STATUS.TEMP: whole degrees, unsigned (R243). -/
def Stack.celsius (k : Stack) : Nat := min 255 ((sint 16 k.temp).tdiv 8).toNat

/-- A stack window of the HBM block. -/
def State.hbmReg (s : State) (k o : Nat) : Nat :=
  let h := s.stack k
  look [
    one 0x0000 (h.state.code * 2 ^ 30 + h.celsius),
    ⟨0x0100, 64, fun n => match s.pchOwner k n with
      | some p => 2 ^ 31 + p
      | none => 0⟩,
    ctrs 0x0400 [h.ce, h.ue],
    run 0x0408 [b2n h.scrubEnable * 2 ^ 31 + h.scrubPeriod, h.passes.toNat, (h.zeroFill.map (fun e => e.2.length)).sum, b2n h.freeze],
    ⟨0x1000, 1152, fun n => flags 32 (fun b => mget false h.dirty (32 * n + b))⟩] o

/-! ### Quadrant windows (chapters 3, 5, 6, 9, 14) -/

/-- QD_SAT registers of an entry (R122 to R125). -/
def SatEntry.words (e : SatEntry) : List Nat :=
  [if e.valid then e.tensor else 0, b2n e.valid * 2 ^ 31 + b2n e.drift * 2 ^ 30 + e.part * 2 ^ 16, e.count, e.total]

/-- QD_QB_WAYw (Table 6.14). -/
def State.wayWord (s : State) (q w : Nat) : Nat :=
  let mode (p : Nat) : Nat := if (s.part p).quads.any (fun k => k.pq == q && k.waysCache.contains w) then 1 else 0
  match s.wayOwner q w with
  | some p => 2 ^ 31 + (if (s.quad q).qb.scrubbing.contains w then 2 else mode p) * 2 ^ 8 + p
  | none => if (s.quad q).qb.scrubbing.contains w then 2 * 2 ^ 8 else 0

/-- Partitions of a quadrant with an update that `f` accepts. -/
def State.upuParts (s : State) (q : Nat) (f : Commit → Bool) : List Nat :=
  (s.parts.filter (fun p => (p.2.quads.any (fun k => k.pq == q)) && (List.range 16).any (fun k => match (s.slot p.1 k).commit with
    | some c => f c
    | none => false))).map Prod.fst

/-- UPU_STATUS (Table 9.15). -/
def State.upuStatus (s : State) (q : Nat) : Nat :=
  b2n (!(s.upuParts q (fun c => c.updating)).isEmpty) * 2 ^ 31 + (s.quad q).upu.part * 2 ^ 8 +
    min 0xFF (s.upuParts q (fun c => c.phase == .update && !c.updating)).length

/-- The registers of a quadrant window. -/
def State.quadReg (s : State) (q o : Nat) : Nat :=
  let x := s.quad q
  let u := x.upu
  look [
    ⟨0x4000, 256, fun i => (mget {} x.sat (i / 4)).words.getD (i % 4) 0⟩,
    one 0x4400 x.untracked,
    ctrs 0x4800 [x.seedRuns, x.seedDegenerate],
    ⟨0x5000, 16, fun w => s.wayWord q w⟩,
    ctrs 0x5040 [x.qb.ce, x.qb.ue, x.qb.atomics, x.qb.hits, x.qb.misses],
    one 0x5060 (b2n x.qb.freeze),
    run 0x6000 [b2n u.freeze, s.upuStatus q],
    ctrs 0x6010 [u.elements, u.busy, u.adds, u.nonfinite, u.sat, u.rsqrtZero],
    run 0x7000 [x.cc.entries.length, x.cc.bpCycles.toNat, b2n x.cc.freeze]] o

/-! ### Tile windows (chapters 2 to 7) -/

/-- What TILE_CFG_SLOTMAP shows of a slot. -/
def CfgSlot.word (c : CfgSlot) : Nat := if c.valid || c.filling then c.set * 256 + c.id else 0

/-- The parts of a context that hold entries of its chain: from its lowest-numbered part on (R143, R157). -/
def Chain.parts (c : Chain) (shares : List Nat) : List Nat :=
  shares.take (ceilDiv (c.m * c.n * (if c.outlier || c.escape then 2 else 1)) 256)

/-- TILE_MX_TREG (Table 4.6): the parts of open chains, and of those that hold a poisoned row. -/
def State.tregWord (s : State) (t : TileId) : Nat :=
  match s.ownerOf t with
  | none => 0
  | some p =>
    let parts (f : Chain → Bool) : List Nat := (s.tile t).ctxs.flatMap (fun c => match c.2.chain with
      | some h => if f h && ((s.part p).ctxs.getD c.1 {}).res == .resident then h.parts ((s.part p).sharesOf c.1) else []
      | none => [])
    maskOf (parts (fun h => !h.poisoned.isEmpty)) * 2 ^ 16 + maskOf (parts (fun _ => true))

/-- Code of a bank's mode (Table 6.9). -/
def BankMode.code : BankMode → Nat
  | .on => 0
  | .retention => 1
  | .off => 2
  | .zeroFill => 3

/-- TILE_SP_PWRn. -/
def State.bankPwr (s : State) (tl : TileId) (n : Nat) : Nat :=
  ((List.range 16).map (fun b => (s.bankMode tl (16 * n + b)).code * 4 ^ b)).sum

/-- TILE_MUL_RINGc (Table 7.10) of a ring. -/
def Ring.word (r : Ring) : Nat :=
  let live := r.fills.filter (fun f => f.started || f.done)
  let head := match r.fills.head? with
    | some f => f.num % max 1 r.nbuf
    | none => 0
  b2n r.active * 2 ^ 31 + r.nbuf * 2 ^ 8 + (live.filter (fun f => f.done)).length * 16 + b2n (live.any (fun f => f.started && !f.done)) * 8 + head

/-- The ring of the context in resident slot `c`. -/
def State.ringWord (s : State) (t : TileId) (c : Nat) : Nat :=
  match s.ownerOf t with
  | none => 0
  | some p => match (s.part p).ctxs.zipIdx.find? (fun x => x.1.res != .swapped && x.1.slot == c) with
    | none => 0
    | some x => match s.ringOf t x.2 with
      | some r => r.word
      | none => 0

/-- TILE_SP_UE_LOC (Table 6.13). -/
def Scratch.ueLoc (x : Scratch) : Nat :=
  b2n x.ueValid * 2 ^ 31 + b2n x.ueMeta * 2 ^ 30 + x.ueBank * 2 ^ 15 + x.ueRow

/-- The registers of a tile window. -/
def State.tileReg (s : State) (t : TileId) (o : Nat) : Nat :=
  let x := s.tile t
  let m := x.mx
  let v := x.vxu
  let c := x.scratch
  let slotBits (f : CfgSlot → Bool) : Nat := flags 8 (fun i => f (x.slots.getD i {}))
  look [
    one 0x0000 (slotBits CfgSlot.filling * 2 ^ 16 + slotBits CfgSlot.valid * 2 ^ 8 + b2n x.running.isSome * 8 + x.current.getD 0),
    ⟨0x0004, 4, fun n => (x.slots.getD (2 * n + 1) {}).word * 2 ^ 16 + (x.slots.getD (2 * n) {}).word⟩,
    ctrs 0x0020 [x.switches, x.fills, x.fillWait],
    one 0x0030 x.escFaults.toNat,
    ctrs 0x0100 [m.slices, m.busy, m.compute, m.idle, m.poison, m.sideDrop, m.gathers, m.coalesced, m.chainBreak],
    ⟨0x0124, 1, fun _ => s.tregWord t⟩,
    one 0x0128 (b2n m.freeze),
    one 0x0200 (b2n v.test * 4 + b2n v.freeze),
    ctrs 0x0204 [v.uops, v.busy, v.invalid, v.sat],
    run 0x0220 [v.flags, v.uopLo.toNat, v.uopHi.toNat, b2n v.goBusy * 4 + b2n v.error * 2 + b2n v.done],
    run 0x0300 [s.bankPwr t 0, s.bankPwr t 1, mget 0 s.fuses.repair (tileSource t)],
    ctrs 0x0310 [c.ce, c.ue, c.collides, c.partialClear, c.atomics, c.rangeDrops],
    run 0x0328 [b2n c.freeze, c.ueLoc],
    one 0x0400 x.mulStall.toNat,
    ⟨0x0410, 8, fun i => s.ringWord t i⟩] o

/-! ### VF BAR0 and PF BAR2 (Table 13.2) -/

/-- STATE of PAR_VF_QSTATq. -/
def QState.code : QState → Nat
  | .off => 0
  | .running => 1
  | .draining => 2
  | .error => 3

/-- STATE of SDG_VF_EVR_STAT. -/
def RingState.code : RingState → Nat
  | .off => 0
  | .running => 1
  | .error => 3

/-- The registers of one queue (Table 13.5). -/
def Queue.words (x : Queue) : List Nat :=
  [lo32 x.sq, hi32 x.sq, lo32 x.cq, hi32 x.cq,
    b2n x.enable * 2 ^ 31 + x.sizeLog2 * 2 ^ 24 + x.context * 2 ^ 12 + b2n x.irqEn * 2 ^ 11 + x.vector,
    x.state.code * 2 ^ 30 + x.epoch * 2 ^ 20 + x.err * 2 ^ 16 + x.sqHead, x.outstanding]

/-- The partition bound to a VF; none for the PF. -/
def State.partOfFn (s : State) : Fn → Option Nat
  | .pf => none
  | .vf v => s.partOfVf v

/-- RES code (Table 10.1). -/
def Res.code : Res → Nat
  | .resident => 0
  | .swapped => 1
  | .saving => 2
  | .restoring => 3

/-- An entry of the context table (Table 10.16). -/
def State.ctxWords (s : State) (p i : Nat) : List Nat :=
  let x := s.part p
  if x.ctxCount ≤ i then []
  else
    let c := x.ctxs.getD i {}
    [c.prioNext.getD c.prio, c.res.code * 2 ^ 30 + s.act p i * 2 ^ 28 + b2n (decide (i < x.pinned)) * 2 ^ 27 + (if c.res = .swapped then 0 else c.slot * 2 ^ 24),
      c.bufBase, c.bufLines]

/-- The event ring registers (Table 14.9); HEAD and EOI read zero. -/
def EventRing.words (r : EventRing) : List Nat :=
  [lo32 r.addr, hi32 r.addr, b2n r.enable * 2 ^ 31 + r.sizeLog2 * 2 ^ 24 + b2n r.irqEn * 2 ^ 11 + r.vector, r.codes.toNat,
    r.state.code * 2 ^ 30 + r.tail, 0, 0, r.lost.toNat]

/-- An MSI-X table entry: address, data, vector control. An entry the function lacks reads zero (R532). -/
def State.msixWords (s : State) (fn : Fn) (v : Nat) : List Nat :=
  let e := s.msixEntry fn v
  if s.vectorsOf fn ≤ v then [] else [lo32 e.addr, hi32 e.addr, e.data, b2n e.mask.now]

/-- Is the pending bit of a vector set (R521, R522)? -/
def State.pbaBit (s : State) (fn : Fn) (v : Nat) : Bool :=
  s.sdg.held.contains (fnKey fn, v) ||
    (s.vecMasked fn v s.now && s.sdg.src.any (fun e => e.2.phase == .pending && s.target e.1 == some (fn, v)))

/-- A function's window: VF BAR0, or PF BAR2, in which the context table and the partition status are reserved. -/
def State.fnReg (s : State) (fn : Fn) (o : Nat) : Nat :=
  look [
    ⟨0x00000, 1024, fun i => (s.queue fn (i / 16)).words.getD (i % 16) 0⟩,
    one 0x01000 (0x4000 + s.glb.level),
    ⟨0x80000, 16384, fun i => match s.partOfFn fn with
      | some p => (s.ctxWords p (i / 4)).getD (i % 4) 0
      | none => 0⟩,
    ⟨0xC0000, 1, fun _ => match s.partOfFn fn with
      | some p => (s.part p).vfStatus
      | none => 0⟩,
    run 0xD0000 (s.ring fn).words,
    ⟨0xE0000, 8192, fun i => (s.msixWords fn (i / 4)).getD (i % 4) 0⟩,
    ⟨0xF0000, 64, fun n => flags 32 (fun b => s.pbaBit fn (32 * n + b))⟩] o

/-- Message Control of the function's MSI-X capability: Enable, Function Mask and Table Size (R532). -/
def State.msixControl (s : State) (fn : Fn) : Nat :=
  2 ^ 15 + b2n (mget {} s.host.fmask (fnKey fn)).now * 2 ^ 14 + (s.vectorsOf fn - 1)

/-- A place of PF BAR0 as it reads. -/
def State.placeReg (s : State) : Place → Nat
  | .glb o => s.glbReg o
  | .clk o => s.clkReg o
  | .sdg o => s.sdgReg o
  | .roo o => s.rooReg o
  | .tri o => s.triReg o
  | .jan p o => s.janReg p o
  | .mul o => s.mulReg o
  | .par o => s.parReg o
  | .hbm k o => s.hbmReg k o
  | .quad q o => s.quadReg q o
  | .tile t o => s.tileReg t o
  | .none => 0

/-- Is this function's access to PF BAR0? -/
def isBar0 (fn : Fn) (sp : Space) : Bool := fn == .pf && sp == .bar0

/-- Does the function have that BAR (R478)? -/
def hasSpace (fn : Fn) (sp : Space) : Bool := fn == .pf || sp != .bar2

/-- A register's value at a 4-byte-aligned offset. Before READY the blocks that R604 closes read zero. -/
def State.reg (s : State) (fn : Fn) (sp : Space) (off : Nat) : Nat :=
  if sp = .msixCtl then (if off = 0 then s.msixControl fn else 0)
  else if isBar0 fn sp then
    let p := place off
    if s.isReady || p.early || (s.haltServed && p.isPar) then s.placeReg p else 0
  else s.fnReg fn off

/-! ### Accesses (R17, R21, R320, R362, R399, R584) -/

/-- Does a read of this offset take a snapshot, which is then shown by it and its companions? -/
def State.snapshot (s : State) (off : Nat) : State :=
  if off = 0x780010 then { s with dir := { s.dir with snap := (s.entry s.dir.sel).words } }
  else if off = 0x79000C then { s with train := { s.train with snap := (s.slot (s.train.sel / 16) (s.train.sel % 16)).words } }
  else if off = 0x700024 then { s with par := { s.par with snap := (s.part s.par.sel).info } }
  else s

/-- Lower registers of the 64-bit pairs of PF BAR0. -/
def isPairLo (off : Nat) : Bool :=
  match place off with
  | .tile _ o => o == 0x224
  | _ => [0x48, 0x300, 0x308, 0x300010, 0x400028, 0x700008].contains off

/-- Lower registers of the 64-bit pairs of a function's window. -/
def isFnPairLo (off : Nat) : Bool :=
  (decide (off < 0x1000) && (off % 0x40 == 0 || off % 0x40 == 8)) || off == 0xD0000

/-- Is this the lower register of a pair that R21 latches? -/
def isLatching (fn : Fn) (sp : Space) (off : Nat) : Bool :=
  if sp = .msixCtl then false else if isBar0 fn sp then isPairLo off else isFnPairLo off

/-- The key of an upper register's latch. -/
def latchKey (fn : Fn) (sp : Space) (off : Nat) : Nat := (fnKey fn * 2 + b2n (isBar0 fn sp)) * 2 ^ 26 + off

/-- Answer a read with data. -/
def State.answerData (s : State) (v : Nat) : State := { s with reply := .data v }

/-- A 32-bit read: an upper register answers a latched half once, and a lower register latches its upper half. -/
def State.read32 (s : State) (fn : Fn) (sp : Space) (off : Nat) : State :=
  let k := latchKey fn sp off
  if decide (4 ≤ off) && isLatching fn sp (off - 4) && mget 0 s.host.latch k != 0 then
    { s with host := { s.host with latch := mset 0 s.host.latch k 0 } }.answerData (mget 0 s.host.latch k - 1)
  else if isLatching fn sp off then
    { s with host := { s.host with latch := mset 0 s.host.latch (latchKey fn sp (off + 4)) (s.reg fn sp (off + 4) + 1) } }.answerData
      (s.reg fn sp off)
  else s.answerData (s.reg fn sp off)

/-- Does an access leave L2? -/
def wakesL2 (fn : Fn) (sp : Space) (off : Nat) : Bool := isBar0 fn sp && (place off).wakes

/-- Is the snapshot's register open to the access? -/
def State.parOpen (s : State) (fn : Fn) (sp : Space) : Bool := isBar0 fn sp && (s.isReady || s.haltServed)

/-- A read of 1, 2, 4 or 8 bytes. One of 1 or 2 bytes has no side effect but that it leaves L2; one of 8 bytes needs
no latch. -/
def State.access (s : State) (fn : Fn) (sp : Space) (off size : Nat) : State :=
  if !s.hostUp || !s.fnLive fn || !hasSpace fn sp then { s with reply := .nack }
  else
    let s1 := if wakesL2 fn sp off then s.l2Wake else s
    let a := off / 4 * 4
    if size < 4 then s1.answerData (s1.reg fn sp a / 256 ^ (off % 4) % 256 ^ size)
    else
      let s2 := if !s1.parOpen fn sp then s1 else if size = 8 then (s1.snapshot a).snapshot (a + 4) else s1.snapshot a
      if size = 8 then s2.answerData (s2.reg fn sp a + s2.reg fn sp (a + 4) * 2 ^ 32) else s2.read32 fn sp a

/-- LATCHED_READ (R17, R21). -/
def execLatchedRead (fn : Fn) (sp : Space) (off size : Nat) (s : State) : Host.Outcome State Fault Refusal :=
  .next (s.access fn sp off size)

/-- ADIR_ENTRY_READ: a read of PAR_ADIR_ENTRY (R320). -/
def execAdirEntryRead (s : State) : Host.Outcome State Fault Refusal := .next (s.access .pf .bar0 0x780010 4)

/-- TRAIN_SLOT_READ: a read of PAR_TRAIN_SLOT (R362). -/
def execTrainSlotRead (s : State) : Host.Outcome State Fault Refusal := .next (s.access .pf .bar0 0x79000C 4)

/-- PAR_INFO_READ: a read of PAR_INFO (R399). -/
def execParInfoRead (s : State) : Host.Outcome State Fault Refusal := .next (s.access .pf .bar0 0x700024 4)

/-- REGISTER_ACCESS_IN_L2: a read of a block that is asleep starts the exit from L2, and is answered (R584). -/
def execRegisterAccessInL2 (sp : Space) (off : Nat) (s : State) : Host.Outcome State Fault Refusal :=
  .next (if (s.clk.pm == .l2 || s.clk.pm == .entering) && wakesL2 .pf sp off then s.access .pf sp off 4 else s)

end Sys2Proof.Machine
end

