-- ==== Sys2Proof/Machine/RegWrite.lean ====
section
/-! DEFINITION. Writing registers: what a write of each register does, by its access codes (R18, R20, R22). -/

namespace Sys2Proof.Machine

/-! ### CLEAR and FREEZE of the control registers -/

/-- CLEAR of the counters of a tile window: TILE_MX_CTRL, VXU_CTRL and TILE_SP_CTRL. A clear re-arms the scratchpad's
thresholds (R202, R208). -/
def Tile.clear (t : Tile) (o : Nat) : Tile :=
  match o with
  | 0x128 => { t with mx := { freeze := t.mx.freeze } }
  | 0x200 => { t with vxu := { t.vxu with uops := 0, busy := 0, invalid := 0, sat := 0 } }
  | 0x328 => { t with scratch := { t.scratch with
      ce := 0, ue := 0, collides := 0, partialClear := 0, atomics := 0, rangeDrops := 0, ceSince := 0, collSeen := false } }
  | _ => t

/-- FREEZE of a tile window's control registers. -/
def Tile.setFreeze (t : Tile) (o : Nat) (b : Bool) : Tile :=
  match o with
  | 0x128 => { t with mx := { t.mx with freeze := b } }
  | 0x200 => { t with vxu := { t.vxu with freeze := b } }
  | 0x328 => { t with scratch := { t.scratch with freeze := b } }
  | _ => t

/-- MUL_CTRL.CLEAR: Table 7.9 and every TILE_MUL_STALL (R275). -/
def State.clearMul (s : State) : State :=
  { s with quads := s.quads.map (fun q => { q with
      mul := {}, tiles := (q.tiles.map (fun t => (t.1, { t.2 with mulStall := 0 }))).filter (fun t => t.2 != {}) }) }

/-- CLEAR of a block control register: its counters become zero. Other places have none. -/
def State.clearAt (s : State) : Place → State
  | .glb 0x204 => { s with host := { s.host with subword := 0, accepted := 0, refused := 0, abortLate := 0 } }
  | .tri 0x200 => { s with tri := { s.tri with sessionsCtr := 0, opens := 0, closes := 0, sigFails := 0, reports := 0, refusedCtr := 0 } }
  | .jan p 0x8 => s.modPort p (fun x => { x with ctr := List.replicate 9 0 })
  | .jan 0 0x8000 => { s with jan := { s.jan with ctr := List.replicate 8 0 } }
  | .mul 0x0 => s.clearMul
  | .par 0x3C => { s with par := { s.par with swapFree := 0, swapPrio := 0, swapBlocked := 0, scrubs := 0, disables := 0, disabledJobs := 0 } }
  | .par 0x80000 => { s with dir := { s.dir with
      registered := 0, evicted := 0, reissued := 0, slotBusy := 0, staleDrop := 0, rowsAccepted := 0, rowsVoid := 0, dropsSince := 0 } }
  | .par 0x90000 => { s with train := { s.train with
      commits := 0, rollbacks := 0, inDoubt := 0, frozen := 0, spills := 0, drops := 0, replays := 0 } }
  | .quad q 0x6000 => s.modQuad q (fun x => { x with upu := { part := x.upu.part, freeze := x.upu.freeze } })
  | .tile t o => s.modTile t (fun x => x.clear o)
  | _ => s

/-- CLEAR of HBM_CTRL or QD_QB_CTRL: the counters become zero, and the ECC events are armed again (R242, R246). -/
def State.clearEcc (s : State) : Place → State
  | .hbm k 0x414 => s.modStack k (fun x => { x with ce := 0, ue := 0, passes := 0, ceSince := 0 })
  | .quad q 0x5060 => s.modQuad q (fun x => { x with qb := { x.qb with ce := 0, ue := 0, atomics := 0, hits := 0, misses := 0, ceSince := 0 } })
  | _ => s

/-- FREEZE of every control register but SDG_CTRL, which GDIS_WRITE sets. -/
def State.freezeAt (s : State) (b : Bool) : Place → State
  | .glb 0x204 => { s with host := { s.host with freeze := b } }
  | .tri 0x200 => { s with tri := { s.tri with freeze := b } }
  | .jan p 0x8 => s.modPort p (fun x => { x with freeze := b })
  | .jan 0 0x8000 => { s with jan := { s.jan with freeze := b } }
  | .mul 0x0 => { s with mul := { s.mul with freeze := b } }
  | .par 0x3C => { s with par := { s.par with freeze := b } }
  | .par 0x80000 => { s with dir := { s.dir with freeze := b } }
  | .par 0x90000 => { s with train := { s.train with freeze := b } }
  | .hbm k 0x414 => s.modStack k (fun x => { x with freeze := b })
  | .quad q 0x5060 => s.modQuad q (fun x => { x with qb := { x.qb with freeze := b } })
  | .quad q 0x6000 => s.modQuad q (fun x => { x with upu := { x.upu with freeze := b } })
  | .quad q 0x7008 => s.modQuad q (fun x => { x with cc := { x.cc with freeze := b } })
  | .tile t o => s.modTile t (fun x => x.setFreeze o b)
  | _ => s

/-- An access of the PF to PF BAR0 at `off`: refused where the block is not on the link, and one that leaves L2. -/
def State.pfWrite (s : State) (off : Nat) (k : State → State) : State :=
  if !s.hostUp then s else k (if wakesL2 .pf .bar0 off then s.l2Wake else s)

/-- COUNTERS_CLEAR: a write of 1 to CLEAR of the control register at `off` of PF BAR0 (R158, R186, R238, R275, R318,
R360, R367, R402, R435, R466, R469, R503). -/
def execCountersClear (off : Nat) (s : State) : Host.Outcome State Fault Refusal :=
  .next (s.pfWrite off (fun s => s.clearAt (place off)))

/-- ECC_COUNTERS_CLEAR (R242, R246). -/
def execEccCountersClear (off : Nat) (s : State) : Host.Outcome State Fault Refusal :=
  .next (s.pfWrite off (fun s => s.clearEcc (place off)))

/-- A write of a control register with CLEAR in bit 1 and FREEZE in bit 0. -/
def State.ctrlWrite (s : State) (p : Place) (v : Nat) : State :=
  let s1 := s.freezeAt (bitOf v 0) p
  if bitOf v 1 then (s1.clearAt p).clearEcc p else s1

/-- ARCH_LEVEL_SELECT: a level the device supports, unless LOCKED (R45). Before READY it acts in the halts of R608
alone (R604). -/
def execArchLevelSelect (value : Nat) (s : State) : Host.Outcome State Fault Refusal :=
  .next <|
    if !s.hostUp || !(s.isReady || s.haltServed) || s.glb.locked || bitsOf value 0 8 != 1 then s
    else { s with glb := { s.glb with level := bitsOf value 0 8 } }

/-! ### Fields -/

/-- A value with its low 32 bits, or its high 32 bits, replaced. -/
def setLo (old v : Nat) : Nat := old / 2 ^ 32 * 2 ^ 32 + v
def setHi (old v : Nat) : Nat := old % 2 ^ 32 + v * 2 ^ 32

/-- Bits [31:n] of a word, the rest zero. -/
def above (n v : Nat) : Nat := v / 2 ^ n * 2 ^ n

/-- Write to the GLB block. -/
def State.glbWrite (s : State) (o v : Nat) : State :=
  match o with
  | 0x008 => reached (execArchLevelSelect v s) s
  | 0x10C => reached (execGlbResetWarm v s) s
  | 0x124 => { s with start := { s.start with logSel := bitsOf v 0 6 } }
  | 0x204 => s.ctrlWrite (.glb o) v
  | 0x310 => { s with orbit := { s.orbit with capValid := s.orbit.capValid && !bitOf v 31, overrun := s.orbit.overrun && !bitOf v 30 } }
  | _ => s

/-- A write of CLK_PM_CTRL: a GO requests TARGET, and D0 leaves L2 (R584, R594). -/
def State.pmWrite (s : State) (v : Nat) : State :=
  let t := bitsOf v 0 2
  if bitOf v 31 then
    if t = 0 then reached (execPmRequestD0 s) s
    else if t = 2 then reached (execPmRequestL2 s) s
    else if t = 3 then reached (execPmRequestL3 s) s
    else s
  else
    let s1 := if t = 0 then s.l2Wake else s
    { s1 with clk := { s1.clk with pmTarget := t } }

/-- Write to the CLK/PWR block. -/
def State.clkWrite (s : State) (o v : Nat) : State :=
  match o with
  | 0x0004 => if inRange 1 128 (bitsOf v 0 8) then { s with clk := { s.clk with settleN := bitsOf v 0 8 } } else s
  | 0x0100 => reached (execPstateRequest v s) s
  | 0x0200 => s.pmWrite v
  | 0x0208 => reached (execQgateWrite v s) s
  | 0x800C => if inRange 300 1500 (bitsOf v 0 16) then { s with pwr := { s.pwr with limit := bitsOf v 0 16 } } else s
  | 0x8030 => reached (execClkFaultClear v s) s
  | _ => if 0x10 ≤ o && o < 0x38 && o % 8 == 0 then reached (execClockSwitch ((o - 0x10) / 8) v s) s else s

/-- Write to the SDG block. -/
def State.sdgWrite (s : State) (o v : Nat) : State :=
  match o with
  | 0x0000 =>
    let s1 := reached (execGdisWrite v s) s
    if bitOf v 1 then reached (execSdgClear s1) s1 else s1
  | 0x0004 => reached (execSdgEoi v s) s
  | _ => if 0x1000 ≤ o && o < 0x2000 then reached (execSrcCfgWrite ((o - 0x1000) / 4) v s) s else s

/-- Write to the ROO block. -/
def State.rooWrite (s : State) (o v : Nat) : State :=
  let n := bitsOf v 0 10
  match o with
  | 0x0000 => { s with roo := { s.roo with wakeNEn := bitOf v 0 } }
  | 0x0004 => { s with roo := { s.roo with timer := v } }
  | 0x0008 => { s with roo := { s.roo with wakeValid := s.roo.wakeValid && !bitOf v 31 } }
  | _ =>
    if 0x100 ≤ o && o < 0x180 && !(bitOf v 31 && !inRange 0x380 0x3BF n) then
      { s with roo := { s.roo with watch := mset (false, 0) s.roo.watch ((o - 0x100) / 4) (bitOf v 31, n) } }
    else s

/-- Write to the TRI block. -/
def State.triWrite (s : State) (o v : Nat) : State :=
  match o with
  | 0x0020 => reached (execLcRequest v s) s
  | 0x0028 => { s with tri := { s.tri with token := setLo s.tri.token (above 6 v) } }
  | 0x002C => { s with tri := { s.tri with token := setHi s.tri.token v } }
  | 0x0100 =>
    let s1 := if bitOf v 30 then reached (execTriMbxAbort v s) s else s
    reached (execTriMbxGo v s1) s1
  | 0x0200 => s.ctrlWrite (.tri o) v
  | _ =>
    if 0x1000 ≤ o && o < 0x2000 then { s with tri := { s.tri with mbxIn := Mem.writeN s.tri.mbxIn (o - 0x1000) (leBytes 4 v) } }
    else if 0x2000 ≤ o && o < 0x3000 then { s with tri := { s.tri with mbxOut := Mem.writeN s.tri.mbxOut (o - 0x2000) (leBytes 4 v) } }
    else s

/-- A write of JAN_BIND_CMD, ignored before READY (R604): a GO starts OP. -/
def State.bindWrite (s : State) (v : Nat) : State :=
  if !s.isReady then s
  else
    let s1 := { s with jan := { s.jan with op := bitsOf v 16 2, bindingArg := bitsOf v 0 14 } }
    if !bitOf v 31 then s1
    else match bitsOf v 16 2 with
      | 1 => reached (execBindOpenPart s1) s1
      | 2 => reached (execBindOpenDomain s1) s1
      | 3 => reached (execBindClose s1) s1
      | _ => s1

/-- A write of JAN_ROUTEn: ignored while LOCKED (R475). -/
def State.routeWrite (s : State) (n v : Nat) : State :=
  if s.routeLocked n then s
  else { s with jan := { s.jan with routes := mset {} s.jan.routes n { valid := bitOf v 31, mask := bitsOf v 0 16 } } }

/-- Write to a port window of the JAN block. -/
def State.janWrite (s : State) (p o v : Nat) : State :=
  if o = 0x8 then
    let s1 := s.ctrlWrite (.jan p o) v
    if bitOf v 2 then reached (execRetrain p s1) s1 else s1
  else if p ≠ 0 then s
  else match o with
    | 0x8000 => s.ctrlWrite (.jan p o) v
    | 0x8010 => { s with jan := { s.jan with arg0 := bitsOf v 0 28 } }
    | 0x8014 => { s with jan := { s.jan with arg1 := bitsOf v 16 12 * 2 ^ 16 + bitsOf v 0 12 } }
    | 0x8018 => { s with jan := { s.jan with arg2 := v } }
    | 0x801C => s.bindWrite v
    | 0x8024 => { s with jan := { s.jan with sel := bitsOf v 0 14 } }
    | _ => if 0xC000 ≤ o then s.routeWrite ((o - 0xC000) / 4) v else s

/-- A write of PAR_CMD (R395, R604): a GO runs OP on PARTITION, and an OP that is not defined ends with 0x03. -/
def State.parCmdWrite (s : State) (v : Nat) : State :=
  let op := bitsOf v 16 3
  let p := bitsOf v 0 8
  if !(s.isReady || s.haltServed) then s
  else if !bitOf v 31 then { s with par := { s.par with op := op, part := p } }
  else match op with
    | 1 => reached (execParCmdCreate p s) s
    | 2 => reached (execParCmdDisable p s) s
    | 3 => reached (execParCmdEnable p s) s
    | 4 => reached (execParCmdDestroy p s) s
    | _ => s.parGo op p (fun s => s.parEnd 3)

/-- Write to the PAR block. -/
def State.parWrite (s : State) (o v : Nat) : State :=
  match o with
  | 0x0000 => s.parCmdWrite v
  | 0x0008 => { s with par := { s.par with addr := setLo s.par.addr (above 6 v) } }
  | 0x000C => { s with par := { s.par with addr := setHi s.par.addr v } }
  | 0x0020 => { s with par := { s.par with sel := bitsOf v 0 8 } }
  | 0x0030 => if bitsOf v 0 16 = 0 then s else { s with par := { s.par with block := bitsOf v 0 16 } }
  | 0x8000C => { s with dir := { s.dir with sel := bitsOf v 0 16 } }
  | 0x90004 => if inRange 1000 1000000 (bitsOf v 0 20) then { s with train := { s.train with timeout := bitsOf v 0 20 } } else s
  | 0x90008 => { s with train := { s.train with sel := bitsOf v 0 12 } }
  | _ => s.ctrlWrite (.par o) v

/-- Write to the MUL block. -/
def State.mulWrite (s : State) (o v : Nat) : State :=
  match o with
  | 0x0008 => if inRange 100 1000000 (bitsOf v 0 20) then { s with mul := { s.mul with timeout := bitsOf v 0 20 } } else s
  | _ => s.ctrlWrite (.mul o) v

/-- Write to a stack window: a PERIOD_H of 0 is ignored (R247). -/
def State.hbmWrite (s : State) (k o v : Nat) : State :=
  match o with
  | 0x0408 => s.modStack k (fun x => { x with
      scrubEnable := bitOf v 31, scrubPeriod := if bitsOf v 0 8 = 0 then x.scrubPeriod else bitsOf v 0 8 })
  | _ => s.ctrlWrite (.hbm k o) v

/-- Write to a quadrant window. -/
def State.quadWrite (s : State) (q o v : Nat) : State :=
  if 0x4000 ≤ o && o < 0x4400 && o % 16 == 4 then reached (execSatEntryFree q ((o - 0x4000) / 16) v s) s
  else
    let s1 := s.ctrlWrite (.quad q o) v
    if o = 0x7008 && bitOf v 1 then reached (execCcCountersClear q s1) s1 else s1

/-- A write of VXU_CTRL: TEST enters or leaves test state (R186). -/
def State.vxuWrite (s : State) (t : TileId) (v : Nat) : State :=
  let s1 := s.ctrlWrite (.tile t 0x200) v
  if bitOf v 2 then reached (execVxuTestEnter t s1) s1 else reached (execVxuTestExit t s1) s1

/-- Write to a tile window. -/
def State.tileWrite (s : State) (t : TileId) (o v : Nat) : State :=
  match o with
  | 0x0200 => s.vxuWrite t v
  | 0x0220 => s.modTile t (fun x => { x with vxu := { x.vxu with flags := ((List.range 6).filter (fun i => bitOf x.vxu.flags i && !bitOf v i)).foldl setBit 0 } })
  | 0x0224 => s.modTile t (fun x => { x with vxu := { x.vxu with uopLo := BitVec.ofNat 32 v } })
  | 0x0228 => s.modTile t (fun x => { x with vxu := { x.vxu with uopHi := BitVec.ofNat 32 v } })
  | 0x022C => if bitOf v 31 then reached (execVxuTestGo t s) s else s
  | 0x032C => s.modTile t (fun x => { x with scratch := { x.scratch with ueValid := x.scratch.ueValid && !bitOf v 31 } })
  | _ => s.ctrlWrite (.tile t o) v

/-- Write to a place of PF BAR0. -/
def State.placeWrite (s : State) (v : Nat) : Place → State
  | .glb o => s.glbWrite o v
  | .clk o => s.clkWrite o v
  | .sdg o => s.sdgWrite o v
  | .roo o => s.rooWrite o v
  | .tri o => s.triWrite o v
  | .jan p o => s.janWrite p o v
  | .mul o => s.mulWrite o v
  | .par o => s.parWrite o v
  | .hbm k o => s.hbmWrite k o v
  | .quad q o => s.quadWrite q o v
  | .tile t o => s.tileWrite t o v
  | .none => s

/-! ### VF BAR0 and PF BAR2 -/

/-- A write of a queue register: the ring addresses take a write while the queue is OFF (R483). -/
def State.queueWrite (s : State) (fn : Fn) (q r v : Nat) : State :=
  let put (f : Queue → Queue) : State := if s.served fn && (s.queue fn q).state == .off then s.modQueue fn q f else s
  match r with
  | 0x00 => put (fun x => { x with sq := setLo x.sq (above 12 v) })
  | 0x04 => put (fun x => { x with sq := setHi x.sq v })
  | 0x08 => put (fun x => { x with cq := setLo x.cq (above 12 v) })
  | 0x0C => put (fun x => { x with cq := setHi x.cq v })
  | 0x10 => if bitOf v 31 then reached (execQueueEnable fn q v s) s else reached (execQueueDisable fn q v s) s
  | _ => s

/-- A write of a context table entry of VF `v` (R375, R405). -/
def State.ctxWrite (s : State) (v i r value : Nat) : State :=
  if r = 0 then reached (execPriorityWrite v i value s) s
  else match (if s.served (.vf v) then s.partOfVf v else none) with
  | none => s
  | some p =>
    if (s.part p).ctxCount ≤ i then s
    else if r = 8 then s.modPart p (fun x => { x with ctxs := x.ctxs.modify i (fun c => { c with bufBase := bitsOf value 0 19 }) })
    else if r = 0xC then s.modPart p (fun x => { x with ctxs := x.ctxs.modify i (fun c => { c with bufLines := bitsOf value 0 20 }) })
    else s

/-- A write of an event ring register: the address takes a write while the ring is OFF (R536). -/
def State.evrWrite (s : State) (fn : Fn) (r v : Nat) : State :=
  if !s.served fn then s
  else match r with
    | 0x00 => if (s.ring fn).state = .off then s.modRing fn (fun x => { x with addr := setLo x.addr (above 12 v) }) else s
    | 0x04 => if (s.ring fn).state = .off then s.modRing fn (fun x => { x with addr := setHi x.addr v }) else s
    | 0x08 => if bitOf v 31 then reached (execEventRingEnable fn v s) s else reached (execEventRingDisable fn v s) s
    | 0x0C => s.modRing fn (fun x => { x with codes := BitVec.ofNat 32 v &&& 0x3FFE })
    | 0x14 => reached (execSdgVfEvrHead fn v s) s
    | 0x18 => if bitOf v 0 then reached (execSdgVfEvrEoi fn s) s else s
    | _ => s

/-- A write of an MSI-X table entry; one that the function lacks ignores it (R532). -/
def State.msixWrite (s : State) (fn : Fn) (i r v : Nat) : State :=
  if s.vectorsOf fn ≤ i || (fn != .pf && !s.isReady) then s
  else
    let put (f : MsixEntry → MsixEntry) : State :=
      { s with host := { s.host with msix := mmod {} s.host.msix (fnKey fn * 2048 + i) f } }
    match r with
    | 0x0 => put (fun e => { e with addr := setLo e.addr (above 2 v) })
    | 0x4 => put (fun e => { e with addr := setHi e.addr v })
    | 0x8 => put (fun e => { e with data := v })
    | _ => put (fun e => { e with mask := e.mask.write s.now (bitOf v 0) })

/-- Write to a function's window. -/
def State.fnWrite (s : State) (fn : Fn) (o v : Nat) : State :=
  if o < 0x1000 then s.queueWrite fn (o / 0x40) (o % 0x40) v
  else if 0x40000 ≤ o && o < 0x80000 then
    let q := (o - 0x40000) / 0x1000
    match o % 0x1000 with
    | 0 => reached (execSqDoorbell fn q v s) s
    | 4 => reached (execCqDoorbell fn q v s) s
    | _ => s
  else if 0x80000 ≤ o && o < 0x90000 then
    match fn with
    | .pf => s
    | .vf n => s.ctxWrite n ((o - 0x80000) / 16) (o % 16) v
  else if 0xD0000 ≤ o && o < 0xD0020 then s.evrWrite fn (o - 0xD0000) v
  else if 0xE0000 ≤ o && o < 0xE8000 then s.msixWrite fn ((o - 0xE0000) / 16) (o % 16) v
  else s

/-- A write of Message Control: Function Mask takes the bit (R520). -/
def State.msixCtlWrite (s : State) (fn : Fn) (v : Nat) : State :=
  { s with host := { s.host with fmask := mmod {} s.host.fmask (fnKey fn) (fun b => b.write s.now (bitOf v 14)) } }

/-! ### REGISTER_WRITE -/

/-- A 32-bit write at a 4-byte-aligned offset. -/
def State.write32 (s : State) (fn : Fn) (sp : Space) (a v : Nat) : State :=
  if sp = .msixCtl then (if a = 0 then s.msixCtlWrite fn v else s)
  else if isBar0 fn sp then s.placeWrite v (place a)
  else s.fnWrite fn a v

/-- A write of 1 or 2 bytes is discarded and counted (R17). -/
def State.dropSubword (s : State) : State := { s with host := { s.host with subword := bump s.host.freeze s.host.subword } }

/-- REGISTER_WRITE: a write of `size` bytes (R17, R20). One of 8 bytes writes both registers of the pair. -/
def execRegisterWrite (fn : Fn) (sp : Space) (off value size : Nat) (s : State) : Host.Outcome State Fault Refusal :=
  .next <|
    if !s.hostUp || !s.fnLive fn || !hasSpace fn sp then s
    else
      let s1 := if wakesL2 fn sp off then s.l2Wake else s
      let a := off / 4 * 4
      if sp ≠ .msixCtl && size < 4 then s1.dropSubword
      else if size = 8 then (s1.write32 fn sp a (lo32 value)).write32 fn sp (a + 4) (hi32 value)
      else s1.write32 fn sp a (lo32 value)

end Sys2Proof.Machine
end

