-- ==== Sys2Proof/Machine/Dispatch.lean ====
section
/-! DEFINITION. One arm per command of the opcode table, each a direct call of its meaning. -/

namespace Sys2Proof.Machine

def exec (i : Instr) (s : State) : Host.Outcome State Fault Refusal :=
  match i with
  | .sqDoorbell fn q value => Sys2Proof.Machine.execSqDoorbell fn q value s
  | .cqDoorbell fn q value => Sys2Proof.Machine.execCqDoorbell fn q value s
  | .descriptorFetch fn q => Sys2Proof.Machine.execDescriptorFetch fn q s
  | .queueEnable fn q cfg => Sys2Proof.Machine.execQueueEnable fn q cfg s
  | .queueDisable fn q cfg => Sys2Proof.Machine.execQueueDisable fn q cfg s
  | .jobDispatch j => Sys2Proof.Machine.execJobDispatch j s
  | .run j => Sys2Proof.Machine.execRun j s
  | .trainStep j => Sys2Proof.Machine.execTrainStep j s
  | .commitStepCommit j => Sys2Proof.Machine.execCommitStepCommit j s
  | .commitStepStart j => Sys2Proof.Machine.execCommitStepStart j s
  | .commitStepDiscard j => Sys2Proof.Machine.execCommitStepDiscard j s
  | .resolveCommit j => Sys2Proof.Machine.execResolveCommit j s
  | .resolveRollback j => Sys2Proof.Machine.execResolveRollback j s
  | .loadBase j => Sys2Proof.Machine.execLoadBase j s
  | .patchLayer j => Sys2Proof.Machine.execPatchLayer j s
  | .patchPlacement p => Sys2Proof.Machine.execPatchPlacement p s
  | .patchDrainDone p => Sys2Proof.Machine.execPatchDrainDone p s
  | .patchCopyDone p badWords => Sys2Proof.Machine.execPatchCopyDone p badWords s
  | .retireBase j => Sys2Proof.Machine.execRetireBase j s
  | .adapterRegister j => Sys2Proof.Machine.execAdapterRegister j s
  | .adapterImportDone j => Sys2Proof.Machine.execAdapterImportDone j s
  | .seedingKernelDone j lay => Sys2Proof.Machine.execSeedingKernelDone j lay s
  | .adapterBind j => Sys2Proof.Machine.execAdapterBind j s
  | .adapterBindRelease j => Sys2Proof.Machine.execAdapterBindRelease j s
  | .adapterEvictOffload j => Sys2Proof.Machine.execAdapterEvictOffload j s
  | .adapterEvictRemove j => Sys2Proof.Machine.execAdapterEvictRemove j s
  | .evictionDrained h => Sys2Proof.Machine.execEvictionDrained h s
  | .offloadCopyDone h => Sys2Proof.Machine.execOffloadCopyDone h s
  | .adapterReloadDone h answers => Sys2Proof.Machine.execAdapterReloadDone h answers s
  | .handleRetired h => Sys2Proof.Machine.execHandleRetired h s
  | .abort j => Sys2Proof.Machine.execAbort j s
  | .fence j => Sys2Proof.Machine.execFence j s
  | .scrubContext j => Sys2Proof.Machine.execScrubContext j s
  | .scrubAlloc j => Sys2Proof.Machine.execScrubAlloc j s
  | .scrubFree j => Sys2Proof.Machine.execScrubFree j s
  | .querySeed j => Sys2Proof.Machine.execQuerySeed j s
  | .queryHandle j => Sys2Proof.Machine.execQueryHandle j s
  | .queryPartition j => Sys2Proof.Machine.execQueryPartition j s
  | .exportStart j peer => Sys2Proof.Machine.execExportStart j peer s
  | .exportRound j => Sys2Proof.Machine.execExportRound j s
  | .exportFinal j => Sys2Proof.Machine.execExportFinal j s
  | .exportCancel j => Sys2Proof.Machine.execExportCancel j s
  | .exportRelease j => Sys2Proof.Machine.execExportRelease j s
  | .importPrepare j => Sys2Proof.Machine.execImportPrepare j s
  | .importLoad j peer => Sys2Proof.Machine.execImportLoad j peer s
  | .importFinish j => Sys2Proof.Machine.execImportFinish j s
  | .importCancel j => Sys2Proof.Machine.execImportCancel j s
  | .storeStructure j verifyOk => Sys2Proof.Machine.execStoreStructure j verifyOk s
  | .storeSettings j verifyOk => Sys2Proof.Machine.execStoreSettings j verifyOk s
  | .commandComplete j => Sys2Proof.Machine.execCommandComplete j s
  | .sliceStart tl lay idle fillWait upsets => Sys2Proof.Machine.execSliceStart tl lay idle fillWait upsets s
  | .sliceBoundary tl => Sys2Proof.Machine.execSliceBoundary tl s
  | .slotSwitchDone tl => Sys2Proof.Machine.execSlotSwitchDone tl s
  | .slotFillStart tl set id => Sys2Proof.Machine.execSlotFillStart tl set id s
  | .slotFillDone tl => Sys2Proof.Machine.execSlotFillDone tl s
  | .stagedOutputSent tl ctx => Sys2Proof.Machine.execStagedOutputSent tl ctx s
  | .segmentGatherDone tl ctx word tensor col len upsets => Sys2Proof.Machine.execSegmentGatherDone tl ctx word tensor col len upsets s
  | .bankAtomic tl port req upsets => Sys2Proof.Machine.execBankAtomic tl port req upsets s
  | .collideRetry tl port lose => Sys2Proof.Machine.execCollideRetry tl port lose s
  | .qbWayRequest q way part fromTile req upsets => Sys2Proof.Machine.execQbWayRequest q way part fromTile req upsets s
  | .stackRequest stack req => Sys2Proof.Machine.execStackRequest stack req s
  | .ringFillStart tl ctx => Sys2Proof.Machine.execRingFillStart tl ctx s
  | .ringFillDone tl ctx upsets answers => Sys2Proof.Machine.execRingFillDone tl ctx upsets answers s
  | .gatherReq binding tag len pre patch lq off => Sys2Proof.Machine.execGatherReq binding tag len pre patch lq off s
  | .gatherHold binding tag => Sys2Proof.Machine.execGatherHold binding tag s
  | .gatherRetryTimer tag => Sys2Proof.Machine.execGatherRetryTimer tag s
  | .gatherRefuse binding tag reason => Sys2Proof.Machine.execGatherRefuse binding tag reason s
  | .gatherData binding tag data poison => Sys2Proof.Machine.execGatherData binding tag data poison s
  | .gatherTimeout tag => Sys2Proof.Machine.execGatherTimeout tag s
  | .gabZeroDone p slot => Sys2Proof.Machine.execGabZeroDone p slot s
  | .stashCaptureDone tl ctx layer rows => Sys2Proof.Machine.execStashCaptureDone tl ctx layer rows s
  | .stashRestoreDone tl ctx layer => Sys2Proof.Machine.execStashRestoreDone tl ctx layer s
  | .exchPart binding line elems bad => Sys2Proof.Machine.execExchPart binding line elems bad s
  | .exchangeSumDone p slot line => Sys2Proof.Machine.execExchangeSumDone p slot line s
  | .exchSum binding line elems bad => Sys2Proof.Machine.execExchSum binding line elems bad s
  | .upuUpdateStart p slot => Sys2Proof.Machine.execUpuUpdateStart p slot s
  | .upuUpdateDone p slot uncorrectable => Sys2Proof.Machine.execUpuUpdateDone p slot uncorrectable s
  | .ready p slot m => Sys2Proof.Machine.execReady p slot m s
  | .commit p slot m => Sys2Proof.Machine.execCommit p slot m s
  | .ack p slot m => Sys2Proof.Machine.execAck p slot m s
  | .ackTimeout p slot => Sys2Proof.Machine.execAckTimeout p slot s
  | .rollbackVote p slot m => Sys2Proof.Machine.execRollbackVote p slot m s
  | .rollback p slot m => Sys2Proof.Machine.execRollback p slot m s
  | .query p slot m => Sys2Proof.Machine.execQuery p slot m s
  | .unknown p slot m => Sys2Proof.Machine.execUnknown p slot m s
  | .commitQueryTimer p slot => Sys2Proof.Machine.execCommitQueryTimer p slot s
  | .commitTimeout p slot => Sys2Proof.Machine.execCommitTimeout p slot s
  | .exchangePartTimeout p slot => Sys2Proof.Machine.execExchangePartTimeout p slot s
  | .inDoubtTimeout p slot => Sys2Proof.Machine.execInDoubtTimeout p slot s
  | .swapBlockTimer p => Sys2Proof.Machine.execSwapBlockTimer p s
  | .switchStart p => Sys2Proof.Machine.execSwitchStart p s
  | .contextSaveDone p => Sys2Proof.Machine.execContextSaveDone p s
  | .contextRestoreDone p => Sys2Proof.Machine.execContextRestoreDone p s
  | .priorityWrite v n value => Sys2Proof.Machine.execPriorityWrite v n value s
  | .scrubDone tl ways => Sys2Proof.Machine.execScrubDone tl ways s
  | .parCmdCreate p => Sys2Proof.Machine.execParCmdCreate p s
  | .parCmdDisable p => Sys2Proof.Machine.execParCmdDisable p s
  | .parCmdEnable p => Sys2Proof.Machine.execParCmdEnable p s
  | .parCmdDestroy p => Sys2Proof.Machine.execParCmdDestroy p s
  | .partitionDisabled p => Sys2Proof.Machine.execPartitionDisabled p s
  | .vfFlr v => Sys2Proof.Machine.execVfFlr v s
  | .vfFlrDone v => Sys2Proof.Machine.execVfFlrDone v s
  | .pfFlr => Sys2Proof.Machine.execPfFlr s
  | .vfEnableClear => Sys2Proof.Machine.execVfEnableClear s
  | .vfEnableSet numVfs => Sys2Proof.Machine.execVfEnableSet numVfs s
  | .keySlotErased d => Sys2Proof.Machine.execKeySlotErased d s
  | .pageZeroFillDone stack pch page => Sys2Proof.Machine.execPageZeroFillDone stack pch page s
  | .patrolScrubLine stack pch line upsets => Sys2Proof.Machine.execPatrolScrubLine stack pch line upsets s
  | .bankZeroFillDone tl bank => Sys2Proof.Machine.execBankZeroFillDone tl bank s
  | .satWindowStart q e => Sys2Proof.Machine.execSatWindowStart q e s
  | .satEntryFree q e value => Sys2Proof.Machine.execSatEntryFree q e value s
  | .vxuTestEnter tl => Sys2Proof.Machine.execVxuTestEnter tl s
  | .vxuTestExit tl => Sys2Proof.Machine.execVxuTestExit tl s
  | .vxuTestGo tl => Sys2Proof.Machine.execVxuTestGo tl s
  | .vxuTestDone tl => Sys2Proof.Machine.execVxuTestDone tl s
  | .collectorAccept q posts => Sys2Proof.Machine.execCollectorAccept q posts s
  | .collectorDrain q => Sys2Proof.Machine.execCollectorDrain q s
  | .eventRingWrite => Sys2Proof.Machine.execEventRingWrite s
  | .deliveryDecision => Sys2Proof.Machine.execDeliveryDecision s
  | .sdgEoi value => Sys2Proof.Machine.execSdgEoi value s
  | .sdgVfEvrEoi fn => Sys2Proof.Machine.execSdgVfEvrEoi fn s
  | .sdgVfEvrHead fn value => Sys2Proof.Machine.execSdgVfEvrHead fn value s
  | .eventRingEnable fn cfg => Sys2Proof.Machine.execEventRingEnable fn cfg s
  | .eventRingDisable fn cfg => Sys2Proof.Machine.execEventRingDisable fn cfg s
  | .gdisWrite value => Sys2Proof.Machine.execGdisWrite value s
  | .srcCfgWrite n value => Sys2Proof.Machine.execSrcCfgWrite n value s
  | .orbitSyncEdge => Sys2Proof.Machine.execOrbitSyncEdge s
  | .latchedRead fn sp off size => Sys2Proof.Machine.execLatchedRead fn sp off size s
  | .adirEntryRead => Sys2Proof.Machine.execAdirEntryRead s
  | .trainSlotRead => Sys2Proof.Machine.execTrainSlotRead s
  | .parInfoRead => Sys2Proof.Machine.execParInfoRead s
  | .janBindInfoRead => Sys2Proof.Machine.execJanBindInfoRead s
  | .countersClear off => Sys2Proof.Machine.execCountersClear off s
  | .eccCountersClear off => Sys2Proof.Machine.execEccCountersClear off s
  | .ccCountersClear q => Sys2Proof.Machine.execCcCountersClear q s
  | .sdgClear => Sys2Proof.Machine.execSdgClear s
  | .registerWrite fn sp off value size => Sys2Proof.Machine.execRegisterWrite fn sp off value size s
  | .archLevelSelect value => Sys2Proof.Machine.execArchLevelSelect value s
  | .clockSwitch n value => Sys2Proof.Machine.execClockSwitch n value s
  | .clockStopPoint n => Sys2Proof.Machine.execClockStopPoint n s
  | .clockSwitchDone n => Sys2Proof.Machine.execClockSwitchDone n s
  | .pstateRequest value => Sys2Proof.Machine.execPstateRequest value s
  | .vddRampUpDone => Sys2Proof.Machine.execVddRampUpDone s
  | .cclkStopPoint => Sys2Proof.Machine.execCclkStopPoint s
  | .cclkRestart => Sys2Proof.Machine.execCclkRestart s
  | .vddRampDownDone => Sys2Proof.Machine.execVddRampDownDone s
  | .refMonitorTick refOk => Sys2Proof.Machine.execRefMonitorTick refOk s
  | .aclkReturn => Sys2Proof.Machine.execAclkReturn s
  | .pllLockLoss => Sys2Proof.Machine.execPllLockLoss s
  | .qgateWrite value => Sys2Proof.Machine.execQgateWrite value s
  | .qgateEntryStart q => Sys2Proof.Machine.execQgateEntryStart q s
  | .qgateEntryDone q => Sys2Proof.Machine.execQgateEntryDone q s
  | .qgateExitDone q => Sys2Proof.Machine.execQgateExitDone q s
  | .pmRequestD0 => Sys2Proof.Machine.execPmRequestD0 s
  | .pmRequestL2 => Sys2Proof.Machine.execPmRequestL2 s
  | .pmRequestL3 => Sys2Proof.Machine.execPmRequestL3 s
  | .l2EntryDone => Sys2Proof.Machine.execL2EntryDone s
  | .l2ExitDone => Sys2Proof.Machine.execL2ExitDone s
  | .l3ArmTimeout => Sys2Proof.Machine.execL3ArmTimeout s
  | .perstAssert => Sys2Proof.Machine.execPerstAssert s
  | .perstDeassert => Sys2Proof.Machine.execPerstDeassert s
  | .l3Wake source => Sys2Proof.Machine.execL3Wake source s
  | .rooTimerExpiry => Sys2Proof.Machine.execRooTimerExpiry s
  | .inputSample volts amps => Sys2Proof.Machine.execInputSample volts amps s
  | .inputUvloRise => Sys2Proof.Machine.execInputUvloRise s
  | .standbyReady idPins oscPins => Sys2Proof.Machine.execStandbyReady idPins oscPins s
  | .standbyShutdown => Sys2Proof.Machine.execStandbyShutdown s
  | .pwrEnHigh => Sys2Proof.Machine.execPwrEnHigh s
  | .pwrEnLow ms => Sys2Proof.Machine.execPwrEnLow ms s
  | .pwrgdRelease => Sys2Proof.Machine.execPwrgdRelease s
  | .powerCapTick volts amps p1s p10ms => Sys2Proof.Machine.execPowerCapTick volts amps p1s p10ms s
  | .thermalSample readings => Sys2Proof.Machine.execThermalSample readings s
  | .thermalCapStep => Sys2Proof.Machine.execThermalCapStep s
  | .clkFaultClear value => Sys2Proof.Machine.execClkFaultClear value s
  | .smbStatus => Sys2Proof.Machine.execSmbStatus s
  | .smbVin => Sys2Proof.Machine.execSmbVin s
  | .smbIin => Sys2Proof.Machine.execSmbIin s
  | .smbPin => Sys2Proof.Machine.execSmbPin s
  | .smbThermal => Sys2Proof.Machine.execSmbThermal s
  | .smbCoolant => Sys2Proof.Machine.execSmbCoolant s
  | .smbFault => Sys2Proof.Machine.execSmbFault s
  | .smbIdent => Sys2Proof.Machine.execSmbIdent s
  | .smbAlertResponse again => Sys2Proof.Machine.execSmbAlertResponse again s
  | .glbResetCold value => Sys2Proof.Machine.execGlbResetCold value s
  | .glbResetWarm value => Sys2Proof.Machine.execGlbResetWarm value s
  | .startStageEnd o => Sys2Proof.Machine.execStartStageEnd o s
  | .triMbxGo value => Sys2Proof.Machine.execTriMbxGo value s
  | .triMbxAbort value => Sys2Proof.Machine.execTriMbxAbort value s
  | .getVersion c => Sys2Proof.Machine.execGetVersion c s
  | .getCapabilities c => Sys2Proof.Machine.execGetCapabilities c s
  | .negotiateAlgorithms c supported => Sys2Proof.Machine.execNegotiateAlgorithms c supported s
  | .getDigests c => Sys2Proof.Machine.execGetDigests c s
  | .getCertificate c slot off len => Sys2Proof.Machine.execGetCertificate c slot off len s
  | .challenge c slot => Sys2Proof.Machine.execChallenge c slot s
  | .getMeasurements c slot index nonce => Sys2Proof.Machine.execGetMeasurements c slot index nonce s
  | .keyExchange c slot both => Sys2Proof.Machine.execKeyExchange c slot both s
  | .spdmFinish c session macOk => Sys2Proof.Machine.execSpdmFinish c session macOk s
  | .heartbeat c session => Sys2Proof.Machine.execHeartbeat c session s
  | .keyUpdate c session => Sys2Proof.Machine.execKeyUpdate c session s
  | .endSession c session => Sys2Proof.Machine.execEndSession c session s
  | .respondIfReady c session => Sys2Proof.Machine.execRespondIfReady c session s
  | .domainOpen r d flags key seed => Sys2Proof.Machine.execDomainOpen r d flags key seed s
  | .domainClaim r d sigR sigS => Sys2Proof.Machine.execDomainClaim r d sigR sigS s
  | .domainClose r d => Sys2Proof.Machine.execDomainClose r d s
  | .domainCloseDone d => Sys2Proof.Machine.execDomainCloseDone d s
  | .getImportKey r d => Sys2Proof.Machine.execGetImportKey r d s
  | .setRules r d row rule => Sys2Proof.Machine.execSetRules r d row rule s
  | .getReport r scope id off len nonce => Sys2Proof.Machine.execGetReport r scope id off len nonce s
  | .signerSet r slot kinds key => Sys2Proof.Machine.execSignerSet r slot kinds key s
  | .testOpen r parts => Sys2Proof.Machine.execTestOpen r parts s
  | .lcRequest value => Sys2Proof.Machine.execLcRequest value s
  | .lcFuseBlown => Sys2Proof.Machine.execLcFuseBlown s
  | .portCalibrationDone p ok => Sys2Proof.Machine.execPortCalibrationDone p ok s
  | .laneTrainingDone p rtt lanes fibreM => Sys2Proof.Machine.execLaneTrainingDone p rtt lanes fibreM s
  | .noPeerTimeout p => Sys2Proof.Machine.execNoPeerTimeout p s
  | .noPeerRetry p => Sys2Proof.Machine.execNoPeerRetry p s
  | .hello at_ m => Sys2Proof.Machine.execHello at_ m s
  | .proof at_ m => Sys2Proof.Machine.execProof at_ m s
  | .handshakeFinish at_ macOk => Sys2Proof.Machine.execHandshakeFinish at_ macOk s
  | .handshakeRetry at_ => Sys2Proof.Machine.execHandshakeRetry at_ s
  | .linkFrameDue p => Sys2Proof.Machine.execLinkFrameDue p s
  | .frameTransmit p => Sys2Proof.Machine.execFrameTransmit p s
  | .linkFrame p f u => Sys2Proof.Machine.execLinkFrame p f u s
  | .routedFrame p f => Sys2Proof.Machine.execRoutedFrame p f s
  | .forwardedFrame p f => Sys2Proof.Machine.execForwardedFrame p f s
  | .laneLockLost p lane => Sys2Proof.Machine.execLaneLockLost p lane s
  | .portRxTimeout p => Sys2Proof.Machine.execPortRxTimeout p s
  | .retrain p => Sys2Proof.Machine.execRetrain p s
  | .keepaliveTimer n => Sys2Proof.Machine.execKeepaliveTimer n s
  | .keepalive n => Sys2Proof.Machine.execKeepalive n s
  | .sessionTimeout n => Sys2Proof.Machine.execSessionTimeout n s
  | .bindOpenPart => Sys2Proof.Machine.execBindOpenPart s
  | .bindOpenDomain => Sys2Proof.Machine.execBindOpenDomain s
  | .bindClose => Sys2Proof.Machine.execBindClose s
  | .bindOffer n o => Sys2Proof.Machine.execBindOffer n o s
  | .bindOfferExpiry n o => Sys2Proof.Machine.execBindOfferExpiry n o s
  | .close binding => Sys2Proof.Machine.execClose binding s
  | .closingTimeout binding => Sys2Proof.Machine.execClosingTimeout binding s
  | .quarantineExpiry binding => Sys2Proof.Machine.execQuarantineExpiry binding s
  | .release binding cls slots => Sys2Proof.Machine.execRelease binding cls slots s
  | .creditIdleTimer binding => Sys2Proof.Machine.execCreditIdleTimer binding s
  | .seqGapTimeout binding => Sys2Proof.Machine.execSeqGapTimeout binding s
  | .orbitSyncUpdate => Sys2Proof.Machine.execOrbitSyncUpdate s
  | .mainRailOutOfRegulation => Sys2Proof.Machine.execMainRailOutOfRegulation s
  | .svnFloorRaise which floor sigOk => Sys2Proof.Machine.execSvnFloorRaise which floor sigOk s
  | .snapshotCopyDone => Sys2Proof.Machine.execSnapshotCopyDone s
  | .hostLinkL0 => Sys2Proof.Machine.execHostLinkL0 s
  | .lightDetect p => Sys2Proof.Machine.execLightDetect p s
  | .peRxActivity => Sys2Proof.Machine.execPeRxActivity s
  | .laserArraySensorSample temp => Sys2Proof.Machine.execLaserArraySensorSample temp s
  | .registerAccessInL2 sp off => Sys2Proof.Machine.execRegisterAccessInL2 sp off s

end Sys2Proof.Machine
end

