-- ==== Sys2Proof/WellFormed.lean ====
section
/-! DEFINITION. The commands that an event of the hardware can carry: every operand in the range its rule gives it. -/

namespace Sys2Proof

/-- A function of the device: the PF or one of 256 VFs (R476). -/
def Fn.wf : Fn → Bool
  | .pf => true
  | .vf v => decide (v < 256)

/-- A fetched command: its function exists and its JOB_ID has 32 bits (R484). -/
def JobRef.wf (j : JobRef) : Bool := j.fn.wf && decide (j.job < 2 ^ 32)

/-- A tile: 8 quadrants of 32 tiles (Table 1.1). -/
def TileId.wf (t : TileId) : Bool := decide (t.q < Config.quadrants) && decide (t.t < Config.tilesPerQuadrant)

/-- An upset: a word of a line or its metadata word, and a 72-bit mask (R205). -/
def Upset.wf (u : Upset) : Bool := decide (u.word ≤ 8) && decide (u.mask < 2 ^ 72)

/-- A line request: a 64-byte mask, a KIND code and an operation of Table 6.4. -/
def LineReq.wf (r : LineReq) : Bool :=
  decide (r.mask < 2 ^ 64) && decide (r.kind < 4) && decide (r.tag < 2 ^ 32) && decide (r.poison < 4) && r.atomic.all (fun o => decide (o < 4))

/-- A request to a stack: a 64-bit address, a KIND code, an operation of Table 6.4 and a unit that exists. -/
def StackReq.wf (r : StackReq) : Bool :=
  decide (r.part < 256) && decide (r.pma < 2 ^ 64) && decide (r.marks < 256) && decide (r.mask < 2 ^ 64) &&
  r.atomic.all (fun o => decide (o < 4)) && decide (r.unit ≤ 260) && decide (r.kind < 4) && r.upsets.all Upset.wf

/-- A post: its source and its job exist (R524), and its status is one that the device returns (R23). -/
def Post.wf (p : Post) : Bool := p.job.wf && decide (p.source < 1024) && decide (p.status < 0x0F) && decide (p.vflags < 2 ^ 32)

/-- A commit message's sender is a peer ID (Table 9.8). -/
def CommitMsg.wf (m : CommitMsg) : Bool := decide (m.sender < 4096) && decide (m.step < 2 ^ 32)

/-- A port of Table 1.1. -/
def portWf (p : Nat) : Bool := decide (p < Config.ports)

/-- A handshake's place. -/
def HsAt.wf : HsAt → Bool
  | .port p => portWf p
  | .peer n => decide (n < 4096)

/-- A carrier's function exists (R418). -/
def Carrier.wf : Carrier → Bool
  | .doe fn => fn.wf
  | .mailbox => true

/-- A vendor request (R419). -/
def VReq.wf (r : VReq) : Bool := r.carrier.wf && decide (r.level < 256)

/-- A register value (R17). -/
def valueWf (v : Nat) : Bool := decide (v < 2 ^ 32)

/-- A partition and one of its training slots. -/
def slotWf (p k : Nat) : Bool := decide (p < 256) && decide (k < 16)

/-- An access is 1, 2, 4 or 8 bytes, at a multiple of its size (R17). -/
def accessWf (off size : Nat) : Bool := (size == 1 || size == 2 || size == 4 || size == 8) && off % size == 0

/-- Every operand of a command lies in its range. -/
def Instr.wf : Instr → Bool
  | .sqDoorbell fn q v => fn.wf && decide (q < Config.queues) && valueWf v
  | .cqDoorbell fn q v => fn.wf && decide (q < Config.queues) && valueWf v
  | .descriptorFetch fn q => fn.wf && decide (q < Config.queues)
  | .queueEnable fn q v => fn.wf && decide (q < Config.queues) && valueWf v
  | .queueDisable fn q v => fn.wf && decide (q < Config.queues) && valueWf v
  | .jobDispatch j => j.wf
  | .run j => j.wf
  | .trainStep j => j.wf
  | .commitStepCommit j => j.wf
  | .commitStepStart j => j.wf
  | .commitStepDiscard j => j.wf
  | .resolveCommit j => j.wf
  | .resolveRollback j => j.wf
  | .loadBase j => j.wf
  | .patchLayer j => j.wf
  | .patchPlacement p => decide (p < 256)
  | .patchDrainDone p => decide (p < 256)
  | .patchCopyDone p _ => decide (p < 256)
  | .retireBase j => j.wf
  | .adapterRegister j => j.wf
  | .adapterImportDone j => j.wf
  | .seedingKernelDone j _ => j.wf
  | .adapterBind j => j.wf
  | .adapterBindRelease j => j.wf
  | .adapterEvictOffload j => j.wf
  | .adapterEvictRemove j => j.wf
  | .evictionDrained h => decide (h < 65536)
  | .offloadCopyDone h => decide (h < 65536)
  | .adapterReloadDone h us => decide (h < 65536) && us.all (fun u => u.2.length == 4160)
  | .handleRetired h => decide (h < 65536)
  | .abort j => j.wf
  | .fence j => j.wf
  | .scrubContext j => j.wf
  | .scrubAlloc j => j.wf
  | .scrubFree j => j.wf
  | .querySeed j => j.wf
  | .queryHandle j => j.wf
  | .queryPartition j => j.wf
  | .exportStart j _ => j.wf
  | .exportRound j => j.wf
  | .exportFinal j => j.wf
  | .exportCancel j => j.wf
  | .exportRelease j => j.wf
  | .importPrepare j => j.wf
  | .importLoad j _ => j.wf
  | .importFinish j => j.wf
  | .importCancel j => j.wf
  | .storeStructure j _ => j.wf
  | .storeSettings j _ => j.wf
  | .commandComplete j => j.wf
  | .sliceStart tl _ _ _ us => tl.wf && us.all Upset.wf
  | .sliceBoundary tl => tl.wf
  | .slotSwitchDone tl => tl.wf
  | .slotFillStart tl set _ => tl.wf && decide (set < 4)
  | .slotFillDone tl => tl.wf
  | .stagedOutputSent tl _ => tl.wf
  | .segmentGatherDone tl _ _ _ _ _ us => tl.wf && us.all Upset.wf
  | .bankAtomic tl port req us => tl.wf && decide (port < 3) && req.wf && us.all Upset.wf
  | .collideRetry tl port _ => tl.wf && decide (port < 2)
  | .qbWayRequest q way part from_ req us => decide (q < Config.quadrants) && decide (way < 16) && decide (part < 256) && decide (from_ < 256) && req.wf && us.all Upset.wf
  | .stackRequest k req => decide (k < 8) && req.wf
  | .ringFillStart tl _ => tl.wf
  | .ringFillDone tl _ us as => tl.wf && us.all Upset.wf && as.all (fun a => decide (a.2.length = 4160))
  | .gatherReq b _ _ _ _ _ _ => decide (b < 16384)
  | .gatherHold b _ => decide (b < 16384)
  | .gatherRetryTimer _ => true
  | .gatherRefuse b _ r => decide (b < 16384) && decide (r < 256)
  | .gatherData b _ _ _ => decide (b < 16384)
  | .gatherTimeout _ => true
  | .gabZeroDone p k => slotWf p k
  | .stashCaptureDone tl _ _ rows => tl.wf && rows.all (fun r => r.all (fun n => decide (n < 16384)))
  | .stashRestoreDone tl _ _ => tl.wf
  | .exchPart b _ _ _ => decide (b < 16384)
  | .exchangeSumDone p k _ => slotWf p k
  | .exchSum b _ _ _ => decide (b < 16384)
  | .upuUpdateStart p k => slotWf p k
  | .upuUpdateDone p k _ => slotWf p k
  | .ready p k m => slotWf p k && m.wf
  | .commit p k m => slotWf p k && m.wf
  | .ack p k m => slotWf p k && m.wf
  | .ackTimeout p k => slotWf p k
  | .rollbackVote p k m => slotWf p k && m.wf
  | .rollback p k m => slotWf p k && m.wf
  | .query p k m => slotWf p k && m.wf
  | .unknown p k m => slotWf p k && m.wf
  | .commitQueryTimer p k => slotWf p k
  | .commitTimeout p k => slotWf p k
  | .exchangePartTimeout p k => slotWf p k
  | .inDoubtTimeout p k => slotWf p k
  | .swapBlockTimer p => decide (p < 256)
  | .switchStart p => decide (p < 256)
  | .contextSaveDone p => decide (p < 256)
  | .contextRestoreDone p => decide (p < 256)
  | .priorityWrite v _ value => decide (v < 256) && valueWf value
  | .scrubDone tl _ => tl.wf
  | .parCmdCreate p => decide (p < 256)
  | .parCmdDisable p => decide (p < 256)
  | .parCmdEnable p => decide (p < 256)
  | .parCmdDestroy p => decide (p < 256)
  | .partitionDisabled p => decide (p < 256)
  | .vfFlr v => decide (v < 256)
  | .vfFlrDone v => decide (v < 256)
  | .pfFlr => true
  | .vfEnableClear => true
  | .vfEnableSet n => decide (n ≤ 256)
  | .keySlotErased d => decide (d < 4096)
  | .pageZeroFillDone k c g => decide (k < 8) && decide (c < Config.pchPerStack) && decide (g < Config.pagesPerPch)
  | .patrolScrubLine k c _ us => decide (k < 8) && decide (c < Config.pchPerStack) && us.all Upset.wf
  | .bankZeroFillDone tl b => tl.wf && decide (b < 32)
  | .satWindowStart q e => decide (q < Config.quadrants) && decide (e < 64)
  | .satEntryFree q e v => decide (q < Config.quadrants) && decide (e < 64) && valueWf v
  | .vxuTestEnter tl => tl.wf
  | .vxuTestExit tl => tl.wf
  | .vxuTestGo tl => tl.wf
  | .vxuTestDone tl => tl.wf
  | .collectorAccept q ps => decide (q < Config.quadrants) && ps.all Post.wf
  | .collectorDrain q => decide (q < Config.quadrants)
  | .eventRingWrite => true
  | .deliveryDecision => true
  | .sdgEoi v => valueWf v
  | .sdgVfEvrEoi fn => fn.wf
  | .sdgVfEvrHead fn v => fn.wf && valueWf v
  | .eventRingEnable fn v => fn.wf && valueWf v
  | .eventRingDisable fn v => fn.wf && valueWf v
  | .gdisWrite v => valueWf v
  | .srcCfgWrite n v => decide (n < 0x400) && valueWf v
  | .orbitSyncEdge => true
  | .latchedRead fn _ off size => fn.wf && accessWf off size
  | .adirEntryRead => true
  | .trainSlotRead => true
  | .parInfoRead => true
  | .janBindInfoRead => true
  | .countersClear _ => true
  | .eccCountersClear _ => true
  | .ccCountersClear q => decide (q < Config.quadrants)
  | .sdgClear => true
  | .registerWrite fn _ off v size => fn.wf && accessWf off size && decide (v < 2 ^ (8 * size))
  | .archLevelSelect v => valueWf v
  | .clockSwitch n v => decide (n < 5) && valueWf v
  | .clockStopPoint n => decide (n < 5)
  | .clockSwitchDone n => decide (n < 5)
  | .pstateRequest v => valueWf v
  | .vddRampUpDone => true
  | .cclkStopPoint => true
  | .cclkRestart => true
  | .vddRampDownDone => true
  | .refMonitorTick _ => true
  | .aclkReturn => true
  | .pllLockLoss => true
  | .qgateWrite v => valueWf v
  | .qgateEntryStart q => decide (q < Config.quadrants)
  | .qgateEntryDone q => decide (q < Config.quadrants)
  | .qgateExitDone q => decide (q < Config.quadrants)
  | .pmRequestD0 => true
  | .pmRequestL2 => true
  | .pmRequestL3 => true
  | .l2EntryDone => true
  | .l2ExitDone => true
  | .l3ArmTimeout => true
  | .perstAssert => true
  | .perstDeassert => true
  | .l3Wake n => decide (n < 0x400)
  | .rooTimerExpiry => true
  | .inputSample _ _ => true
  | .inputUvloRise => true
  | .standbyReady id osc => decide (id < 16) && decide (osc < 8)
  | .standbyShutdown => true
  | .pwrEnHigh => true
  | .pwrEnLow _ => true
  | .pwrgdRelease => true
  | .powerCapTick _ _ _ _ => true
  | .thermalSample rs => rs.all (fun r => decide (r.2 < 65536))
  | .thermalCapStep => true
  | .clkFaultClear v => valueWf v
  | .smbStatus => true
  | .smbVin => true
  | .smbIin => true
  | .smbPin => true
  | .smbThermal => true
  | .smbCoolant => true
  | .smbFault => true
  | .smbIdent => true
  | .smbAlertResponse _ => true
  | .glbResetCold v => valueWf v
  | .glbResetWarm v => valueWf v
  | .startStageEnd o => decide (o.detail < 256) && decide (o.stage < 16) && decide (o.banks < 65536)
  | .triMbxGo v => valueWf v
  | .triMbxAbort v => valueWf v
  | .getVersion c => c.wf
  | .getCapabilities c => c.wf
  | .negotiateAlgorithms c _ => c.wf
  | .getDigests c => c.wf
  | .getCertificate c slot _ _ => c.wf && decide (slot < 16)
  | .challenge c slot => c.wf && decide (slot < 256)
  | .getMeasurements c slot i _ => c.wf && decide (slot < 16) && decide (i < 256)
  | .keyExchange c slot _ => c.wf && decide (slot < 256)
  | .spdmFinish c _ _ => c.wf
  | .heartbeat c _ => c.wf
  | .keyUpdate c _ => c.wf
  | .endSession c _ => c.wf
  | .respondIfReady c _ => c.wf
  | .domainOpen r d f k _ => r.wf && decide (d < 65536) && decide (f < 256) && k.length == 96
  | .domainClaim r d _ _ => r.wf && decide (d < 65536)
  | .domainClose r d => r.wf && decide (d < 65536)
  | .domainCloseDone d => decide (d < 4096)
  | .getImportKey r d => r.wf && decide (d < 65536)
  | .setRules r d _ b => r.wf && decide (d < 65536) && b.length == 80
  | .getReport r _ _ _ _ _ => r.wf
  | .signerSet r slot kinds key => r.wf && decide (slot < 256) && decide (kinds < 256) && key.length == 96
  | .testOpen r parts => r.wf && decide (parts < 256)
  | .lcRequest v => valueWf v
  | .lcFuseBlown => true
  | .portCalibrationDone p _ => portWf p
  | .laneTrainingDone p _ _ _ => portWf p
  | .noPeerTimeout p => portWf p
  | .noPeerRetry p => portWf p
  | .hello a m => a.wf && decide (m.peer < 4096) && m.key.length == 96
  | .proof a _ => a.wf
  | .handshakeFinish a _ => a.wf
  | .handshakeRetry a => a.wf
  | .linkFrameDue p => portWf p
  | .frameTransmit p => portWf p
  | .linkFrame p _ _ => portWf p
  | .routedFrame p _ => portWf p
  | .forwardedFrame p _ => portWf p
  | .laneLockLost p l => portWf p && decide (l < 8)
  | .portRxTimeout p => portWf p
  | .retrain p => portWf p
  | .keepaliveTimer n => decide (n < 4096)
  | .keepalive n => decide (n < 4096)
  | .sessionTimeout n => decide (n < 4096)
  | .bindOpenPart => true
  | .bindOpenDomain => true
  | .bindClose => true
  | .bindOffer n _ => decide (n < 4096)
  | .bindOfferExpiry n _ => decide (n < 4096)
  | .close b => decide (b < 16384)
  | .closingTimeout b => decide (b < 16384)
  | .quarantineExpiry b => decide (b < 16384)
  | .release b c _ => decide (b < 16384) && decide (c < 4)
  | .creditIdleTimer b => decide (b < 16384)
  | .seqGapTimeout b => decide (b < 16384)
  | .orbitSyncUpdate => true
  | .mainRailOutOfRegulation => true
  | .svnFloorRaise w l _ => decide (w < 2) && decide (l < 256)
  | .snapshotCopyDone => true
  | .hostLinkL0 => true
  | .lightDetect p => portWf p
  | .peRxActivity => true
  | .laserArraySensorSample t => decide (t < 65536)
  | .registerAccessInL2 _ _ => true

end Sys2Proof
end

