-- ==== Sys2Proof/Safety.lean ====
section
/-! DEFINITION. What a safe run keeps, in the terms the claims use: a legal life cycle that moves only along
Table 11.12, fuses that are never unblown, and queues of well-formed commands. -/

namespace Sys2Proof.Machine

/-- The life-cycle states of Table 11.11. -/
def lcLegal (n : Nat) : Bool := decide (1 ≤ n) && decide (n ≤ 5)

/-- The life cycle is legal, at most 16 LC_COUNT fuses are blown (R406), and a request in progress leads along a
transition of Table 11.12 with a fuse left for it (R427). -/
def State.LifeOk (s : State) : Prop :=
  lcLegal s.lc = true ∧ s.fuses.lcCount ≤ 16 ∧
  (s.tri.lcBusy = true → (lcTransition s.lc s.tri.lcTarget).isSome = true ∧ s.fuses.lcCount < 16)

/-- Only well-formed commands wait. -/
def State.QueueOk (s : State) : Prop := ∀ c ∈ s.pending, Instr.wf c = true

/-- No fuse that `s` has blown is unblown in `t`: the count of transitions and the SVN floors never fall, and the
part's identity stays (R406, R414). -/
def FusesGrow (s t : State) : Prop :=
  s.fuses.lcCount ≤ t.fuses.lcCount ∧ s.fuses.tritonFloor ≤ t.fuses.tritonFloor ∧ s.fuses.seqFloor ≤ t.fuses.seqFloor ∧
  t.fuses.uid = s.fuses.uid ∧ t.fuses.drs = s.fuses.drs ∧ t.fuses.vendorHash = s.fuses.vendorHash ∧
  t.fuses.repair = s.fuses.repair ∧ t.fuses.stepping = s.fuses.stepping

/-- The device has its units: 8 quadrants, 8 stacks, 16 ports and 5 clock domains (Table 1.1, Table 16.1). -/
def State.Shaped (s : State) : Prop :=
  s.quads.length = 8 ∧ s.hbm.length = 8 ∧ s.jan.ports.length = 16 ∧ s.clk.dom.length = 5

/-- The device has its units, and the maps that the statements read by key list each key once, in rising order, and
no entry that equals what an unlisted key reads as. -/
def State.Tidy (s : State) : Prop :=
  s.Shaped ∧ mapOk {} s.dir.entries = true ∧ mapOk {} s.dir.domains = true ∧ mapOk {} s.jan.routes = true ∧
  mapOk {} s.jan.bindings = true ∧ mapOk {} s.pwr.sensors = true ∧ ∀ q, mapOk {} (s.quad q).tiles = true

/-- From `s` to `t` command `c` has its final status, and every other command stands as it did. -/
def Ended (s t : State) (c : Cmd) (status detail : Nat) : Prop :=
  t.cmd c.job = some { c with
    phase := .final
    status := status
    detail := detail } ∧ ∀ i, i ≠ c.job → t.cmd i = s.cmd i

/-- Stage `n` runs: the start has not ended, it waits for no PERST_N, and the supplies are there (R601, R602). -/
def StageRuns (s : State) (n : Nat) : Prop :=
  s.start.result = 0 ∧ s.start.at_ = n ∧ s.start.waitPerst = false ∧ s.pwr.standby = .ready ∧ s.pwr.main = .on ∧
  s.clk.pm ≠ .l3

/-- TRITON hears the carrier and answers it: after READY, outside a life-cycle transition, not DECOMMISSIONED. -/
def State.Listens (s : State) (c : Carrier) : Prop :=
  s.hears c = true ∧ s.isReady = true ∧ s.tri.lcBusy = false ∧ s.lc ≠ 5

/-- The answer to a carrier: the reply, and the mailbox's BUSY ends where it was asked there. -/
def Answered (t : State) (c : Carrier) (a : Answer) : Prop :=
  t.reply = a ∧ (c = .mailbox → t.tri.mbxBusy = false ∧ t.tri.mbxDone = true)

/-- A vendor request whose envelope holds: its carrier is heard, its session is established, its reserved fields are
zero, and its LEVEL is the device's (R418, R419). -/
def State.Asks (s : State) (r : VReq) : Prop :=
  s.Listens r.carrier ∧ (∃ x, s.session r.carrier r.session = some x ∧ x.established = true) ∧ r.reservedOk = true ∧
  r.level = s.recLevel

/-- The handles of a training slot's list. -/
def State.handles (s : State) (p k : Nat) : List Nat := (s.slot p k).list.map leHandle

/-- From `s` to `t` the attempt `cm` of slot `k` of partition `p` rolled back with a cause (R356). -/
def RolledBack (s t : State) (p k : Nat) (cm : Commit) (cause : Nat) : Prop :=
  (t.slot p k).state = .accumulating ∧ (t.slot p k).commit = none ∧ (t.slot p k).list = (s.slot p k).list ∧
  (t.slot p k).seq = (s.slot p k).seq ∧ (∀ q j, q * 16 + j ≠ p * 16 + k → t.slot q j = s.slot q j) ∧
  t.train.rollbacks = bump s.train.freeze s.train.rollbacks ∧ t.dir = s.dir ∧ t.quads = s.quads ∧ t.hbm = s.hbm ∧
  ∀ c, s.cmd cm.job = some c → c.phase ≠ .final → Ended s t c stRolledBack cause

/-- From `s` to `t` slot `k` of partition `p` reached its commit point: every handle of its list turned to its other
copy and counted a step, and no other handle did (R343). -/
def Committed (s t : State) (p k : Nat) : Prop :=
  (t.slot p k).state = .clean ∧ (t.slot p k).list = [] ∧ (t.slot p k).commit = none ∧
  (t.slot p k).seq = (s.slot p k).seq + 1 ∧ t.train.commits = bump s.train.freeze s.train.commits ∧
  (∀ h, h ∈ s.handles p k → (t.entry h).live = 1 - (s.entry h).live ∧ (t.entry h).step = (s.entry h).step + 1) ∧
  (∀ h, h ∉ s.handles p k → (t.entry h).live = (s.entry h).live ∧ (t.entry h).step = (s.entry h).step) ∧
  ∀ q j, q * 16 + j ≠ p * 16 + k → t.slot q j = s.slot q j

/-- The ticket that IMPORT PREPARE writes for a partition, with its signature (Table 13.13). -/
def State.ticketOut (s : State) (p : Nat) : List Byte :=
  let k := s.ecdhe
  let n := k.2.2.draw 256
  let t := n.2.ticket p n.1.toNat k.2.1
  t.1 ++ (t.2.akSign (sha384 t.1)).1

/-- The SOURCE_HELLO that EXPORT START sends for a partition over a ticket's NONCE (R498). -/
def State.helloOut (s : State) (p : Nat) (nonce : List Byte) : List Byte := (s.ecdhe.2.2.sourceHello p nonce s.ecdhe.2.1).1

/-- The copy of a pair that STORE writes: the one that is not selected, or A (R612, R614). -/
def storeTarget (a b : Copy) : Nat := if a.valid = true ∧ (b.valid = false ∨ b.seq ≤ a.seq) then 1 else 0

/-- From `s` to `t` port `p` becomes `x`, and nothing else changes but the sources that fire. -/
def PortMoved (s t : State) (p : Nat) (x : JPort) : Prop :=
  t.port p = x ∧ (∀ q, q ≠ p → t.port q = s.port q) ∧ t = { s with
    jan := { s.jan with ports := t.jan.ports }
    sdg := t.sdg }

/-- From `s` to `t` binding `b` becomes `x`, and nothing else changes but the sources that fire. -/
def BindingMoved (s t : State) (b : Nat) (x : Binding) : Prop :=
  t.bind b = x ∧ (∀ c, c ≠ b → t.bind c = s.bind c) ∧ t = { s with
    jan := { s.jan with bindings := t.jan.bindings }
    sdg := t.sdg }

/-- Every port of a peer's set but `p` is not UP (R445). -/
def State.NoOther (s : State) (n p : Nat) : Prop :=
  ∀ q, q < 16 → bitOf (s.route n).mask q = true → q ≠ p → s.portUp q = false

/-- From `s` to `t` an OPEN binding left OPEN on an error: DOWN, and OPEN again under the next KEY_GEN where its
session is UP (R453). -/
def Dropped (s t : State) (b : Nat) : Prop :=
  ((s.sess (s.bind b).peer).state = 2 → (t.bind b).state = .open_ ∧ (t.bind b).keyGen = ((s.bind b).keyGen + 1) % 4) ∧
  ((s.sess (s.bind b).peer).state ≠ 2 → (t.bind b).state = .down ∧ (t.bind b).keyGen = (s.bind b).keyGen)

end Sys2Proof.Machine
end

