-- ==== Sys2Proof/Certificates/Slice0/Obligations.lean ====
section
/-! DEFINITION. The statements about the device. -/

open Sys2Proof Sys2Proof.Machine

/-! ### Work queues (chapter 13) -/

/-- From R484: a doorbell of a running queue moves the ring's tail or head, frees what was read, and touches nothing
else but the power state it may wake; a value out of range puts the queue into ERROR with code 1. From R485: ENABLE of
an OFF queue whose fields are legal starts it at index 0 with EPOCH 1 and PHASE 1; illegal fields put it into ERROR
with code 4; ENABLE 0 turns a queue with no command in flight OFF and lets any other one drain. -/
def Obligations.QueueRegistersActAsWritten : Prop :=
  ((∀ (s : State) (fn : Fn) (q v : Nat), s.served fn = true → s.disabling fn = false → q < Config.queues →
    (s.queue fn q).state = .running → v % 65536 < (s.queue fn q).size →
    ∃ t : State, exec (.sqDoorbell fn q v) s = .next t ∧
      t.queue fn q = { s.queue fn q with tail := v % 65536 } ∧
      (∀ fn' q', q' < Config.queues → (fn', q') ≠ (fn, q) → t.queue fn' q' = s.queue fn' q') ∧
      t = { s with host := { s.host with queues := t.host.queues }, clk := s.l2Wake.clk }) ∧
  (∀ (s : State) (fn : Fn) (q v : Nat), s.served fn = true → s.disabling fn = false → q < Config.queues →
    (s.queue fn q).state ≠ .off → v % 65536 < (s.queue fn q).size →
    (v % 65536 + (s.queue fn q).size - (s.queue fn q).head) % (s.queue fn q).size ≤
      ((s.queue fn q).cqTail + (s.queue fn q).size - (s.queue fn q).head) % (s.queue fn q).size →
    ∃ t : State, exec (.cqDoorbell fn q v) s = .next t ∧
      (t.queue fn q).head = v % 65536 ∧
      (t.queue fn q).outstanding = (s.queue fn q).outstanding -
        (v % 65536 + (s.queue fn q).size - (s.queue fn q).head) % (s.queue fn q).size ∧
      { t.queue fn q with
        head := (s.queue fn q).head, outstanding := (s.queue fn q).outstanding, done := (s.queue fn q).done } =
        s.queue fn q ∧
      (∀ fn' q', q' < Config.queues → (fn', q') ≠ (fn, q) → t.queue fn' q' = s.queue fn' q') ∧
      t = { s with host := { s.host with queues := t.host.queues }, clk := s.l2Wake.clk }) ∧
  (∀ (s : State) (fn : Fn) (q v : Nat), s.served fn = true → s.disabling fn = false → q < Config.queues →
    (s.queue fn q).state = .running → (s.queue fn q).size ≤ v % 65536 →
    exec (.sqDoorbell fn q v) s = .next ((s.l2Wake.modQueue fn q (fun x => { x with
      state := .error
      err := 1 })).fire 0x124) ∧
    exec (.cqDoorbell fn q v) s = .next ((s.l2Wake.modQueue fn q (fun x => { x with
      state := .error
      err := 1 })).fire 0x124))) ∧
  ((∀ (s : State) (fn : Fn) (q cfg : Nat), s.served fn = true → q < Config.queues → bitOf cfg 31 = true →
    (s.queue fn q).state = .off →
    4 ≤ bitsOf cfg 24 4 → (∀ n, s.ctxLimit fn = some n → bitsOf cfg 12 12 < n) → bitsOf cfg 0 11 < s.vectorsOf fn →
    ∃ t : State, exec (.queueEnable fn q cfg) s = .next t ∧
      t.queue fn q = {
        sq := (s.queue fn q).sq
        cq := (s.queue fn q).cq
        enable := true
        sizeLog2 := bitsOf cfg 24 4
        context := bitsOf cfg 12 12
        irqEn := bitOf cfg 11
        vector := bitsOf cfg 0 11
        state := .running } ∧
      (∀ fn' q', q' < Config.queues → (fn', q') ≠ (fn, q) → t.queue fn' q' = s.queue fn' q') ∧
      t = { s with host := { s.host with queues := t.host.queues } }) ∧
  (∀ (s : State) (fn : Fn) (q cfg : Nat), s.served fn = true → q < Config.queues → bitOf cfg 31 = true →
    (s.queue fn q).state = .off → bitsOf cfg 24 4 < 4 →
    ∃ t : State, exec (.queueEnable fn q cfg) s = .next t ∧ (t.queue fn q).state = .error ∧ (t.queue fn q).err = 4) ∧
  (∀ (s : State) (fn : Fn) (q cfg : Nat), s.served fn = true → q < Config.queues → bitOf cfg 31 = false →
    (s.queue fn q).state ≠ .off →
    ∃ t : State, exec (.queueDisable fn q cfg) s = .next t ∧
      t.queue fn q = { s.queue fn q with
        enable := false
        state := if (s.queueCmds fn q).isEmpty then .off else .draining } ∧
      (∀ fn' q', q' < Config.queues → (fn', q') ≠ (fn, q) → t.queue fn' q' = s.queue fn' q') ∧
      t = { s with host := { s.host with queues := t.host.queues } }))

/-- From R484: a fetch takes the descriptor at SQ_HEAD. One that passes the checks of Table 13.4 is accepted in order,
its JOB_ID made of EPOCH, queue and index; one that fails them is a refused command whose status is the first check's.
From R486: the record of a command whose final status is fixed is written at the ring's tail, PHASE turns over where
the tail wraps, and the command leaves. A command without rows that sends no message changes no other byte. -/
def Obligations.DescriptorsComeInAndRecordsGoOut : Prop :=
  (∀ (s : State) (fn : Fn) (q : Nat) (d : List Byte), s.fetchable fn q = true →
    s.hostRead ((s.queue fn q).sq + 128 * (s.queue fn q).sqHead) 128 = some d →
    ∃ t : State, exec (.descriptorFetch fn q) s = .next t ∧
      (t.queue fn q).sqHead = ((s.queue fn q).sqHead + 1) % (s.queue fn q).size ∧
      (t.queue fn q).outstanding = (s.queue fn q).outstanding + 1 ∧
      (s.descCheck fn d = none →
        t.host.cmds = s.host.cmds ++ [s.cmdOf fn q d] ∧ t.glb = { s.glb with locked := true } ∧
        t.host.refused = s.host.refused) ∧
      (∀ st det, s.descCheck fn d = some (st, det) →
        t.host.cmds = s.host.cmds ++ [{ s.cmdOf fn q d with
          phase := .final
          status := st
          detail := det }] ∧
        t.glb = s.glb ∧ t.host.accepted = s.host.accepted) ∧
      (s.cmdOf fn q d).job = ⟨fn, (s.queue fn q).epoch * 2 ^ 28 + q * 2 ^ 16 + (s.queue fn q).sqHead⟩ ∧
      t.host.mem = s.host.mem ∧
      t = { s with host := t.host, glb := t.glb, parts := t.parts, par := t.par }) ∧
  ((∀ (s : State) (j : JobRef) (c : Cmd), s.cmd j = some c → s.recordDue c = true → c.mute = false → c.rows = [] →
    ((s.queue j.fn c.q).irqEn && !bitOf c.flags 1) = false → (s.queue j.fn c.q).state = .running →
    s.hostOk ((s.queue j.fn c.q).cq + 32 * (s.queue j.fn c.q).cqTail) 32 = true →
    ∃ t : State, exec (.commandComplete j) s = .next t ∧
      Mem.readN t.host.mem ((s.queue j.fn c.q).cq + 32 * (s.queue j.fn c.q).cqTail) 32 =
        c.record s.recLevel (s.queue j.fn c.q).phase ∧
      (∀ a, a < (s.queue j.fn c.q).cq + 32 * (s.queue j.fn c.q).cqTail ∨
        (s.queue j.fn c.q).cq + 32 * (s.queue j.fn c.q).cqTail + 32 ≤ a → Mem.read t.host.mem a = Mem.read s.host.mem a) ∧
      t.sdg = s.sdg ∧ t.parts = s.parts ∧ t.quads = s.quads ∧ t.hbm = s.hbm ∧ t.train = s.train ∧ t.jan = s.jan ∧
      t.glb = s.glb ∧ t.clk = s.clk ∧ t.tri = s.tri ∧ t.vault = s.vault) ∧
  (∀ (s : State) (j : JobRef) (c : Cmd), s.cmd j = some c → s.recordDue c = true → c.mute = false →
    (s.queue j.fn c.q).state = .running →
    s.hostOk ((s.queue j.fn c.q).cq + 32 * (s.queue j.fn c.q).cqTail) 32 = true →
    ∃ t : State, exec (.commandComplete j) s = .next t ∧
      (t.queue j.fn c.q).cqTail = ((s.queue j.fn c.q).cqTail + 1) % (s.queue j.fn c.q).size ∧
      (t.queue j.fn c.q).phase = (if ((s.queue j.fn c.q).cqTail + 1) % (s.queue j.fn c.q).size = 0
        then !(s.queue j.fn c.q).phase else (s.queue j.fn c.q).phase) ∧
      (t.queue j.fn c.q).done = (s.queue j.fn c.q).done ++ [j.job] ∧
      (∀ d ∈ t.host.cmds, ¬ (d.job = c.job ∧ d.order = c.order))))

/-! ### Events, interrupts and collectors (chapter 14) -/

/-- From R518: a fire and an EOI move a source as Table 14.4 says, and no other source moves. An EOI through SDG_EOI
of a source that is not delivered to the PF changes nothing. -/
def Obligations.SourcesFollowTheirTable : Prop :=
  (∀ (s : State) (n : Nat), reservedSource n = false → s.srcEnabled n = true →
    (mget {} (s.fire n).sdg.src n).phase = (match (mget {} s.sdg.src n).phase with
      | .inactive => .pending
      | .pending => .pending
      | .active => .activePending
      | .activePending => .activePending) ∧
    (∀ m, m ≠ n → mget {} (s.fire n).sdg.src m = mget {} s.sdg.src m) ∧
    s.fire n = { s with sdg := { s.sdg with src := (s.fire n).sdg.src, coalesced := (s.fire n).sdg.coalesced } }) ∧
  (∀ (s : State) (v : Nat), s.hostUp = true → pfSource (v % 1024) = true ∨ v % 1024 = 0x300 →
    ∃ t : State, exec (.sdgEoi v) s = .next t ∧
      (mget {} t.sdg.src (v % 1024)).phase = (match (mget {} s.sdg.src (v % 1024)).phase with
        | .inactive => .inactive
        | .pending => .pending
        | .active => .inactive
        | .activePending => .pending) ∧
      (∀ m, m ≠ v % 1024 → mget {} t.sdg.src m = mget {} s.sdg.src m) ∧
      t = { s with sdg := { s.sdg with src := t.sdg.src } }) ∧
  (∀ (s : State) (v : Nat), pfSource (v % 1024) = false → v % 1024 ≠ 0x300 → exec (.sdgEoi v) s = .next s) ∧
  (∀ (s : State) (fn : Fn) (n : Nat), s.served fn = true → s.ringSourceOf fn = some n →
    ∃ t : State, exec (.sdgVfEvrEoi fn) s = .next t ∧
      (mget {} t.sdg.src n).phase = (match (mget {} s.sdg.src n).phase with
        | .inactive => .inactive
        | .pending => .pending
        | .active => .inactive
        | .activePending => .pending) ∧
      (∀ m, m ≠ n → mget {} t.sdg.src m = mget {} s.sdg.src m) ∧
      t = { s with sdg := { s.sdg with src := t.sdg.src } })

/-- From R514, R515, R518: an event ring starts at TAIL 0 with PHASE 1, moves its HEAD, turns OFF, and enters ERROR on
a value its rule forbids; IRQ_EN 0 withdraws what its source has pending; every other ring and source stays. -/
def Obligations.EventRingsStartMoveAndStop : Prop :=
  (∀ (s : State) (fn : Fn) (cfg : Nat), s.served fn = true → (s.ring fn).state = .off → 6 ≤ bitsOf cfg 24 4 →
    bitsOf cfg 0 11 < s.vectorsOf fn →
    ∃ t : State, exec (.eventRingEnable fn cfg) s = .next t ∧
      t.ring fn = { s.ring fn with
        enable := true
        sizeLog2 := bitsOf cfg 24 4
        irqEn := bitOf cfg 11
        vector := bitsOf cfg 0 11
        state := .running
        tail := 0
        head := 0
        phase := true
        lostFlag := false } ∧
      (∀ fn', fn' ≠ fn → t.ring fn' = s.ring fn') ∧
      (∀ n, mget {} t.sdg.src n =
        if bitOf cfg 11 = false ∧ s.ringSourceOf fn = some n then (mget {} s.sdg.src n).withdraw
        else mget {} s.sdg.src n) ∧
      t = { s with host := { s.host with rings := t.host.rings }, sdg := { s.sdg with src := t.sdg.src } }) ∧
  (∀ (s : State) (fn : Fn) (cfg : Nat), s.served fn = true → (s.ring fn).state = .off →
    bitsOf cfg 24 4 < 6 ∨ s.vectorsOf fn ≤ bitsOf cfg 0 11 →
    ∃ t : State, exec (.eventRingEnable fn cfg) s = .next t ∧ (t.ring fn).state = .error ∧
      ∀ fn', fn' ≠ fn → t.ring fn' = s.ring fn') ∧
  (∀ (s : State) (fn : Fn) (cfg : Nat), s.served fn = true →
    ∃ t : State, exec (.eventRingDisable fn cfg) s = .next t ∧
      (t.ring fn).state = .off ∧ (t.ring fn).enable = false ∧
      (t.ring fn).tail = (s.ring fn).tail ∧ (t.ring fn).lost = (s.ring fn).lost ∧
      (∀ fn', fn' ≠ fn → t.ring fn' = s.ring fn') ∧
      (∀ n, mget {} t.sdg.src n =
        if (s.ring fn).state = .off ∧ bitOf cfg 11 = false ∧ s.ringSourceOf fn = some n then (mget {} s.sdg.src n).withdraw
        else mget {} s.sdg.src n) ∧
      t = { s with host := { s.host with rings := t.host.rings }, sdg := { s.sdg with src := t.sdg.src } }) ∧
  (∀ (s : State) (fn : Fn) (v : Nat), s.served fn = true → (s.ring fn).state = .running →
    v % 65536 < 2 ^ (s.ring fn).sizeLog2 →
    ∃ t : State, exec (.sdgVfEvrHead fn v) s = .next t ∧ t.ring fn = { s.ring fn with head := v % 65536 } ∧
      (∀ fn', fn' ≠ fn → t.ring fn' = s.ring fn') ∧
      t = { s with host := { s.host with rings := t.host.rings } }) ∧
  (∀ (s : State) (fn : Fn) (v : Nat), s.served fn = true → (s.ring fn).state = .running →
    2 ^ (s.ring fn).sizeLog2 ≤ v % 65536 →
    ∃ t : State, exec (.sdgVfEvrHead fn v) s = .next t ∧ (t.ring fn).state = .error ∧
      (mget {} t.sdg.src 0x124) = (mget {} (s.fire 0x124).sdg.src 0x124))

/-- From R511, R512, R514, R515: an event is written once ORBIT has passed its ORBIT + 64, to the PF ring and to its
partition's ring; a record goes to TAIL with PHASE and LOST, changes no other byte, and is dropped and marked where
the ring is full. -/
def Obligations.EventsReachTheRings : Prop :=
  (∀ (s : State) (e : Event) (es : List Event), s.sdg.reorder = e :: es → e.orbit + 65 ≤ s.now →
    (vfCode e.code = false ∨ e.part = 0xFF ∨ s.fnOfPart e.part = none →
      exec .eventRingWrite s = .next (({ s with sdg := { s.sdg with reorder := es } } : State).ringPut .pf e)) ∧
    (∀ fn, vfCode e.code = true → e.part ≠ 0xFF → s.fnOfPart e.part = some fn →
      exec .eventRingWrite s =
        .next ((({ s with sdg := { s.sdg with reorder := es } } : State).ringPut .pf e).ringPut fn e))) ∧
  (∀ (s : State) (e : Event) (es : List Event), s.sdg.reorder = e :: es → s.now < e.orbit + 65 →
    exec .eventRingWrite s = .next s) ∧
  (∀ (s : State) (fn : Fn) (e : Event), (s.ring fn).codes.getLsbD e.code = true → (s.ring fn).state = .running →
    ((s.ring fn).tail + 1) % 2 ^ (s.ring fn).sizeLog2 ≠ (s.ring fn).head →
    s.hostOk ((s.ring fn).addr + 32 * (s.ring fn).tail) 32 = true →
    Mem.readN (s.ringPut fn e).host.mem ((s.ring fn).addr + 32 * (s.ring fn).tail) 32 =
      e.bytes (s.ring fn).phase (s.ring fn).lostFlag ∧
    (∀ a, a < (s.ring fn).addr + 32 * (s.ring fn).tail ∨ (s.ring fn).addr + 32 * (s.ring fn).tail + 32 ≤ a →
      Mem.read (s.ringPut fn e).host.mem a = Mem.read s.host.mem a) ∧
    (s.ringPut fn e).ring fn = { s.ring fn with
      tail := ((s.ring fn).tail + 1) % 2 ^ (s.ring fn).sizeLog2
      lostFlag := false
      phase := if ((s.ring fn).tail + 1) % 2 ^ (s.ring fn).sizeLog2 = 0 then !(s.ring fn).phase else (s.ring fn).phase }) ∧
  (∀ (s : State) (fn : Fn) (e : Event), (s.ring fn).codes.getLsbD e.code = true → (s.ring fn).state = .running →
    ((s.ring fn).tail + 1) % 2 ^ (s.ring fn).sizeLog2 = (s.ring fn).head →
    (s.ringPut fn e).host.mem = s.host.mem ∧
    (s.ringPut fn e).ring fn = { s.ring fn with
      lost := (s.ring fn).lost + 1
      lostFlag := true })

/-- From R519, R522: a delivery decision takes, of the PENDING sources that nothing masks, the one whose first fire is
earliest, and then the lowest number. It becomes ACTIVE, the message is the vector's address and data, and no other
byte and no other source changes. While GDIS is 1 nothing happens. From R509, R522, R530, R534: a write of SDG_CTRL
sets GDIS and FREEZE; a write of SDG_SRC_CFGn sets its three fields and, with ENABLE 0, withdraws what is pending;
CLEAR zeroes the counters and every COALESCED; an edge on ORBIT_SYNC captures ORBIT and fires source 0x392. -/
def Obligations.DeliveryFollowsItsControls : Prop :=
  ((∀ (s : State) (d n : Nat), s.takeable d = some n →
    (∃ c, (n, c) ∈ s.sdg.src ∧ c.phase = .pending ∧ s.heldOff n (d - 16) = false ∧
      ∀ m b, (m, b) ∈ s.sdg.src → b.phase = .pending → s.heldOff m (d - 16) = false →
        c.firstFire < b.firstFire ∨ (c.firstFire = b.firstFire ∧ n ≤ m))) ∧
  (∀ (s : State) (n v : Nat) (fn : Fn), s.sdg.gdis.at_ (s.now - 16) = false → s.heldReady s.now = none →
    s.takeable s.now = some n → s.target n = some (fn, v) → v < s.vectorsOf fn →
    ∃ t : State, exec .deliveryDecision s = .next t ∧
      mget {} t.sdg.src n = { mget {} s.sdg.src n with phase := .active } ∧
      (∀ m, m ≠ n → mget {} t.sdg.src m = mget {} s.sdg.src m) ∧
      Mem.readN t.host.mem (s.msixEntry fn v).addr 4 = leBytes 4 (s.msixEntry fn v).data ∧
      (∀ a, a < (s.msixEntry fn v).addr ∨ (s.msixEntry fn v).addr + 4 ≤ a →
        Mem.read t.host.mem a = Mem.read s.host.mem a) ∧
      t = { s with sdg := t.sdg, host := { s.host with mem := t.host.mem } }) ∧
  (∀ (s : State), s.sdg.gdis.at_ (s.now - 16) = true → exec .deliveryDecision s = .next s)) ∧
  ((∀ (s : State) (v : Nat), s.hostUp = true →
    ∃ t : State, exec (.gdisWrite v) s = .next t ∧ t.sdg.gdis.now = bitOf v 31 ∧ t.sdg.freeze = bitOf v 0 ∧
      t = { s with sdg := { s.sdg with gdis := t.sdg.gdis, freeze := t.sdg.freeze } }) ∧
  (∀ (s : State) (n v : Nat), s.hostUp = true → pfSource n = true →
    ∃ t : State, exec (.srcCfgWrite n v) s = .next t ∧
      (mget {} t.sdg.cfg n).enable = bitOf v 31 ∧ (mget {} t.sdg.cfg n).mask.now = bitOf v 30 ∧
      (mget {} t.sdg.cfg n).vector = v % 2048 ∧
      (∀ m, m ≠ n → mget {} t.sdg.cfg m = mget {} s.sdg.cfg m ∧ mget {} t.sdg.src m = mget {} s.sdg.src m) ∧
      (mget {} t.sdg.src n).phase = (if bitOf v 31 then (mget {} s.sdg.src n).phase else
        match (mget {} s.sdg.src n).phase with
        | .pending => .inactive
        | .activePending => .active
        | ph => ph) ∧
      t = { s with sdg := { s.sdg with cfg := t.sdg.cfg, src := t.sdg.src } }) ∧
  (∀ (s : State), s.hostUp = true →
    ∃ t : State, exec .sdgClear s = .next t ∧
      t.sdg.delivered = 0 ∧ t.sdg.coalesced = 0 ∧ t.sdg.window = 0 ∧ t.sdg.evLost = 0 ∧
      (∀ p ∈ t.sdg.src, p.2.coalesced = 0) ∧
      t = { s with sdg := { s.sdg with
        delivered := 0
        coalesced := 0
        window := 0
        evLost := 0
        src := t.sdg.src } }) ∧
  (∀ (s : State), (s.clk.dom.getD 2 {}).running = true → s.clk.pm ≠ .l3 →
    exec .orbitSyncEdge s = .next (State.fire (n := 0x392) { s with orbit := { s.orbit with
      cap := s.now
      capValid := true
      overrun := s.orbit.overrun || s.orbit.capValid } })))

/-- From R524, R525: a collector keeps its entries in order of stamp and source, never drops a post, holds what has no
entry at its poster, and passes the oldest entry to the command processor; a clear of its counter lets every tile fire
again. -/
def Obligations.CollectorsKeepEveryPost : Prop :=
  (∀ (s : State) (q : Nat) (ps : List Post), q < s.quads.length → (s.quad q).cc.entries.length ≤ Config.collectorEntries →
    ∃ t : State, exec (.collectorAccept q ps) s = .next t ∧
      (t.quad q).cc.entries.length ≤ Config.collectorEntries ∧
      (∀ p, p ∈ (t.quad q).cc.entries ++ (t.quad q).cc.held ↔
        p ∈ (s.quad q).cc.entries ++ (s.quad q).cc.held ++ ps) ∧
      ((s.quad q).cc.entries.length + (s.quad q).cc.held.length + ps.length ≤ Config.collectorEntries →
        (t.quad q).cc.held = []) ∧
      ((s.quad q).cc.entries.Pairwise (fun a b => Post.le a b = true) →
        (t.quad q).cc.entries.Pairwise (fun a b => Post.le a b = true)) ∧
      t = { s with quads := t.quads, sdg := t.sdg }) ∧
  (∀ (s : State) (q : Nat) (p : Post) (ps : List Post) (c : Cmd), q < s.quads.length → (s.quad q).cc.entries = p :: ps →
    s.cmd p.job = some c → c.dispatched = true → c.expect.all (fun x => (c.posted ++ [p.source]).contains x) = false →
    ∃ t d, exec (.collectorDrain q) s = .next t ∧ (t.quad q).cc.entries = ps ∧ t.cmd p.job = some d ∧
      p.source ∈ d.posted ∧ d.vflags = c.vflags ||| p.vflags ∧ d.res0 = min 0xFFFFFFFF (c.res0 + p.stall) ∧
      d.lastPost = max c.lastPost p.stamp ∧
      t = { s with quads := t.quads, host := { s.host with cmds := t.host.cmds } }) ∧
  (∀ (s : State) (q : Nat), s.hostUp = true → q < s.quads.length →
    ∃ t : State, exec (.ccCountersClear q) s = .next t ∧
      t.quad q = { s.quad q with cc := { (s.quad q).cc with bpCycles := 0, fired := [] } } ∧
      (∀ r, r ≠ q → t.quad r = s.quad r) ∧ t = { s with quads := t.quads })

/-- From R494, with a command taken to have completed when its final status is fixed (the model's choice, log entry 3): a
command with WAIT_PREV waits for the one accepted before it from its queue; a FENCE completes when every command accepted
before it from its scope has completed, and waits until then, while no later command of its scope is fetched. From R495: an
ABORT ends a command that has not taken effect with ST_ABORTED and itself with ST_OK, ends a job not yet dispatched the same
way, and marks a dispatched one for its tiles' boundaries; one whose target has its final status, or is an ABORT, ends with
ST_ALREADY_DONE, and one that names no command of the function ends with ST_STALE_HANDLE. -/
def Obligations.AbortEndsAndFenceWaits : Prop :=
  (∀ (s : State) (j : JobRef) (c : Cmd) (peer : PeerCheck) (ok : Bool), s.cmd j = some c → bitOf c.flags 0 = true →
    (∃ d ∈ s.host.cmds, d.job.fn = c.job.fn ∧ d.q = c.q ∧ d.order < c.order ∧ d.phase ≠ .final) →
    ∀ i ∈ [Instr.abort j, .fence j, .scrubContext j, .scrubAlloc j, .scrubFree j, .querySeed j, .queryHandle j,
      .queryPartition j, .loadBase j, .patchLayer j, .retireBase j, .adapterRegister j, .adapterBind j, .adapterBindRelease j,
      .adapterEvictOffload j, .adapterEvictRemove j, .commitStepCommit j, .commitStepStart j, .commitStepDiscard j,
      .resolveCommit j, .resolveRollback j, .exportStart j peer, .exportRound j, .exportFinal j, .exportCancel j,
      .exportRelease j, .importPrepare j, .importLoad j peer, .importFinish j, .importCancel j, .storeStructure j ok,
      .storeSettings j ok, .jobDispatch j],
      exec i s = .next s) ∧
  (∀ (s : State) (fn : Fn) (q : Nat) (c : Cmd), c ∈ s.host.cmds → c.op = 0x21 → c.phase ≠ .final → c.job.fn = fn →
    (c.param 0x20 1 = 1 ∨ c.q = q) → exec (.descriptorFetch fn q) s = .next s) ∧
  ((∀ (s : State) (j : JobRef) (c d : Cmd), s.due j 0x20 = some c → s.cmd ⟨j.fn, c.param 0x20 4⟩ = some d → d.job ≠ j →
    d.phase = .accepted → d.op ≠ 0x20 → isJobOp d.op = false →
    ∃ t : State, exec (.abort j) s = .next t ∧
      t.cmd d.job = some { d with
        phase := .final
        status := stAborted
        detail := 0 } ∧
      t.cmd j = some { c with
        phase := .final
        status := stOk
        detail := 0
        after := some d.job } ∧
      (∀ i, i ≠ j → i ≠ d.job → t.cmd i = s.cmd i) ∧
      t = { s with host := { s.host with cmds := t.host.cmds } }) ∧
  (∀ (s : State) (j : JobRef) (c d : Cmd), s.due j 0x20 = some c → s.cmd ⟨j.fn, c.param 0x20 4⟩ = some d →
    d.phase ≠ .final → isJobOp d.op = true →
    ∃ t e a, exec (.abort j) s = .next t ∧ t.cmd d.job = some e ∧ e.aborted = true ∧
      (d.dispatched = false → e.phase = .final ∧ e.status = stAborted ∧ e.count = d.rows.length) ∧
      t.cmd j = some a ∧ a.phase = .final ∧ a.status = stOk ∧ a.after = some d.job) ∧
  (∀ (s : State) (j : JobRef) (c d : Cmd), s.due j 0x20 = some c → s.cmd ⟨j.fn, c.param 0x20 4⟩ = some d →
    (d.phase = .final ∨ d.op = 0x20) →
    ∃ t e, exec (.abort j) s = .next t ∧ t.cmd j = some e ∧ e.phase = .final ∧ e.status = stAlreadyDone ∧
      (∀ i, i ≠ j → t.cmd i = s.cmd i) ∧
      t = { s with host := { s.host with cmds := t.host.cmds, abortLate := bump s.host.freeze s.host.abortLate } }) ∧
  (∀ (s : State) (j : JobRef) (c : Cmd), s.due j 0x20 = some c → s.cmd ⟨j.fn, c.param 0x20 4⟩ = none →
    ((s.queue j.fn (bitsOf (c.param 0x20 4) 16 6)).done.contains (c.param 0x20 4) = false →
      ∃ t : State, exec (.abort j) s = .next t ∧ Ended s t c stStale 0) ∧
    ((s.queue j.fn (bitsOf (c.param 0x20 4) 16 6)).done.contains (c.param 0x20 4) = true →
      ∃ t : State, exec (.abort j) s = .next t ∧ Ended s t c stAlreadyDone 0))) ∧
  (∀ (s : State) (j : JobRef) (c : Cmd), s.due j 0x21 = some c →
    ((∀ d ∈ s.host.cmds, d.job.fn = j.fn → d.order < c.order → (c.param 0x20 1 = 1 ∨ d.q = c.q) → d.phase = .final) →
      ∃ t : State, exec (.fence j) s = .next t ∧ Ended s t c stOk 0 ∧
        t = { s with host := { s.host with cmds := t.host.cmds } }) ∧
    ((∃ d ∈ s.host.cmds, d.job.fn = j.fn ∧ d.order < c.order ∧ (c.param 0x20 1 = 1 ∨ d.q = c.q) ∧ d.phase ≠ .final) →
      exec (.fence j) s = .next s))

/-- From R493: a QUERY writes its answer at its address, changes no other byte, and returns the answer's length. The
answers are the SEED words of a handle, the four directory words of a handle as its partition sees it, and the status
word of the partition with the free stripes of its general region in each logical quadrant. -/
def Obligations.QueriesWriteTheirAnswer : Prop :=
  ∀ (s : State) (j : JobRef) (c : Cmd) (i : Instr) (bs : List Byte), s.due j 0x23 = some c →
    (c.param 0x20 1 = 1 ∧ i = .querySeed j ∧
        bs = (List.range (manTensors (s.entryFor c.part (c.param 0x22 2)).manifestBytes)).flatMap
          (fun k => leBytes 4 ((s.entryFor c.part (c.param 0x22 2)).seeds.getD k 0)) ∨
      c.param 0x20 1 = 2 ∧ i = .queryHandle j ∧ bs = (s.entryFor c.part (c.param 0x22 2)).words.flatMap (leBytes 4) ∨
      c.param 0x20 1 = 3 ∧ i = .queryPartition j ∧
        bs = leBytes 4 (s.part c.part).vfStatus ++ (List.range 8).flatMap (fun q => leBytes 4 (s.freeStripes c.part q))) →
    bs.length ≤ c.param 0x24 4 → s.hostOk (c.param 0x28 8) bs.length = true →
    ∃ t : State, exec i s = .next t ∧
      Mem.readN t.host.mem (c.param 0x28 8) bs.length = bs ∧
      (∀ a, a < c.param 0x28 8 ∨ c.param 0x28 8 + bs.length ≤ a → Mem.read t.host.mem a = Mem.read s.host.mem a) ∧
      t.cmd j = some { c with
        phase := .final
        status := stOk
        detail := 0
        res0 := bs.length } ∧
      (∀ k, k ≠ j → t.cmd k = s.cmd k) ∧
      t = { s with host := { s.host with mem := t.host.mem, cmds := t.host.cmds } }

/-- From R389, R493: a SCRUB of an idle context clears the shares it holds in every tile, or drops its image; an ALLOC
gives free stripes of the general region their owner, and a FREE of stripes of that owner takes their attributes away
and queues their pages for the zero-fill. No other page changes. -/
def Obligations.ScrubClearsAllocatesAndFrees : Prop :=
  (∀ (s : State) (j : JobRef) (c : Cmd) (x : Ctx), s.Shaped → s.due j 0x22 = some c → c.param 0x20 1 = 0 →
    c.param 0x22 2 < (s.part c.part).ctxCount → s.act c.part (c.param 0x22 2) = 0 →
    (s.part c.part).ctxs[c.param 0x22 2]? = some x →
    (x.res = .resident →
      ∃ t : State, exec (.scrubContext j) s = .next t ∧ Ended s t c stOk 0 ∧
        (∀ tl ∈ (s.part c.part).tiles, tl.q < 8 → ∀ n ∈ slotShares (s.part c.part).s x.slot,
          (∀ e ∈ (t.tile tl).scratch.lines, e.1 / shareLines ≠ n) ∧ (∀ e ∈ (t.tile tl).treg, e.1 / 256 ≠ n) ∧
          ∀ e ∈ (t.tile tl).tags, e.1 / 64 ≠ n) ∧
        (∀ tl, tl ∉ (s.part c.part).tiles → t.tile tl = s.tile tl) ∧
        t = { s with
          quads := t.quads
          par := { s.par with scrubs := t.par.scrubs }
          host := { s.host with cmds := t.host.cmds } }) ∧
    (x.res = .swapped →
      ∃ t : State, exec (.scrubContext j) s = .next t ∧ Ended s t c stOk 0 ∧
        (t.part c.part).ctxs[c.param 0x22 2]? = some { x with image := none } ∧
        (∀ p, p ≠ c.part → t.part p = s.part p) ∧
        t = { s with parts := t.parts, host := { s.host with cmds := t.host.cmds } })) ∧
  (∀ (s : State) (j : JobRef) (c : Cmd) (k : Nat), s.Shaped → s.due j 0x22 = some c → c.param 0x20 1 = 1 →
    s.scrubDomainOk c = true → s.scrubStripes c (s.generalStripes c.part (c.param 0x21 1)) = some k →
    (∀ i, i < c.param 0x24 4 → s.stripeFree c.part (c.param 0x21 1) 4 (k + i) = true) →
    ∃ t : State, exec (.scrubAlloc j) s = .next t ∧ Ended s t c stOk 0 ∧
      (∀ x ∈ s.stripePages c.part (c.param 0x21 1) 4 k (c.param 0x24 4), x.1 < 8 →
        mget {} (t.stack x.1).pages (x.2.1 * 576 + x.2.2) = targetAttr (c.param 0x22 2)) ∧
      (∀ g pg, (∀ x ∈ s.stripePages c.part (c.param 0x21 1) 4 k (c.param 0x24 4), ¬ (x.1 = g ∧ x.2.1 * 576 + x.2.2 = pg)) →
        mget {} (t.stack g).pages pg = mget {} (s.stack g).pages pg) ∧
      t = { s with hbm := t.hbm, host := { s.host with cmds := t.host.cmds } }) ∧
  (∀ (s : State) (j : JobRef) (c : Cmd) (k : Nat), s.Shaped → s.due j 0x22 = some c → c.param 0x20 1 = 2 →
    s.scrubDomainOk c = true → s.scrubStripes c (s.generalStripes c.part (c.param 0x21 1)) = some k →
    (∀ x ∈ s.stripePages c.part (c.param 0x21 1) 4 k (c.param 0x24 4),
      mget {} (s.stack x.1).pages (x.2.1 * 576 + x.2.2) = targetAttr (c.param 0x22 2)) →
    ∃ t : State, exec (.scrubFree j) s = .next t ∧ Ended s t c stOk 0 ∧
      (∀ x ∈ s.stripePages c.part (c.param 0x21 1) 4 k (c.param 0x24 4), x.1 < 8 →
        mget {} (t.stack x.1).pages (x.2.1 * 576 + x.2.2) = {} ∧ t.zfPending x.1 x.2.1 x.2.2 = true) ∧
      (∀ g pg, (∀ x ∈ s.stripePages c.part (c.param 0x21 1) 4 k (c.param 0x24 4), ¬ (x.1 = g ∧ x.2.1 * 576 + x.2.2 = pg)) →
        mget {} (t.stack g).pages pg = mget {} (s.stack g).pages pg) ∧
      t = { s with hbm := t.hbm, host := { s.host with cmds := t.host.cmds } })

/-! ### Contexts (chapter 10) -/

/-- From R374, R377: the candidate of a swap decision is RUNNABLE, swapped out and of the highest priority; it takes a
free slot, or the slot of the victim that has waited longest once every resident context has waited for the block
time. A priority is written up to the partition's largest, and one written during a switch applies after it (R385). -/
def Obligations.SwapDecisionsFollowTheirTable : Prop :=
  (∀ (s : State) (p i : Nat) (x : Ctx), s.candidate p = some (i, x) →
    (s.part p).ctxs[i]? = some x ∧ x.res = .swapped ∧ s.act p i = 1 ∧
    ∀ k y, (s.part p).ctxs[k]? = some y → y.res = .swapped → s.act p k = 1 → y.prio ≤ x.prio) ∧
  (∀ (s : State) (p i k : Nat) (x : Ctx), (s.part p).state = .active → (s.part p).switch = none →
    (s.part p).suspended = false → (s.refresh p).candidate p = some (i, x) → ((s.refresh p).part p).freeSlot = some k →
    ∃ t : State, exec (.swapBlockTimer p) s = .next t ∧
      (t.part p).switch = some ⟨i, none, k, .restoring⟩ ∧
      (t.part p).ctxs[i]? = some { x with
        res := .restoring
        slot := k } ∧
      t.par = { s.par with swapFree := bump s.par.freeze s.par.swapFree } ∧
      (∀ q, q ≠ p → t.part q = s.part q) ∧ t = { s with parts := t.parts, par := t.par }) ∧
  (∀ (s : State) (p : Nat) (x v w : Nat × Ctx), (s.part p).state = .active → (s.part p).switch = none →
    (s.part p).suspended = false → (s.refresh p).candidate p = some x → ((s.refresh p).part p).freeSlot = none →
    minBy victimLe2 ((s.refresh p).part p).swappable = some v → x.2.prio ≤ v.2.prio →
    (∀ y ∈ ((s.refresh p).part p).swappable, ∃ b, y.2.since = some b ∧ b + 1200 * s.par.block ≤ s.now) →
    minBy victimLe3 ((s.refresh p).part p).swappable = some w →
    ∃ t : State, exec (.swapBlockTimer p) s = .next t ∧
      (t.part p).switch = some ⟨x.1, some w.1, w.2.slot, .quiescing⟩ ∧
      t.par = { s.par with swapBlocked := bump s.par.freeze s.par.swapBlocked } ∧
      (∀ q, q ≠ p → t.part q = s.part q) ∧ t = { s with parts := t.parts, par := t.par }) ∧
  (∀ (s : State) (v i p val : Nat) (x : Ctx), s.served (.vf v) = true → s.partOfVf v = some p →
    i < (s.part p).ctxCount → (s.part p).ctxs[i]? = some x →
    ∃ t : State, exec (.priorityWrite v i val) s = .next t ∧
      ((t.part p).ctxs[i]?.map Ctx.prio) = some (if (s.part p).switch = none then min (s.part p).prioMax (val % 8) else x.prio) ∧
      ((t.part p).ctxs[i]?.map Ctx.prioNext) = some (if (s.part p).switch = none then x.prioNext else some (min (s.part p).prioMax (val % 8))) ∧
      (∀ k, k ≠ i → ((t.part p).ctxs[k]?.map Ctx.prio) = ((s.part p).ctxs[k]?.map Ctx.prio)) ∧
      (∀ q, q ≠ p → t.part q = s.part q) ∧ t = { s with parts := t.parts, par := t.par })

/-- From R379, R383, R385: a switch saves its victim once every tile has quiesced it; the saved victim is SWAPPED with
its image, its records' pages dirty while logging is on (R231), the candidate takes the slot, and it ends RESIDENT.
From R382: when a restore is done, no line of a DOMAIN or ROW kind lies in the context's shares unless its domain is open, whatever the image held; lines outside those
shares are as they were. -/
def Obligations.SwitchesSaveAndRestore : Prop :=
  ((∀ (s : State) (p c v k : Nat) (y : Ctx), (s.part p).switch = some ⟨c, some v, k, .quiescing⟩ →
    (∀ tl ∈ (s.part p).tiles, quiet (s.tile tl) v = true) → (s.part p).ctxs[v]? = some y →
    ∃ t : State, exec (.switchStart p) s = .next t ∧
      (t.part p).switch = some ⟨c, some v, k, .saving⟩ ∧ (t.part p).ctxs[v]? = some { y with res := .saving } ∧
      (∀ i, i ≠ v → (t.part p).ctxs[i]? = (s.part p).ctxs[i]?) ∧
      (∀ q, q ≠ p → t.part q = s.part q) ∧ t = { s with parts := t.parts }) ∧
  (∀ (s : State) (p c v k : Nat) (y x : Ctx), (s.part p).switch = some ⟨c, some v, k, .saving⟩ → c ≠ v →
    (s.part p).ctxs[v]? = some y → (s.part p).ctxs[c]? = some x →
    ∃ t : State, exec (.contextSaveDone p) s = .next t ∧
      (t.part p).switch = some ⟨c, some v, k, .restoring⟩ ∧
      (t.part p).ctxs[v]? = some { y with
        res := .swapped
        image := some (s.imageOf p v) } ∧
      (t.part p).ctxs[c]? = some { x with
        res := .restoring
        slot := k } ∧
      (∀ i, i ≠ v → i ≠ c → (t.part p).ctxs[i]? = (s.part p).ctxs[i]?) ∧
      (∀ q, q ≠ p → t.part q = s.part q) ∧
      ((s.part p).logging = false → t.hbm = s.hbm) ∧
      (s.hbm.length = 8 → (s.part p).logging = true → (s.part p).pinned ≤ v →
        ∀ lq q, (s.part p).quads[lq]? = some q → q.pq < 8 → ∀ g ∈ s.savePages p lq v, s.logs q.pq g.1 = true →
          mget false (t.stack q.pq).dirty (g.1 * 576 + g.2) = true) ∧
      t = { s with parts := t.parts, hbm := t.hbm }) ∧
  (∀ (s : State) (p c k : Nat) (v : Option Nat) (x : Ctx), (s.part p).switch = some ⟨c, v, k, .restoring⟩ →
    (s.part p).ctxs[c]? = some x →
    ∃ t y, exec (.contextRestoreDone p) s = .next t ∧ (t.part p).ctxs[c]? = some y ∧ y.res = .resident ∧ y.slot = k ∧
      y.prio = x.prioNext.getD x.prio ∧ y.prioNext = none ∧
      (∀ q, q ≠ p → t.part q = s.part q) ∧ t = { s with quads := t.quads, parts := t.parts, par := t.par })) ∧
  (∀ (s t : State) (p c k : Nat) (v : Option Nat) (tl : TileId), s.Shaped →
    (s.part p).switch = some ⟨c, v, k, .restoring⟩ → exec (.contextRestoreDone p) s = .next t → tl.q < 8 →
    (tl ∈ (s.part p).tiles → ∀ e ∈ (t.tile tl).scratch.lines, e.1 / shareLines ∈ slotShares (s.part p).s k →
      e.2.kind = .domain ∨ e.2.kind = .row → (s.dom e.2.domain).open_ = true) ∧
    (∀ n, n / shareLines ∉ slotShares (s.part p).s k →
      mget {} (t.tile tl).scratch.lines n = mget {} (s.tile tl).scratch.lines n) ∧
    (tl ∉ (s.part p).tiles → t.tile tl = s.tile tl))

/-! ### Partitions (chapter 10) -/

/-- From R391, R392: CREATE with a carve record that passes the checks of Table 10.4 makes the partition ACTIVE with
the record's fields and every context as R372 sets it, takes tiles that no partition owned, and leaves every other
partition and all of stacked memory as they were. A record that fails a check changes no partition. -/
def Obligations.CreateCarvesTheRecord : Prop :=
  (∀ (s : State) (p : Nat) (b : List Byte), s.isReady = true → s.par.busy = none → (s.part p).state = .free → p < 256 →
    s.hostRead s.par.addr 160 = some b → s.carveCheck p (carveOf s.glb.cfg b) = none →
    ∃ t key, exec (.parCmdCreate p) s = .next t ∧
      t.part p = s.carved (carveOf s.glb.cfg b) key ∧
      (∀ q, q ≠ p → t.part q = s.part q) ∧
      (∀ tl ∈ (t.part p).tiles, s.ownerOf tl = none) ∧
      t.par.done = true ∧ t.par.result = 0 ∧ t.par.busy = none ∧
      t.host = s.host ∧ t.hbm = s.hbm ∧ t.dir = s.dir ∧ t.train = s.train ∧ t.jan = s.jan ∧ t.vault = s.vault) ∧
  (∀ (s : State) (p : Nat) (b : List Byte) (r lq : Nat), s.isReady = true → s.par.busy = none →
    (s.part p).state = .free → p < 256 → s.hostRead s.par.addr 160 = some b →
    s.carveCheck p (carveOf s.glb.cfg b) = some (r, lq) →
    ∃ t : State, exec (.parCmdCreate p) s = .next t ∧ t.par.done = true ∧ t.par.result = r ∧ t.par.lq = lq ∧
      t = { s with par := t.par, clk := s.l2Wake.clk, sdg := t.sdg })

/-- From R393: DISABLE of an ACTIVE partition moves it to DISABLING and ends its commands with ST_FUNCTION_DISABLED;
when its slices have drained, every tile it keeps is scrubbed, its sets are gone and its contexts are as R372 sets
them; ENABLE of a DISABLED partition makes it ACTIVE. -/
def Obligations.DisableEmptiesAPartition : Prop :=
  (∀ (s : State) (p : Nat), s.isReady = true → s.par.busy = none → (s.part p).state = .active →
    ∃ t : State, exec (.parCmdDisable p) s = .next t ∧ (t.part p).state = .disabling ∧ (t.part p).switch = none ∧
      ∀ c ∈ t.host.cmds, c.job.fn = .pf → takesPart c.op = true → c.part = p →
        c.phase = .final ∧ c.status = stFnDisabled) ∧
  (∀ (s : State) (p : Nat), (s.part p).state = .disabling →
    (∀ tl ∈ (s.part p).tiles, (s.tile tl).running = none) →
    ∃ t : State, exec (.partitionDisabled p) s = .next t ∧ (t.part p).state ≠ .disabling ∧ (t.part p).sets = [] ∧
      (t.part p).patches = [] ∧
      ∀ tl ∈ (t.part p).tiles,
        (t.tile tl).scratch.lines = [] ∧ (t.tile tl).treg = [] ∧ (t.tile tl).tags = [] ∧ (t.tile tl).ctxs = [] ∧
        (t.tile tl).running = none ∧ ∀ k ∈ (t.tile tl).slots, k.valid = false) ∧
  (∀ (s : State) (p : Nat), s.isReady = true → s.par.busy = none → (s.part p).state = .disabled →
    ∃ t : State, exec (.parCmdEnable p) s = .next t ∧
      t.part p = { s.part p with
        state := .active
        returns := false
        cause := 0 } ∧
      (∀ q, q ≠ p → t.part q = s.part q) ∧ t.par.done = true ∧ t.par.result = 0 ∧ t.par.busy = none ∧
      t = { s with parts := t.parts, par := t.par, sdg := t.sdg, clk := s.l2Wake.clk, vault := t.vault }) ∧
  (∀ (s : State) (p : Nat), s.isReady = true → s.par.busy = none → (s.part p).state = .disabled →
    ∃ t : State, exec (.parCmdDestroy p) s = .next t ∧
      ((t.part p).state = .destroying ∨ (t.part p).state = .free) ∧ (t.part p).vf = none ∧ (t.part p).vectors = 0 ∧
      (t.part p).credits = 0 ∧ (t.part p).tiles = [] ∧ (∀ q, q ≠ p → t.part q = s.part q) ∧
      t.par.done = true ∧ t.par.result = 0)

/-- From R393, R477: a reset of a function turns its queues OFF and no other function's; a VF's reset also disables the ACTIVE
partition bound to it, whose commands end with ST_FUNCTION_DISABLED, and which returns when the reset is done; the PF's
commands run on without records and no partition is disabled; clearing VF Enable turns the queues of every VF OFF and
disables the ACTIVE partitions of the VFs, and setting it returns those whose VF exists again. -/
def Obligations.FunctionResetsStopTheirFunction : Prop :=
  (∀ (s : State) (fn : Fn),
    (∀ q, q < Config.queues → (s.queuesOff fn).queue fn q = { s.queue fn q with
      enable := false
      state := .off }) ∧
    (∀ fn' q, fn' ≠ fn → q < Config.queues → (s.queuesOff fn).queue fn' q = s.queue fn' q) ∧
    s.queuesOff fn = { s with host := { s.host with queues := (s.queuesOff fn).host.queues } }) ∧
  (∀ (s : State) (v : Nat), s.fnLive (.vf v) = true →
    ∃ t : State, exec (.vfFlr v) s = .next t ∧ v ∈ t.host.flr ∧ t.host.queues = (s.queuesOff (.vf v)).host.queues ∧
      (s.partOfVf v = none → t = { s.queuesOff (.vf v) with
        host := { (s.queuesOff (.vf v)).host with flr := s.host.flr ++ [v] } }) ∧
      (∀ p, s.partOfVf v = some p → (s.part p).state = .active → (t.part p).state = .disabling ∧ (t.part p).cause = 1 ∧
        ∀ c ∈ t.host.cmds, c.job.fn = .vf v → c.phase = .final ∧ c.status = stFnDisabled) ∧
      (∀ p, s.partOfVf v = some p → (s.part p).state ≠ .active → t.parts = s.parts ∧ t.host.cmds = s.host.cmds)) ∧
  (∀ (s : State) (v : Nat), v ∈ s.host.flr →
    ∃ t : State, exec (.vfFlrDone v) s = .next t ∧ v ∉ t.host.flr ∧
      (∀ p, s.partOfVf v = some p → (s.part p).state = .disabled → (s.part p).cause = 1 → (s.part p).destroy = false →
        t.part p = { s.part p with
          state := .active
          returns := false
          cause := 0 }) ∧
      (∀ p, s.partOfVf v = some p → (s.part p).state = .disabling → (s.part p).cause = 1 → (s.part p).destroy = false →
        t.part p = { s.part p with returns := true }) ∧
      t = { s with host := { s.host with flr := t.host.flr }, parts := t.parts }) ∧
  (∀ (s : State), ∃ t : State, exec .pfFlr s = .next t ∧
    t.host.queues = (s.queuesOff .pf).host.queues ∧
    t.host.cmds = s.host.cmds.map (fun c => if c.job.fn = .pf then { c with mute := true } else c) ∧
    t = { s with host := { s.host with queues := t.host.queues, cmds := t.host.cmds } }) ∧
  (∀ (s : State), s.host.vfEnable = true →
    ∃ t : State, exec .vfEnableClear s = .next t ∧ t.host.vfEnable = false ∧ t.host.flr = [] ∧
      (∀ v q, v < s.host.numVfs → q < Config.queues → t.queue (.vf v) q = { s.queue (.vf v) q with
        enable := false
        state := .off }) ∧
      (∀ q, q < Config.queues → t.queue .pf q = s.queue .pf q) ∧
      (∀ p v, (s.part p).vf = some v → (s.part p).state = .active → (t.part p).state = .disabling ∧ (t.part p).cause = 2) ∧
      ((∀ e ∈ s.parts, e.2.vf = none ∨ e.2.state ≠ .active) →
        t = { s with host := { s.host with queues := t.host.queues, vfEnable := false, flr := [] } })) ∧
  (∀ (s : State) (n : Nat), s.host.vfEnable = false →
    ∃ t : State, exec (.vfEnableSet n) s = .next t ∧ t.host.vfEnable = true ∧ t.host.numVfs = min 256 n ∧
      (∀ p v, (s.part p).vf = some v → v < min 256 n → (s.part p).cause = 2 → (s.part p).destroy = false →
        (s.part p).state = .disabled → t.part p = { s.part p with
          state := .active
          returns := false
          cause := 0 }) ∧
      t = { s with parts := t.parts, host := { s.host with vfEnable := true, numVfs := min 256 n } })

/-! ### Adapters and domains (chapter 8) -/

/-- From R303: a BIND of a RESIDENT handle adds a reference and answers the count; of an OFFLOADED handle with room it
claims the room and starts the reload that it waits for; a RELEASE gives a reference back. A handle that is stale ends
the command and changes nothing. -/
def Obligations.BindCountsReferences : Prop :=
  ∀ (s : State) (j : JobRef) (c : Cmd) (h : Nat) (e : DirEntry), s.due j 0x19 = some c → h = c.param 0x20 2 →
    e = s.entry h →
    (s.handleCheck c.part h (c.param 0x22 1) = stOk → c.param 0x23 1 = 0 → e.state = .resident → e.baseRetired = false →
      e.binds ≠ 65535 →
      ∃ t : State, exec (.adapterBind j) s = .next t ∧ t.entry h = { e with binds := e.binds + 1 } ∧
        (∀ k, k ≠ h → t.entry k = s.entry k) ∧
        t.cmd j = some { c with
          phase := .final
          status := stOk
          detail := 0
          res0 := e.binds + 1 } ∧
        (∀ k, k ≠ j → t.cmd k = s.cmd k) ∧
        t = { s with dir := { s.dir with entries := t.dir.entries }, host := { s.host with cmds := t.host.cmds } }) ∧
    (∀ offs, s.handleCheck c.part h (c.param 0x22 1) = stOk → c.param 0x23 1 = 0 → e.state = .offloaded → e.baseRetired = false →
      s.storeRoom c.part e.manifestBytes = some offs →
      ∃ t : State, exec (.adapterBind j) s = .next t ∧
        t.entry h = { e with
          state := .loading
          binds := 1
          waiting := [j]
          offs := offs } ∧
        (∀ k, k ≠ h → t.entry k = s.entry k) ∧ t.cmd j = some { c with phase := .running } ∧
        (∀ k, k ≠ j → t.cmd k = s.cmd k)) ∧
    (s.handleCheck c.part h (c.param 0x22 1) = stOk → c.param 0x23 1 = 1 → ¬ (e.state = .evicting ∧ e.forced = true) →
      e.state ≠ .offloaded → e.binds ≠ 0 →
      ∃ t : State, exec (.adapterBindRelease j) s = .next t ∧ t.entry h = { e with binds := e.binds - 1 } ∧
        (∀ k, k ≠ h → t.entry k = s.entry k) ∧
        t.cmd j = some { c with
          phase := .final
          status := stOk
          detail := 0
          res0 := e.binds - 1 } ∧
        (∀ k, k ≠ j → t.cmd k = s.cmd k) ∧
        t = { s with dir := { s.dir with entries := t.dir.entries }, host := { s.host with cmds := t.host.cmds } }) ∧
    (s.handleCheck c.part h (c.param 0x22 1) = stStale →
      (c.param 0x23 1 = 0 → ∃ t : State, exec (.adapterBind j) s = .next t ∧ Ended s t c stStale 0 ∧
        t = { s with host := { s.host with cmds := t.host.cmds } }) ∧
      (c.param 0x23 1 = 1 → ∃ t : State, exec (.adapterBindRelease j) s = .next t ∧ Ended s t c stStale 0 ∧
        t = { s with host := { s.host with cmds := t.host.cmds } }))

/-- From R305: an eviction makes a RESIDENT handle EVICTING and waits for its references (none with FORCE, which takes
the binds); drained, a REMOVE makes it RETIRING and completes, and an OFFLOAD goes on to its copy, which leaves it
OFFLOADED with its store image on the host tier. From R304: a reload makes it RESIDENT, or OFFLOADED again where a
read fails. From R309: a RETIRING handle becomes FREE under the next epoch. -/
def Obligations.EvictionsMoveHandlesAlongTheirTable : Prop :=
  (∀ (s : State) (j : JobRef) (c : Cmd) (i : Instr) (mode h : Nat), s.due j 0x1A = some c → h = c.param 0x20 2 →
    (c.param 0x23 1 = 0 ∧ mode = 0 ∧ i = .adapterEvictOffload j ∧ (s.entry h).offloadOk = true ∧ s.hostTierOn = true ∧
        (s.part c.part).hostGen < 0xFFFFFFFF ∨
      c.param 0x23 1 = 1 ∧ mode = 1 ∧ i = .adapterEvictRemove j) →
    s.handleCheck c.part h (c.param 0x22 1) = stOk → (s.entry h).state = .resident → (s.entry h).evicts = [] →
    ∃ t : State, exec i s = .next t ∧
      t.entry h = { s.entry h with
        state := .evicting
        mode := mode
        forced := bitOf (c.param 0x24 1) 0
        binds := if bitOf (c.param 0x24 1) 0 then 0 else (s.entry h).binds
        evicts := [j] } ∧
      (∀ k, k ≠ h → t.entry k = s.entry k) ∧ t.cmd j = some { c with phase := .running } ∧
      (∀ k, k ≠ j → t.cmd k = s.cmd k) ∧
      t = { s with dir := { s.dir with entries := t.dir.entries }, host := { s.host with cmds := t.host.cmds } }) ∧
  (∀ (s : State) (h : Nat), (s.entry h).state = .evicting → (s.entry h).binds = 0 → (s.entry h).jobs = 0 →
    (s.entry h).mode = 1 →
    ∃ t : State, exec (.evictionDrained h) s = .next t ∧ (t.entry h).state = .retiring ∧ (t.entry h).experts = [] ∧
      (t.entry h).evicts = [] ∧ (∀ k, k ≠ h → t.entry k = s.entry k) ∧
      (∀ j c, j ∈ (s.entry h).evicts → s.cmd j = some c → c.phase ≠ .final → t.cmd j = some { c with
        phase := .final
        status := stOk
        detail := 0 }) ∧
      t = { s with dir := t.dir, host := { s.host with cmds := t.host.cmds } }) ∧
  (∀ (s : State) (h ix : Nat) (ls : List Line), (s.entry h).drained = true → (s.entry h).mode = 0 →
    (s.entry h).offs.length = (s.part (s.entry h).part).quads.length →
    s.hostRoom (hostUnitsOf (s.entry h).manifestBytes (s.part (s.entry h).part).quads.length) = some ix →
    (s.part (s.entry h).part).hostGen < 0xFFFFFFFF →
    ls = s.storeLines (s.entry h).part (s.entry h).manifestBytes (s.entry h).offs → badUnits ls = [] →
    ∃ t : State, exec (.offloadCopyDone h) s = .next t ∧ (t.entry h).state = .offloaded ∧ (t.entry h).offs = [] ∧
      (t.entry h).hostIndex = ix ∧ (∀ k, k ≠ h → t.entry k = s.entry k) ∧
      t.hostTierRead (s.entry h).part ix (unitPieces (bytesOf ls)).length = (unitPieces (bytesOf ls)).flatten) ∧
  (∀ (s : State) (h : Nat) (ans : List (Nat × List Byte)) (e : DirEntry) (bad : Option Nat), e = s.entry h →
    e.state = .loading → e.evicts = [] → e.closing = false →
    bad = (s.hostAnswers ans).hostFault e.part e.hostIndex e.hostUnits →
    (bad = none → ∃ t : State, exec (.adapterReloadDone h ans) s = .next t ∧
      t.entry h = { e with
        state := .resident
        waiting := []
        hostIndex := 0
        hostUnits := 0 } ∧ ∀ k, k ≠ h → t.entry k = s.entry k) ∧
    (∀ u, bad = some u → ∃ t : State, exec (.adapterReloadDone h ans) s = .next t ∧
      t.entry h = { e with
        state := .offloaded
        binds := 0
        waiting := []
        offs := [] } ∧ ∀ k, k ≠ h → t.entry k = s.entry k)) ∧
  (∀ (s : State) (h : Nat), (s.entry h).state = .retiring →
    ∃ t : State, exec (.handleRetired h) s = .next t ∧ t.entry h = { epoch := nextEpoch (s.entry h).epoch } ∧
      (∀ k, k ≠ h → t.entry k = s.entry k) ∧ t.dir.reissued = bump s.dir.freeze s.dir.reissued)

/-- From R290, R293, R295: a registration that passes every check of Table 8.6 makes its handle REGISTERING with its
domain, its base and its expert positions; a signature that does not verify ends it with ST_ABORTED and DETAIL 0x28;
the end of its import makes the handle RESIDENT, or OFFLOADED on the host tier, and answers handle and epoch. -/
def Obligations.RegistrationFollowsItsSteps : Prop :=
  (∀ (s : State) (j : JobRef) (c : Cmd) (m : List Byte) (set : CfgSet) (h : Nat) (offs : List Nat),
    s.due j 0x18 = some c → s.hostRead (c.param 0x28 8) (c.param 0x24 4) = some m →
    manFormat s.glb.level m (c.param 0x24 4) = none → s.domainOk c.part (manDomain m) = true →
    manSigOk (s.dom (manDomain m)).manifestKey m = true → (s.part c.part).baseStatus (manBase m) = stOk →
    (s.part c.part).liveSet (manBase m) = some set → manShape set m = true → manRepin m = false →
    (if manAny m then s.freeHandle else some (manHandle m)) = some h → s.regStatus c m h = stOk →
    (∀ x ∈ manPositions m, s.positionHeld c.part (manBase m) x h = false) → (manPositions m).Nodup →
    c.param 0x20 1 = 0 → s.storeRoom c.part m = some offs →
    ∃ t : State, exec (.adapterRegister j) s = .next t ∧
      t.entry h = { s.entry h with
        state := .registering
        part := c.part
        domain := manDomain m
        base := manBase m
        experts := manPositions m } ∧
      (∀ k, k ≠ h → t.entry k = s.entry k) ∧
      t.cmd j = some { c with
        phase := .running
        reg := some (regWorkOf c m h offs 0 0) } ∧
      (∀ k, k ≠ j → t.cmd k = s.cmd k) ∧
      t = { s with
        hbm := t.hbm
        dir := { s.dir with entries := t.dir.entries }
        host := { s.host with cmds := t.host.cmds } }) ∧
  (∀ (s : State) (j : JobRef) (c : Cmd) (m : List Byte),
    s.due j 0x18 = some c → s.hostRead (c.param 0x28 8) (c.param 0x24 4) = some m →
    manFormat s.glb.level m (c.param 0x24 4) = none → s.domainOk c.part (manDomain m) = true →
    manSigOk (s.dom (manDomain m)).manifestKey m = false →
    ∃ t : State, exec (.adapterRegister j) s = .next t ∧ Ended s t c stAborted 0x28 ∧
      t = { s with
        tri := { s.tri with sigFails := bump s.tri.freeze s.tri.sigFails }
        host := { s.host with cmds := t.host.cmds } }) ∧
  (∀ (s : State) (j : JobRef) (c : Cmd) (r : RegWork) (pay pt : List Byte), s.cmd j = some c → c.reg = some r →
    r.imported = false → r.repin = false → c.phase ≠ .final → s.vault.copying = false →
    s.hostRead (c.param 0x30 8) (manPayload r.manifest) = some pay →
    importPlain (s.dom r.domain).importKey r.manifest pay = some pt → s.domainOk c.part r.domain = true →
    (s.part c.part).baseStatus (manBase r.manifest) = stOk →
    ∃ t d, exec (.adapterImportDone j) s = .next t ∧
      (t.entry r.handle).state = (if r.place = 1 then .offloaded else .resident) ∧
      (t.entry r.handle).domain = r.domain ∧ (t.entry r.handle).manifest = r.digest ∧
      (t.entry r.handle).base = manBase r.manifest ∧ (t.entry r.handle).epoch = (s.entry r.handle).epoch ∧
      (∀ k, k ≠ r.handle → t.entry k = s.entry k) ∧
      t.cmd j = some d ∧ d.phase = .final ∧ d.status = stOk ∧ d.reg = none ∧
      d.res0 = r.handle + 65536 * (s.entry r.handle).epoch)

/-- From R229, R312, R389, R410: when the last reference of a closing domain is gone, its key slot is erased: the domain is
closed with no key left, no page is VALID for it, its open generation stays, and every other domain stands. A tile of its
partition without a running slice keeps no line, tag or segment of it, and any other clears them at its boundary (the
model's reading, log entry 77). -/
def Obligations.CloseErasesTheDomain : Prop :=
  ∀ (s : State) (d : Nat) (i : Instr), s.closeReady d = true →
    i = .keySlotErased d ∨ i = .domainCloseDone d →
    ∃ t : State, exec i s = .next t ∧
      (t.dom d).open_ = false ∧ (t.dom d).closing = false ∧ (t.dom d).kd = 0 ∧ (t.dom d).importKey = 0 ∧
      (t.dom d).manifestKey = [] ∧ (t.dom d).slotKey = false ∧ (t.dom d).rules = [] ∧ (t.dom d).gen = (s.dom d).gen ∧
      (∀ e, e ≠ d → t.dom e = s.dom e) ∧
      (∀ k, k < 8 → ∀ e ∈ (t.stack k).pages, e.2.valid = true → e.2.shared = false → e.2.domain ≠ d) ∧
      (s.partOfDomain d = none → t.quads = s.quads ∧ t.par = s.par) ∧
      (∀ p, s.Shaped → s.partOfDomain d = some p →
        (∀ tl ∈ (s.part p).tiles, tl.q < 8 → (s.tile tl).running = none →
          (∀ e ∈ (t.tile tl).scratch.lines, e.2.kind = .domain ∨ e.2.kind = .row → e.2.domain ≠ d) ∧
          (∀ e ∈ (t.tile tl).tags, ¬ (e.2.1 = 3 ∧ bitsOf e.2.2 20 12 = d)) ∧
          ∀ c ∈ (t.tile tl).ctxs, ∀ g ∈ c.2.segs, bitsOf g.key.word 20 12 ≠ d) ∧
        (∀ tl ∈ (s.part p).tiles, tl.q < 8 → (s.tile tl).running ≠ none →
          t.tile tl = { s.tile tl with toScrub := (t.tile tl).toScrub } ∧ d ∈ (t.tile tl).toScrub) ∧
        ∀ tl, tl ∉ (s.part p).tiles → t.tile tl = s.tile tl) ∧
      t = { s with
        quads := t.quads
        par := { s.par with scrubs := t.par.scrubs }
        hbm := t.hbm
        dir := { s.dir with domains := t.dir.domains }
        tri := { s.tri with closes := t.tri.closes }
        vault := { s.vault with closes := t.vault.closes } }

/-! ### Jobs (chapters 8, 9 and 13) -/

/-- From R296, Table 8.7: a row that names an adapter is accepted exactly when its domain is open and the partition's,
the handle is the partition's and stands RESIDENT (or EVICTING with binds left) under the row's epoch, the handle's
domain is the row's, and its base is the set's and not retired. Every other outcome is void but the row without an
adapter. -/
def Obligations.RowsAreAcceptedByTheirTable : Prop :=
  (∀ (s : State) (p w h : Nat) (base : Digest),
    s.resolveRow p base w = (stOk, some h) ↔
      h = bitsOf w 4 16 ∧ s.domainOk p (bitsOf w 20 12) = true ∧ bitsOf w 0 4 ≠ 0 ∧ (s.entry h).part = p ∧
      (s.entry h).epoch = bitsOf w 0 4 ∧ (s.entry h).domain = bitsOf w 20 12 ∧
      ((s.entry h).state = .resident ∨ ((s.entry h).state = .evicting ∧ (s.entry h).binds ≠ 0)) ∧
      (s.entry h).baseRetired = false ∧ (s.entry h).base = base) ∧
  (∀ (s : State) (p w : Nat) (base : Digest),
    s.resolveRow p base w = (stOk, none) ↔
      s.domainOk p (bitsOf w 20 12) = true ∧ bitsOf w 4 16 = 0 ∧ bitsOf w 0 4 = 0) ∧
  (∀ (s : State) (p w : Nat) (base : Digest), s.domainOk p (bitsOf w 20 12) = false →
    s.resolveRow p base w = (stDomainFault, none))

/-- From R296, R297, R77: a RUN whose set is loaded, with no RETIRE_BASE of it accepted before the RUN, and whose ranges
hold resolves every row of its table, latches the copies of the rows it accepts, keeps every void row void, and waits for
its dispatch. A RETIRE_BASE accepted before it ends it with ST_BASE_RETIRED and a range out of bounds with ST_ABORTED. A
number that holds no set ends it with ST_BASE_MISMATCH: that status is the model's choice (log entry 49). -/
def Obligations.RunResolvesItsRows : Prop :=
  (∀ (s : State) (j : JobRef) (c : Cmd) (set : CfgSet) (tb : List Byte) (ws : List Nat), s.fresh? j 0x01 = some c →
    (s.part c.part).set? (c.param 0x20 1) = some set → s.retiredFor c (c.param 0x20 1) = false →
    1 ≤ c.param 0x24 4 → c.param 0x24 4 ≤ 16384 → blockOk (c.param 0x48 4) = true → blockOk (c.param 0x4C 4) = true →
    s.hostRead (c.param 0x28 8) (8 * c.param 0x24 4) = some tb → rowWords (c.param 0x24 4) tb = some ws →
    s.hostOk (c.param 0x30 8) (c.param 0x24 4 * (c.param 0x48 4 + 32)) = true →
    ∃ t d, exec (.run j) s = .next t ∧ t.cmd j = some d ∧ d.phase = .running ∧ d.rows.map Row.word = ws ∧
      (∀ (i : Nat) (r : Row), (s.resolveRows c.part set.file.base none ws)[i]? = some r → r.void = true → d.rows[i]? = some r) ∧
      d.refs = rowRefs (s.resolveRows c.part set.file.base none ws) ∧
      (∀ k, k ≠ j → t.cmd k = s.cmd k) ∧
      t = { s with
        dir := t.dir
        sdg := t.sdg
        host := { s.host with cmds := t.host.cmds, rings := t.host.rings }
        parts := t.parts
        par := t.par }) ∧
  (∀ (s : State) (j : JobRef) (c : Cmd), s.fresh? j 0x01 = some c →
    (s.retiredFor c (c.param 0x20 1) = true →
      ∃ t : State, exec (.run j) s = .next t ∧ Ended s t c stBaseRetired 0) ∧
    (s.retiredFor c (c.param 0x20 1) = false →
      ((s.part c.part).set? (c.param 0x20 1) = none →
        ∃ t : State, exec (.run j) s = .next t ∧ Ended s t c stBaseMismatch 0) ∧
      (∀ set, (s.part c.part).set? (c.param 0x20 1) = some set → c.param 0x24 4 < 1 ∨ 16384 < c.param 0x24 4 →
        ∃ t : State, exec (.run j) s = .next t ∧ Ended s t c stAborted 0x23)))

/-- From R326 to R328: a TRAIN_STEP of a CLEAN slot whose list, ranges and rows hold makes it ACCUMULATING with the
list and the ranges it fixes, binds each adapter of the list to the slot, and runs; while the slot is COMMITTING or
IN_DOUBT, or a TRAIN_STEP of the slot accepted before it is unresolved (R329), it waits. -/
def Obligations.TrainStepFillsItsSlot : Prop :=
  (∀ (s : State) (j : JobRef) (c : Cmd) (k : Nat) (set : CfgSet) (list ws : List Nat) (tb : List Byte),
    s.fresh? j 0x02 = some c → k = c.param 0x20 1 → k ≤ 15 → (s.slot c.part k).state = .clean →
    s.commitsBefore c k = false → s.stepsBefore c k = false → s.readList (c.param 0x28 8) (c.param 0x25 1) = some list →
    (s.part c.part).set? (c.param 0x21 1) = some set →
    s.listCheck c.part (some (some set.file.base, s.retiredFor c (c.param 0x21 1))) list = none →
    (∀ w ∈ list, s.listed (leHandle w) = none ∨ s.listed (leHandle w) = some (c.part * 16 + k)) →
    s.gabRanges c.part (s.gabParts c.part (c.param 0x24 1) list) (c.param 0x30 4) (c.param 0x3C 4)
      (c.param 0x40 4) (c.param 0x34 4) (c.param 0x38 4) = 0 →
    1 ≤ c.param 0x44 4 → c.param 0x44 4 ≤ 16384 → blockOk (c.param 0x60 4) = true →
    s.hostRead (c.param 0x48 8) (8 * c.param 0x44 4) = some tb → rowWords (c.param 0x44 4) tb = some ws →
    s.hostOk (c.param 0x50 8) (c.param 0x44 4 * (c.param 0x60 4 + 32)) = true →
    ∃ t d, exec (.trainStep j) s = .next t ∧ t.cmd j = some d ∧ d.phase = .running ∧ d.rows.map Row.word = ws ∧
      t.slot c.part k = { s.slot c.part k with
        state := .accumulating
        list := list
        gradFmt := c.param 0x24 1
        gabOff := c.param 0x30 4
        stashOff := c.param 0x34 4
        stashBytes := c.param 0x38 4
        qbOff := c.param 0x3C 4
        qbLines := c.param 0x40 4
        partialG := false
        micro := 0
        domain := (s.entry (leHandle (list.headD 0))).domain
        zeroing := some j } ∧
      (∀ w ∈ list, (t.entry (leHandle w)).slot = some k) ∧
      (∀ q l, l < 16 → k < 16 → (q, l) ≠ (c.part, k) → t.slot q l = s.slot q l)) ∧
  (∀ (s : State) (j : JobRef) (c : Cmd), s.fresh? j 0x02 = some c → c.param 0x20 1 ≤ 15 →
    (s.slot c.part (c.param 0x20 1)).state = .committing ∨ (s.slot c.part (c.param 0x20 1)).state = .inDoubt ∨
      s.stepsBefore c (c.param 0x20 1) = true →
    exec (.trainStep j) s = .next s)

/-- From R146: a dispatch gives the job its position in every tile whose sequence names it, and the command records
the tiles whose posts it waits for. From R40, R524: the last of those posts fixes the job's final status. -/
def Obligations.JobsReachTheirTilesAndEnd : Prop :=
  (∀ (s : State) (j : JobRef) (c : Cmd) (set : CfgSet) (named : List (TileId × Nat × TJob)), s.Shaped →
    s.cmd j = some c → isJobOp c.op = true → c.phase = .running → c.dispatched = false → s.waitOk c = true →
    (s.part c.part).state = .active → ((s.part c.part).ctxs.getD c.ctx {}).res = .resident →
    (c.op = 0x02 → (s.slot c.part (c.param 0x20 1)).zeroing = none) →
    (s.part c.part).set? c.setNum = some set → s.dispatchDetail c set = 0 →
    named = ((s.part c.part).tiles.zipIdx).filterMap (fun x => (set.tjob c x.2).map (fun t => (x.1, x.2, t))) →
    named ≠ [] →
    ∃ t d, exec (.jobDispatch j) s = .next t ∧ t.cmd j = some d ∧ d.dispatched = true ∧
      d.expect = named.map (fun x => tileSource x.1) ∧ d.phase = .running ∧
      (∀ x ∈ named, x.1.q < 8 → x.2.2 ∈ (mget {} (t.tile x.1).ctxs c.ctx).jobs) ∧
      (∀ k, k ≠ j → t.cmd k = s.cmd k) ∧
      t = { s with quads := t.quads, host := { s.host with cmds := t.host.cmds }, parts := t.parts, par := t.par }) ∧
  (∀ (s : State) (q : Nat) (p : Post) (ps : List Post) (c : Cmd), q < s.quads.length →
    (s.quad q).cc.entries = p :: ps → s.cmd p.job = some c → c.dispatched = true → c.phase ≠ .final →
    (∀ x ∈ c.expect, x ∈ c.posted ∨ x = p.source) →
    ∃ t d, exec (.collectorDrain q) s = .next t ∧ t.cmd p.job = some d ∧ d.phase = .final)

/-- From R183, R185, R290: the seeding kernel of the next tensor in entry order leaves its result word and its factors in
the registration, adds to its quadrant's two counters, and changes nothing of a tile but the Matrix Engine's and the VXU's
counters of the partition's own tiles (what they gain is free, log entry 63). After the last tensor the adapter is placed
and the commit point follows. Where the base tensor's weights lie is the command's operand (log entry 20). -/
def Obligations.SeedingKernelLeavesItsFactors : Prop :=
  ∀ (s : State) (j : JobRef) (c : Cmd) (r r' : RegWork) (lay : BaseLayout) (set : CfgSet) (src : List Byte) (i q : Nat)
    (tm : ManTensor) (out : SeedOut), s.Shaped →
    s.cmd j = some c → c.reg = some r → i = r.factors.length → manSeed r.manifest = true → i < manTensors r.manifest →
    c.phase ≠ .final → s.domainOk c.part r.domain = true →
    (s.part c.part).sets.find? (fun x => x.file.base == manBase r.manifest) = some set → tm = manTensor r.manifest i →
    s.hostRead (c.param 0x38 8 + seedOffset r.manifest (fmtBits (c.param 0x21 1) / 8) i)
      (tm.k * tm.n * (fmtBits (c.param 0x21 1) / 8)) = some src →
    out = seedKernel (s.dom r.domain).seed tm.idA tm.k tm.n (manRank r.manifest)
      (fun x => match fmtOf (c.param 0x21 1) with
        | some f => f.decode (fieldAt src (x * (fmtBits (c.param 0x21 1) / 8)) (fmtBits (c.param 0x21 1) / 8))
        | none => .fin false 0 0)
      (fun x => baseWeight (s.baseIn c.part set tm.base lay) lay tm.n (x / max 1 tm.n) (x % max 1 tm.n)) →
    r' = { r with
      seeds := r.seeds.modify i (fun _ => out.word)
      factors := r.factors ++ [(out.down.flatMap (leBytes 2), out.up.flatMap (leBytes 2))]
      degenerate := r.degenerate + b2n (bitOf out.word 2) } →
    q = ((s.part c.part).quadAt (i % max 1 (s.part c.part).quads.length)).pq → q < 8 →
    ∃ u : State,
      u.cmd j = some { c with reg := some r' } ∧
      (∀ k, k ≠ j → u.cmd k = s.cmd k) ∧
      (u.quad q).seedRuns = bumpHold (s.quad q).seedRuns ∧
      (u.quad q).seedDegenerate = bumpHold (s.quad q).seedDegenerate (b2n (bitOf out.word 2)) ∧
      (∀ k, k ≠ q → (u.quad k).seedRuns = (s.quad k).seedRuns ∧ (u.quad k).seedDegenerate = (s.quad k).seedDegenerate) ∧
      (∀ tl, u.tile tl = { s.tile tl with
        mx := (u.tile tl).mx
        vxu := (u.tile tl).vxu }) ∧
      (∀ tl, tl ∉ (s.part c.part).tiles → u.tile tl = s.tile tl) ∧
      u = { s with
        quads := u.quads
        fresh := u.fresh
        host := { s.host with cmds := u.host.cmds } } ∧
      exec (.seedingKernelDone j lay) s = .next (if i + 1 = manTensors r.manifest then
        (u.placeAdapter c.part r' (fun n => r'.factors.getD n ([], []))).regCommitOrWait j else u)
/-! ### Bases (chapters 2, 7 and 13) -/

/-- From R491, R72: a LOAD_BASE whose file, image, outlier lists and plan pass their checks and find room adds the set
to the partition, extends the partition's measurement by the file's digest, and completes; one whose file is refused
ends with the reason and loads nothing. From R77, R313: a RETIRE_BASE of a loaded set marks every handle of the
partition that is pinned to its base, leaves no set of that number that is not retired, and completes; while a patch
of the set runs it waits for the release, and while one accepted before it is not yet staged it waits for that (R270). -/
def Obligations.BasesAreAddedAndRetired : Prop :=
  (∀ (s : State) (j : JobRef) (c : Cmd) (bs m : List Byte), s.due j 0x10 = some c → s.sameSetLoads c = [] →
    s.hostRead (c.param 0x28 8) (c.param 0x24 4) = some bs →
    (∀ f off at_ ix s1 r, s.loadFile c bs = .ok f → s.hostRead (c.param 0x30 8) (c.param 0x38 8) = some m →
      sha384 m = digestOf (slice c.desc 0x40 48) →
      imageFormat m s.glb.level (s.part c.part).quads.length = none →
      outliersOk ((List.range (imgHdr m).tensors).map (imgTensor m (imgHdr m).tableOff))
        ((outlierEntries ((imgHdr m).outLen / 8 + 1) (slice m (imgHdr m).outOff (imgHdr m).outLen)).getD []) = true →
      planCheck s.glb.cfg f s.glb.level (slice m (imgHdr m).planOff (imgHdr m).planLen) = none →
      r = cfgRecord bs (slice m (imgHdr m).planOff (imgHdr m).planLen)
        (slice m (imgHdr m).tableOff (16 * (imgHdr m).tensors)) (slice m (imgHdr m).outOff (imgHdr m).outLen)
        (imgHdr m).tensors (imgHdr m).lqBytes →
      s.baseRoom c.part (imgHdr m).lqBytes = some off → s.cfgRoom c.part r.length = some at_ →
      s.hostRoomFor ((imgHdr m).hostBytes / 4096) = some ix →
      s.loadHostBlock c.part ((imgHdr m).hostBytes / 4096) ix (slice m (imgHdr m).hostOff (imgHdr m).hostBytes) = some s1 →
      ∃ t x, exec (.loadBase j) s = .next t ∧ Ended s t c stOk 0 ∧
        (t.part c.part).sets = (s.part c.part).sets ++ [x] ∧ x.baseOff = off ∧ x.cfgOff = at_ ∧ x.retired = false ∧
        (t.part c.part).meas = sha384 (digestBytes (s.part c.part).meas ++ digestBytes f.digest) ∧
        (∀ p, p ≠ c.part → t.part p = s.part p) ∧ t.dir = s.dir ∧ t.quads = s.quads ∧ t.train = s.train) ∧
    (∀ st det, s.loadFile c bs = .error (st, det) →
      ∃ t : State, exec (.loadBase j) s = .next t ∧ Ended s t c st det ∧
        t = { s with tri := t.tri, host := { s.host with cmds := t.host.cmds } })) ∧
  (∀ (s : State) (j : JobRef) (c : Cmd), s.due j 0x12 = some c →
    (s.patchesBefore c.part c.order (some (c.param 0x20 1)) = true → exec (.retireBase j) s = .next s) ∧
    (∀ set, s.patchesBefore c.part c.order (some (c.param 0x20 1)) = false →
      (s.part c.part).patches.filter (fun x => x.set == c.param 0x20 1) = [] →
      (s.part c.part).set? (c.param 0x20 1) = some set → set.retired = false →
      ∃ t : State, exec (.retireBase j) s = .next t ∧ Ended s t c stOk 0 ∧
        (∀ h, (s.entry h).part = c.part → (s.entry h).base = set.file.base → (s.entry h).state ≠ .free →
          t.entry h = { s.entry h with baseRetired := true }) ∧
        (∀ h, ¬ ((s.entry h).part = c.part ∧ (s.entry h).base = set.file.base) → t.entry h = s.entry h) ∧
        ∀ x ∈ (t.part c.part).sets, x.num = c.param 0x20 1 → x.retired = true) ∧
    (∀ x, s.patchesBefore c.part c.order (some (c.param 0x20 1)) = false →
      ((s.part c.part).patches.filter (fun x => x.set == c.param 0x20 1)).getLast? = some x →
      ∃ t : State, exec (.retireBase j) s = .next t ∧ t.cmd j = some { c with phase := .running } ∧
        (∃ y ∈ (t.part c.part).patches, y.job = x.job ∧ j ∈ y.retire) ∧ t.dir = s.dir))

/-- From R267 to R271, R492: a signed patch whose ranges lie in its layer joins its partition's patches in the order of
acceptance, its bytes staged in room of the general region (which room is the model's choice, log entry 59). Its barrier is
placed once no patch accepted before it is unstaged and no job is partway through its fills of the layer (log entry 60), the
layer's reads drain, and the copy releases it, which counts it, extends the set's patch measurement and completes the
command, with ST_ECC where a staged word is uncorrectable. A phase is taken only from the one before it. -/
def Obligations.PatchesGoThroughTheirPhases : Prop :=
  (∀ (s : State) (j : JobRef) (c : Cmd) (set : CfgSet) (m : List Byte) (rs : List (Nat × Nat × List Byte)) (ranges : List (Nat × Nat × Nat))
      (room : List (Nat × Nat)),
    s.due j 0x11 = some c → (s.part c.part).set? (c.param 0x20 1) = some set → s.retiredFor c (c.param 0x20 1) = false →
    s.hostRead (c.param 0x28 8) (c.param 0x24 4) = some m → 168 ≤ c.param 0x24 4 →
    patchBody s.glb.level (c.param 0x22 2) (s.part c.part).quads.length set.file.base (m.take (c.param 0x24 4 - 104)) =
      .ok rs →
    allZero (slice (m.drop (c.param 0x24 4 - 104)) 1 7) = true →
    patchInside (s.part c.part) set (c.param 0x22 2) rs = true →
    (fieldAt (m.drop (c.param 0x24 4 - 104)) 0 1 ≠ 0xFF ∧
        (∃ k, s.signerKey 2 (fieldAt (m.drop (c.param 0x24 4 - 104)) 0 1) = some k ∧
          ecdsaVerify k (sha384 (m.take (c.param 0x24 4 - 96))) (beNat (slice (m.drop (c.param 0x24 4 - 104)) 8 48))
            (beNat (slice (m.drop (c.param 0x24 4 - 104)) 0x38 48)) = true) ∨
      fieldAt (m.drop (c.param 0x24 4 - 104)) 0 1 = 0xFF ∧ s.unsignedOk = true ∧
        beNat (slice (m.drop (c.param 0x24 4 - 104)) 8 48) = 0 ∧
        beNat (slice (m.drop (c.param 0x24 4 - 104)) 0x38 48) = 0) →
    ranges = rs.map (fun r => (r.1, r.2.1, r.2.2.length)) →
    (List.range (s.part c.part).quads.length).mapM (fun lq => s.stageRoom c.part lq (stagedBefore ranges ranges.length lq)) =
      some room →
    ∃ t : State, exec (.patchLayer j) s = .next t ∧ t.cmd j = some { c with phase := .running } ∧
      (∀ k, k ≠ j → t.cmd k = s.cmd k) ∧
      (t.part c.part).patches = insertBy Patch.le {
        job := j
        order := c.order
        set := c.param 0x20 1
        layer := c.param 0x22 2
        digest := sha384 (m.take (c.param 0x24 4 - 96))
        ranges := ranges
        staged := room } (s.part c.part).patches ∧
      (s.mul.patchOrder.any (fun o => decide (c.order < o)) = false →
        t.mul.patchActive = true ∧ t.mul.patchPhase = 0 ∧ t.mul.patchSet = c.param 0x20 1 ∧ t.mul.patchLayer = c.param 0x22 2 ∧
          t.mul.patchPart = c.part) ∧
      (∀ p, p ≠ c.part → t.part p = s.part p) ∧
      t = { s with
        hbm := t.hbm
        parts := t.parts
        mul := t.mul
        sdg := t.sdg
        host := { s.host with cmds := t.host.cmds } }) ∧
  (∀ (s : State) (p : Nat) (x : Patch) (rest : List Patch), (s.part p).patches = x :: rest →
    (s.mayPlace p x = true →
      ∃ t : State, exec (.patchPlacement p) s = .next t ∧ (t.part p).patches = { x with phase := .drain } :: rest ∧
        (∀ q, q ≠ p → t.part q = s.part q) ∧ t.hbm = s.hbm ∧ t.host = s.host) ∧
    (s.mayPlace p x = false → exec (.patchPlacement p) s = .next s) ∧
    (x.phase ≠ .staging → s.mayPlace p x = false) ∧
    (x.phase = .drain → s.layerReads p x.set x.layer = false →
      ∃ t : State, exec (.patchDrainDone p) s = .next t ∧ (t.part p).patches = { x with phase := .copy } :: rest ∧
        (∀ q, q ≠ p → t.part q = s.part q) ∧ t.dir = s.dir ∧ t.train = s.train) ∧
    (x.phase ≠ .drain ∨ s.layerReads p x.set x.layer = true → exec (.patchDrainDone p) s = .next s) ∧
    (x.phase ≠ .copy → ∀ bad, exec (.patchCopyDone p bad) s = .next s) ∧
    (∀ bad c set, x.phase = .copy → s.vault.copying = false → x.retire = [] → s.cmd x.job = some c →
      c.phase = .running → c.status = stOk → (s.part p).set? x.set = some set →
      ∃ t : State, exec (.patchCopyDone p bad) s = .next t ∧ (t.part p).patches = rest ∧
        (t.part p).set? x.set = some { set with
          patchCount := set.patchCount + 1
          patchMeas := sha384 (digestBytes set.patchMeas ++ digestBytes x.digest) } ∧
        t.cmd x.job = some { c with
          phase := .final
          status := if (bad.foldl (fun (s : State) b => s.patchMark p x b) s).stagedBad p x then stEcc else stOk
          detail := 0
          res0 := set.patchCount + 1 } ∧
        (∀ q, q ≠ p → t.part q = s.part q) ∧ t.dir = s.dir ∧ t.quads = s.quads))
/-! ### Tiles and slices (chapters 1, 2 and 4) -/

/-- From R73 to R75: the fill that the first waiting context needs goes to a slot that no running or switching slice
uses, and completes VALID; nothing else of the device changes when it starts. -/
def Obligations.SlotFillsTakeAFreeSlot : Prop :=
  (∀ (s : State) (p k : Nat) (tl : TileId), s.victimSlot p tl = some k →
    (∀ r, (s.tile tl).running = some r → r.slot ≠ k) ∧ (∀ w, (s.tile tl).switching = some w → w.slot ≠ k) ∧
    ∃ x, (s.tile tl).slots[k]? = some x ∧ x.filling = false) ∧
  (∀ (s : State) (p k set id : Nat) (tl : TileId), s.Shaped → tl.q < 8 → s.ownerOf tl = some p →
    (s.tile tl).slots.any CfgSlot.filling = false →
    (s.ctxOrder p tl).findSome? (fun i => (s.nextNamed p tl i).bind (fun n =>
      if (s.tile tl).slots.any (fun k => k.valid && k.set == n.1 && k.id == n.2) then none else some n)) = some (set, id) →
    s.victimSlot p tl = some k →
    ∃ t : State, exec (.slotFillStart tl set id) s = .next t ∧
      t.tile tl = { s.tile tl with slots := (s.tile tl).slots.modify k (fun _ => {
        set := set
        id := id
        valid := false
        filling := true }) } ∧
      (∀ u, u ≠ tl → t.tile u = s.tile u) ∧ t = { s with quads := t.quads }) ∧
  (∀ (s : State) (tl : TileId), s.Shaped → tl.q < 8 → (s.tile tl).slots.any CfgSlot.filling = true →
    (∀ p, s.ownerOf tl = some p → ∀ c ∈ (s.part p).sets, c.retired = false) →
    ∃ t : State, exec (.slotFillDone tl) s = .next t ∧
      (t.tile tl).slots = (s.tile tl).slots.map (fun k => if k.filling then { k with filling := false, valid := true } else k) ∧
      (t.tile tl).fills = (s.tile tl).fills + 1 ∧ (∀ u, u ≠ tl → t.tile u = s.tile u) ∧
      t = { s with quads := t.quads, parts := t.parts, par := t.par })

/-- From R36, R76: the slice that a tile selects runs at once where its slot is the current one, and otherwise after
the switch to its slot; other tiles and the stacks stay. From R38: a switch under way is abandoned only for a slice of higher
priority, and at its boundary the slice retires and is counted. That a tile whose slots have run no slice yet has no current
slot is the model's choice (log entry 44); where a slice's operands lie is the command's operand (log entry 20). -/
def Obligations.SlicesStartSwitchAndRetire : Prop :=
  (∀ (s : State) (p : Nat) (tl : TileId) (k : Pick) (lay : SliceLayout) (i f : Nat) (us : List Upset), s.Shaped →
    tl.q < 8 → s.ownerOf tl = some p → (s.tile tl).running = none → s.pick p tl lay = some k →
    (∀ x ∈ (mget {} (s.tile tl).ctxs k.ctx).jobs, x.job = k.job.job → x = k.job) →
    (s.preempts p (s.tile tl).switching k.ctx = false → exec (.sliceStart tl lay i f us) s = .next s) ∧
    ((s.tile tl).current = some k.slot → s.preempts p (s.tile tl).switching k.ctx = true →
      ∃ t r, exec (.sliceStart tl lay i f us) s = .next t ∧ (t.tile tl).running = some r ∧ r.ctx = k.ctx ∧
        r.job = k.job.job ∧ r.cfg = k.cfg ∧ r.slot = k.slot ∧ (t.tile tl).switching = none ∧
        (t.tile tl).current = some k.slot ∧ (∀ u, u ≠ tl → t.tile u = s.tile u) ∧ t.hbm = s.hbm ∧ t.dir = s.dir) ∧
    ((s.tile tl).current ≠ some k.slot → s.preempts p (s.tile tl).switching k.ctx = true →
      ∃ t w, exec (.sliceStart tl lay i f us) s = .next t ∧ (t.tile tl).running = none ∧
        (t.tile tl).switching = some w ∧ w.slot = k.slot ∧ w.next.ctx = k.ctx ∧ w.next.job = k.job.job ∧
        w.next.cfg = k.cfg ∧ (t.tile tl).current = (s.tile tl).current ∧ (∀ u, u ≠ tl → t.tile u = s.tile u) ∧
        t.hbm = s.hbm ∧ t.dir = s.dir)) ∧
  (∀ (s : State) (p : Nat) (tl : TileId) (w : Switching) (j : TJob) (o : SliceOf), s.Shaped → tl.q < 8 →
    s.ownerOf tl = some p → (s.tile tl).switching = some w →
    (mget {} (s.tile tl).ctxs w.next.ctx).jobs.find? (fun x => x.job == w.next.job) = some j →
    s.sliceOf p tl j = some o →
    ∃ t r, exec (.slotSwitchDone tl) s = .next t ∧ (t.tile tl).running = some r ∧ r.ctx = w.next.ctx ∧
      r.job = w.next.job ∧ r.cfg = w.next.cfg ∧ (t.tile tl).switching = none ∧
      (t.tile tl).current = some w.next.slot ∧ (∀ u, u ≠ tl → t.tile u = s.tile u) ∧ t.hbm = s.hbm ∧ t.dir = s.dir) ∧
  (∀ (s : State) (p : Nat) (tl : TileId) (r : Running) (j : TJob) (o : SliceOf), s.Shaped → tl.q < 8 →
    s.ownerOf tl = some p → (s.tile tl).running = some r →
    (mget {} (s.tile tl).ctxs r.ctx).jobs.find? (fun x => x.job == r.job) = some j → s.sliceOf p tl j = some o →
    ∃ t : State, exec (.sliceBoundary tl) s = .next t ∧ (t.tile tl).running = none ∧
      (t.tile tl).mx.slices = bump (s.tile tl).mx.freeze (s.tile tl).mx.slices ∧
      t.jan = s.jan ∧ t.clk = s.clk ∧ t.glb = s.glb ∧ t.tri = s.tri)

/-- From R132, R155: the oldest staged outputs of a context leave its tile for the network, and a gathered block of a
row's adapter lies in the context under the row's word, read through the CACHE ways (R294), unless a slot fill holds the
port; a block whose handle has moved on is dropped as stale. -/
def Obligations.NetworkTrafficLeavesAndArrives : Prop :=
  (∀ (s : State) (p ctx : Nat) (tl : TileId) (x : Staged) (xs : List Staged), s.Shaped → tl.q < 8 →
    s.ownerOf tl = some p → (mget {} (s.tile tl).ctxs ctx).staged = x :: xs →
    ∃ t : State, exec (.stagedOutputSent tl ctx) s = .next t ∧ (mget {} (t.tile tl).ctxs ctx).staged = xs ∧
      (∀ u, u.q ≠ tl.q → t.tile u = s.tile u) ∧ t.hbm = s.hbm ∧ t.dir = s.dir ∧ t.train = s.train) ∧
  (∀ (s : State) (p ctx word tensor col len l : Nat) (tl : TileId) (us : List Upset) (j : TJob) (c : Cmd) (row : Row)
    (set : CfgSet) (x : TileCfg × Nat × Bool) (key : SegKey), s.Shaped → tl.q < 8 → s.ownerOf tl = some p →
    (s.entry (bitsOf word 4 16)).state ≠ .free → (s.entry (bitsOf word 4 16)).epoch = bitsOf word 0 4 →
    (s.tile tl).slotFilling = false →
    (mget {} (s.tile tl).ctxs ctx).job? = some j → s.cmd j.job = some c → (s.part p).logical tl = some l →
    c.rows.find? (fun r => r.word == word && r.adapter && !r.void) = some row → (s.part p).set? c.setNum = some set →
    segmentCfg (s.entry (bitsOf word 4 16)).manifestBytes (set.jobCfgs c.plans l) tensor len = some x →
    key = {
      word := word
      tensor := tensor
      col := col
      len := len
      copy := row.copy } →
    (mget {} (s.tile tl).ctxs ctx).seg? key = none →
    ∃ t g, exec (.segmentGatherDone tl ctx word tensor col len us) s = .next t ∧
      (mget {} (t.tile tl).ctxs ctx).segs = (mget {} (s.tile tl).ctxs ctx).segs ++ [g] ∧
      g.key = key ∧ g.used = false ∧ (∀ y ∈ g.lines, y.kind = .row ∧ y.tag = word) ∧
      (t.tile tl).mx.gathers = bump (s.tile tl).mx.freeze (s.tile tl).mx.gathers ∧
      (∀ u, u ≠ tl → t.tile u = s.tile u) ∧
      t = { s with
        quads := t.quads
        hbm := t.hbm
        sdg := t.sdg
        host := { s.host with rings := t.host.rings }
        parts := t.parts
        par := t.par }) ∧
  (∀ (s : State) (p ctx word tensor col len : Nat) (tl : TileId) (us : List Upset), s.ownerOf tl = some p →
    (s.entry (bitsOf word 4 16)).state ≠ .free → (s.entry (bitsOf word 4 16)).epoch = bitsOf word 0 4 →
    (s.tile tl).slotFilling = true →
    exec (.segmentGatherDone tl ctx word tensor col len us) s = .next s) ∧
  (∀ (s : State) (p ctx word tensor col len : Nat) (tl : TileId) (us : List Upset), s.ownerOf tl = some p →
    (s.entry (bitsOf word 4 16)).state = .free ∨ (s.entry (bitsOf word 4 16)).epoch ≠ bitsOf word 0 4 →
    exec (.segmentGatherDone tl ctx word tensor col len us) s = .next (s.staleDrop word 0x122))
/-! ### Memories (chapter 6) -/

/-- From R205 to R207: every single-bit upset of a stored word of 72 bits reads back corrected to its data, every
double-bit upset is uncorrectable, and a poison marker reads as uncorrectable. -/
def Obligations.OneUpsetIsCorrectedTwoAreFound : Prop :=
  (∀ d, d < 2 ^ 64 → eccRead d false 0 = .clean d) ∧
  (∀ d i, d < 2 ^ 64 → i < 72 → eccRead d false (2 ^ i) = .corrected d) ∧
  (∀ d i k, d < 2 ^ 64 → i < 72 → k < 72 → i ≠ k → ∃ x, eccRead d false (2 ^ i + 2 ^ k) = .uncorrectable x) ∧
  (∀ d, d < 2 ^ 64 → ∃ x, eccRead d true 0 = .uncorrectable x)

/-- R197: a write of a tile's line under a byte mask writes the bytes that the mask selects; of the others it keeps
every one where KIND and TAG stay, and clears every one where they change, which counts. Other lines stay. -/
def Obligations.PartialWritesClearForeignBytes : Prop :=
  ∀ (s : State) (tl : TileId) (port : Nat) (r : LineReq), s.Shaped → tl.q < 8 → r.line < 24576 → s.bankReached tl r.line = true →
    bitOf port 2 = false → (s.tile tl).scratch.behindDma (portOf port) r.line r.mask = false →
    (s.tile tl).scratch.lost.any (fun w => w.port == portOf port) = false → r.atomic = none → r.mask < 2 ^ 64 →
    ∃ t old new, exec (.bankAtomic tl port r []) s = .next t ∧
      old = mget clearLine (s.tile tl).scratch.lines r.line ∧ new = mget clearLine (t.tile tl).scratch.lines r.line ∧
      (∀ i, i < 64 → r.mask.testBit i = true → new.get (8 * i) 8 = bitsOf r.data.toNat (8 * i) 8) ∧
      (∀ i, i < 64 → r.mask.testBit i = false → old.kind = LineKind.ofCode r.kind → old.tag = r.tag →
        new.get (8 * i) 8 = old.get (8 * i) 8) ∧
      (∀ i, i < 64 → r.mask.testBit i = false → old.kind ≠ LineKind.ofCode r.kind ∨ old.tag ≠ r.tag →
        new.get (8 * i) 8 = 0) ∧
      (r.mask ≠ fullMask → (old.kind ≠ LineKind.ofCode r.kind ∨ old.tag ≠ r.tag) → new.marks = 0) ∧
      new.kind = LineKind.ofCode r.kind ∧ new.tag = r.tag ∧
      (t.tile tl).scratch.partialClear = bump (s.tile tl).scratch.freeze (s.tile tl).scratch.partialClear
        (b2n (decide (r.mask ≠ fullMask ∧ (old.kind ≠ LineKind.ofCode r.kind ∨ old.tag ≠ r.tag)))) ∧
      new.poison = (if r.mask = fullMask then r.poison else if old.poison ≠ 0 then old.poison else r.poison) ∧
      (∀ n, n ≠ r.line → mget clearLine (t.tile tl).scratch.lines n = mget clearLine (s.tile tl).scratch.lines n) ∧
      (∀ u, u ≠ tl → t.tile u = s.tile u) ∧ t = { s with quads := t.quads, parts := t.parts, par := t.par }

/-- From R200, R201, R204: an atomic keeps its line's metadata, adds the elements under its mask, and is counted; SWAP
answers the word that it replaces. A write that loses to the VXU or to a waiting DMA write of one of its words is counted,
waits and changes no line; at a retry a port's oldest write takes effect, or loses again and is counted again. -/
def Obligations.AtomicsAndCollisions : Prop :=
  (∀ (s : State) (tl : TileId) (port op : Nat) (r : LineReq), s.Shaped → tl.q < 8 → r.line < 24576 →
    s.bankReached tl r.line = true → bitOf port 2 = false →
    (s.tile tl).scratch.behindDma (portOf port) r.line r.mask = false → (s.tile tl).scratch.lost.any (fun w => w.port == portOf port) = false → r.atomic = some op →
    ∃ t : State, exec (.bankAtomic tl port r []) s = .next t ∧
      mget clearLine (t.tile tl).scratch.lines r.line = { mget clearLine (s.tile tl).scratch.lines r.line with
        data := atomicData op r.mask (mget clearLine (s.tile tl).scratch.lines r.line).data r.data
        marks := if op = 3 then marksAfter (mget clearLine (s.tile tl).scratch.lines r.line).marks r.mask
          else (mget clearLine (s.tile tl).scratch.lines r.line).marks } ∧
      (t.tile tl).scratch.atomics = bump (s.tile tl).scratch.freeze (s.tile tl).scratch.atomics ∧
      (op = 3 → t.reply = .data ((mget clearLine (s.tile tl).scratch.lines r.line).get (64 * maskWord r.mask) 64)) ∧
      (∀ n, n ≠ r.line → mget clearLine (t.tile tl).scratch.lines n = mget clearLine (s.tile tl).scratch.lines n) ∧
      (∀ u, u ≠ tl → t.tile u = s.tile u)) ∧
  (∀ (mask : Nat) (old d : BitVec 512) (i : Nat), i < 16 →
    bitsOf (atomicData 0 mask old d).toNat (32 * i) 32 = (if mask.testBit (4 * i) then
      (bitsOf old.toNat (32 * i) 32 + bitsOf d.toNat (32 * i) 32) % 2 ^ 32 else bitsOf old.toNat (32 * i) 32)) ∧
  (∀ (s : State) (tl : TileId) (port : Nat) (r : LineReq) (us : List Upset), s.Shaped → tl.q < 8 → r.line < 24576 →
    s.bankReached tl r.line = true →
    bitOf port 2 = true ∨ (s.tile tl).scratch.behindDma (portOf port) r.line r.mask = true →
    ∃ t : State, exec (.bankAtomic tl port r us) s = .next t ∧
      (t.tile tl).scratch.lost = (s.tile tl).scratch.lost ++ [⟨portOf port, r.line, r.mask, r.data,
        LineKind.ofCode r.kind, r.tag, r.poison, r.atomic⟩] ∧
      (t.tile tl).scratch.collides = bump (s.tile tl).scratch.freeze (s.tile tl).scratch.collides ∧
      (t.tile tl).scratch.lines = (s.tile tl).scratch.lines ∧ ∀ u, u ≠ tl → t.tile u = s.tile u) ∧
  (∀ (s : State) (tl : TileId) (port : Nat) (lose : Bool) (w : LostWrite), s.Shaped → tl.q < 8 →
    (s.tile tl).scratch.lost.find? (fun w => w.port == portOf port) = some w →
    ∃ t : State, exec (.collideRetry tl port lose) s = .next t ∧ (∀ u, u ≠ tl → t.tile u = s.tile u) ∧
      (lose = true ∨ (s.tile tl).scratch.behindDma (portOf port) w.line w.mask = true →
        (t.tile tl).scratch.lost = (s.tile tl).scratch.lost ∧ (t.tile tl).scratch.lines = (s.tile tl).scratch.lines ∧
        (t.tile tl).scratch.collides = bump (s.tile tl).scratch.freeze (s.tile tl).scratch.collides) ∧
      (lose = false → (s.tile tl).scratch.behindDma (portOf port) w.line w.mask = false →
        (t.tile tl).scratch.lost = dropLost (portOf port) (s.tile tl).scratch.lost ∧
        (t.tile tl).scratch.lines =
          ((s.tile tl).bankWrite w.line w.mask w.data w.kind w.tag w.poison w.atomic).scratch.lines))

/-- From R214, R215: a request of a way's partition writes, adds to or reads the line it names and no other; a request
of any other partition changes no way, and reads as zero. -/
def Obligations.WaysServeTheirPartition : Prop :=
  (∀ (s : State) (q way part src : Nat) (r : LineReq), s.Shaped → q < 8 → s.wayOwner q way = some part →
    way ∉ (s.quad q).qb.scrubbing → r.line < 32768 →
    ∃ t : State, exec (.qbWayRequest q way part src r []) s = .next t ∧
      (r.write = true → r.atomic = none →
        mget clearLine (t.quad q).qb.lines (way * 32768 + r.line) = ((mget clearLine (s.quad q).qb.lines
          (way * 32768 + r.line)).write r.mask r.data (LineKind.ofCode r.kind) r.tag r.poison).line) ∧
      (∀ op, r.atomic = some op →
        mget clearLine (t.quad q).qb.lines (way * 32768 + r.line) = (mget clearLine (s.quad q).qb.lines
          (way * 32768 + r.line)).atomic op r.mask r.data ∧
        (t.quad q).qb.atomics = bump (s.quad q).qb.freeze (s.quad q).qb.atomics) ∧
      (r.write = false → r.atomic = none →
        t.reply = .bytes (mget clearLine (s.quad q).qb.lines (way * 32768 + r.line)).bytes ∧
        (t.quad q).qb = { (s.quad q).qb with ue := (t.quad q).qb.ue }) ∧
      (∀ n, n ≠ way * 32768 + r.line → mget clearLine (t.quad q).qb.lines n = mget clearLine (s.quad q).qb.lines n) ∧
      (∀ k, k ≠ q → (t.quad k).qb = (s.quad k).qb)) ∧
  (∀ (s : State) (q way part src : Nat) (r : LineReq) (us : List Upset), s.wayOwner q way ≠ some part →
    ∃ t : State, exec (.qbWayRequest q way part src r us) s = .next t ∧ (∀ k, (t.quad k).qb = (s.quad k).qb) ∧
      (r.write = false → r.atomic = none → t.reply = .bytes clearLine.bytes))

/-- From R221, R225 to R228: a stack stores a line that its page takes, under its page's key, and an atomic on one leaves
the operation's result (whether it may reach a stack page is the model's choice, log entry 66); it answers a read with the
line as its page shows it, refuses a write of a FROZEN page to every unit but the load engine that loads or patches, and
never changes a line of a pseudo-channel that the requester's partition does not own. -/
def Obligations.StacksServeTheirOwner : Prop :=
  (∀ (s : State) (k : Nat) (r : StackReq) (l : LineLoc), s.Shaped → k < 8 → s.pmaWord r.part r.pma = some l →
    l.stack = k → s.pchOwner k l.pch = some r.part → r.upsets = [] →
    (r.write = true → r.atomic = none → (s.attr l).frozen = false ∨ s.loadEngine r = true →
      pageTakes (s.attr l) (LineKind.ofCode r.kind) r.tag = some true →
      ∃ t : State, exec (.stackRequest k r) s = .next t ∧
        t.getLine l = {
          data := if LineKind.ofCode r.kind = .clear then 0 else r.data
          marks := if LineKind.ofCode r.kind = .clear then 0 else r.marks
          key := some (s.pageKey l) } ∧
        (∀ g n, (g, n) ≠ (k, l.lineKey) → mget {} (t.stack g).lines n = mget {} (s.stack g).lines n) ∧
        (s.logs k l.pch = true → 256 ≤ r.unit ∨ (s.part r.part).cached r.lq r.region = false →
          mget false (t.stack k).dirty l.pageKey = true)) ∧
    (∀ op, r.atomic = some op → 256 ≤ r.unit → (s.attr l).frozen = false ∨ s.loadEngine r = true →
      pageTakes (s.attr l) (LineKind.ofCode r.kind) r.tag = some true → LineKind.ofCode r.kind ≠ .clear →
      ∃ t : State, exec (.stackRequest k r) s = .next t ∧
        t.getLine l = {
          data := atomicData op r.mask (s.pageLine l).data r.data
          marks := if op = 3 then marksAfter (s.pageLine l).marks r.mask else (s.pageLine l).marks
          key := some (s.pageKey l) } ∧
        (op = 3 → t.reply = .data ((s.pageLine l).get (64 * maskWord r.mask) 64)) ∧
        ∀ g n, (g, n) ≠ (k, l.lineKey) → mget {} (t.stack g).lines n = mget {} (s.stack g).lines n) ∧
    (r.write = false → r.atomic = none →
      ∃ t m, exec (.stackRequest k r) s = .next t ∧ t.reply = .line (s.pageLine l).bytes m ∧
        (256 ≤ r.unit → m = (s.pageLine l).marks) ∧
        ∀ g n, mget {} (t.stack g).lines n = mget {} (s.stack g).lines n) ∧
    (r.write = true ∨ r.atomic ≠ none → (s.attr l).frozen = true → s.loadEngine r = false →
      ∃ t : State, exec (.stackRequest k r) s = .next t ∧ (∀ g, t.stack g = s.stack g) ∧
        ∀ j c, r.job = some j → s.cmd j = some c → c.phase ≠ .final → c.status = stOk →
          t.cmd j = some { c with
            status := stFrozen
            detail := 0 })) ∧
  (∀ (s : State) (k : Nat) (r : StackReq), ∃ t : State, exec (.stackRequest k r) s = .next t ∧
    ∀ g n, mget {} (t.stack g).lines n ≠ mget {} (s.stack g).lines n →
      g = k ∧ ∃ l, s.pmaWord r.part r.pma = some l ∧ s.pchOwner k l.pch = some r.part ∧ n = l.lineKey)

/-- From R211, R229, R230, R388: a zero-fill ends with the oldest page of its pseudo-channel zero and no longer
pending; the patrol reads the next line and moves on; a bank that returned from Off is On; the scrub of a quadrant's
ways ends. -/
def Obligations.FillsAndScrubsEnd : Prop :=
  (∀ (s : State) (k pch page : Nat) (xs : List Nat), s.Shaped → k < 8 →
    mget [] (s.stack k).zeroFill pch = page :: xs → s.clk.pm = .d0 ∨ s.clk.pm = .armed →
    ∃ t : State, exec (.pageZeroFillDone k pch page) s = .next t ∧ mget [] (t.stack k).zeroFill pch = xs ∧
      (∀ n, pch * 2 ^ 25 + page * 32768 ≤ n → n < pch * 2 ^ 25 + page * 32768 + 32768 →
        mget {} (t.stack k).lines n = {}) ∧
      (∀ n, n < pch * 2 ^ 25 + page * 32768 ∨ pch * 2 ^ 25 + page * 32768 + 32768 ≤ n →
        mget {} (t.stack k).lines n = mget {} (s.stack k).lines n) ∧
      (∀ g, g ≠ k → t.stack g = s.stack g) ∧ (t.stack k).pages = (s.stack k).pages) ∧
  (∀ (s : State) (k pch line : Nat), s.Shaped → k < 8 → (s.stack k).scrubEnable = true → (s.stack k).state = .ready →
    pch < 64 → mget 0 (s.stack k).patrol pch = line →
    ∃ t : State, exec (.patrolScrubLine k pch line []) s = .next t ∧
      mget 0 (t.stack k).patrol pch = (if line + 1 = pchLines then 0 else line + 1) ∧
      (∀ n, mget {} (t.stack k).lines n = mget {} (s.stack k).lines n) ∧
      (t.stack k).passes = (if line + 1 = pchLines then bump (s.stack k).freeze (s.stack k).passes else (s.stack k).passes)) ∧
  (∀ (s : State) (tl : TileId) (b : Nat), s.Shaped → tl.q < 8 → mget .on (s.tile tl).scratch.banks b = .zeroFill →
    ∃ t : State, exec (.bankZeroFillDone tl b) s = .next t ∧ mget .on (t.tile tl).scratch.banks b = .on ∧
      (∀ u, u ≠ tl → t.tile u = s.tile u) ∧ t = { s with quads := t.quads }) ∧
  (∀ (s : State) (tl : TileId), s.Shaped → tl.q < 8 →
    (∃ t : State, exec (.scrubDone tl true) s = .next t ∧ (t.quad tl.q).qb.scrubbing = [] ∧
      t = { s with quads := t.quads }) ∧
    ((s.tile tl).vxu.scrubbing = true →
      ∃ t : State, exec (.scrubDone tl false) s = .next t ∧ (t.tile tl).scratch.lines = [] ∧ (t.tile tl).vxu.test = false ∧
        (t.tile tl).vxu.scrubbing = false ∧ (∀ u, u ≠ tl → t.tile u = s.tile u) ∧ t = { s with quads := t.quads }))

/-- From R186 to R190: a free tile that runs nothing enters test state and leaves it through a whole-tile scrub; GO
starts the micro-op of the UOP registers or is refused, and its end shows DONE with its flags, or ERROR, and fires. -/
def Obligations.TheTestPortRunsOneOperation : Prop :=
  (∀ (s : State) (tl : TileId), s.Shaped → tl.q < 8 → s.ownerOf tl = none → (s.tile tl).running = none →
    bitOf s.clk.gated tl.q = false → (s.tile tl).vxu.test = false →
    exec (.vxuTestEnter tl) s = .next (s.modTile tl (fun t => { t with vxu := { t.vxu with test := true } })) ∧
    ((s.modTile tl (fun t => { t with vxu := { t.vxu with test := true } })).tile tl).vxu.test = true) ∧
  (∀ (s : State) (tl : TileId), s.Shaped → tl.q < 8 → (s.tile tl).vxu.test = true →
    ∃ t : State, exec (.vxuTestExit tl) s = .next t ∧ t.tile tl = { s.tile tl with vxu := { (s.tile tl).vxu with scrubbing := true } } ∧
      (∀ u, u ≠ tl → t.tile u = s.tile u) ∧ t = { s with quads := t.quads }) ∧
  (∀ (s : State) (tl : TileId), s.Shaped → tl.q < 8 → (s.tile tl).vxu.test = true → (s.tile tl).vxu.scrubbing = false →
    (s.tile tl).vxu.goBusy = false →
    ∃ t : State, exec (.vxuTestGo tl) s = .next t ∧ (t.tile tl).vxu.goBusy = true ∧ (t.tile tl).vxu.done = false ∧
      (t.tile tl).vxu.error = false ∧
      (t.tile tl).vxu.op = (s.tile tl).vxu.uopHi.toNat * 2 ^ 32 + (s.tile tl).vxu.uopLo.toNat ∧
      (t.tile tl).vxu.refused = (s.tile tl).vxu.refuses (uopOf (t.tile tl).vxu.op) ∧
      (∀ u, u ≠ tl → t.tile u = s.tile u) ∧ t = { s with quads := t.quads }) ∧
  (∀ (s : State) (tl : TileId), s.Shaped → tl.q < 8 → (s.tile tl).vxu.goBusy = true →
    ∃ t : State, exec (.vxuTestDone tl) s = .next t ∧ (t.tile tl).vxu.goBusy = false ∧
      ((s.tile tl).vxu.refused = true → (t.tile tl).vxu.error = true ∧ (t.tile tl).scratch = (s.tile tl).scratch) ∧
      ((s.tile tl).vxu.refused = false → (t.tile tl).vxu.done = true ∧
        (t.tile tl).scratch.lines = (VState.step (testEnv (s.tile tl)) {
          lines := (s.tile tl).scratch.lines
          wins := (s.tile tl).vxu.windows } (uopOf (s.tile tl).vxu.op)).lines) ∧
      (∀ u, u ≠ tl → t.tile u = s.tile u) ∧ t = { s with quads := t.quads, sdg := t.sdg })

/-- From R113 to R116: a saturation entry counts up to its top, marks a drift once when its count reaches its
threshold in a window, starts each window from zero, and is freed by a write of VALID 1. -/
def Obligations.SaturationEntriesCountInWindows : Prop :=
  (∀ (s : State) (q e v : Nat), s.Shaped → q < 8 → e < 64 → bitOf v 31 = true →
    ∃ t : State, exec (.satEntryFree q e v) s = .next t ∧ mget {} (t.quad q).sat e = {} ∧
      (∀ i, i ≠ e → mget {} (t.quad q).sat i = mget {} (s.quad q).sat i) ∧ (∀ r, r ≠ q → t.quad r = s.quad r) ∧
      t = { s with quads := t.quads }) ∧
  (∀ (s : State) (q e : Nat), s.Shaped → q < 8 → (mget {} (s.quad q).sat e).valid = true →
    (mget {} (s.quad q).sat e).window ≠ 0 →
    s.now / (mget {} (s.quad q).sat e).ticks ≠ (mget {} (s.quad q).sat e).winStart / (mget {} (s.quad q).sat e).ticks →
    ∃ t : State, exec (.satWindowStart q e) s = .next t ∧ mget {} (t.quad q).sat e = { mget {} (s.quad q).sat e with
        count := 0
        drift := false
        winStart := s.now / (mget {} (s.quad q).sat e).ticks * (mget {} (s.quad q).sat e).ticks } ∧
      (∀ i, i ≠ e → mget {} (t.quad q).sat i = mget {} (s.quad q).sat i) ∧ (∀ r, r ≠ q → t.quad r = s.quad r) ∧
      t = { s with quads := t.quads }) ∧
  (∀ (s : State) (q i n : Nat) (e : SatEntry), s.Shaped → q < 8 → e = (mget {} (s.quad q).sat i).roll s.now →
    (mget {} ((s.satAdd q i n).quad q).sat i).count = min 0xFFFFFFFF (e.count + n) ∧
    (mget {} ((s.satAdd q i n).quad q).sat i).total = min 0xFFFFFFFF (e.total + n) ∧
    ((mget {} ((s.satAdd q i n).quad q).sat i).drift = true ↔ e.drift = true ∨
      (e.threshold ≠ 0 ∧ e.count < e.threshold ∧ e.threshold ≤ min 0xFFFFFFFF (e.count + n))))


/-! ### Clocks and power states (chapter 16) -/

/-- From R571 to R575: an upper-level switch is taken or refused at its write, gates its domain, moves the mux to a
source that is ready and to no other, and opens the gate with its RESULT; a loss of REF takes ACLK to RC, and a loss
of lock resets the device with cause PLL_LOCK. -/
def Obligations.ClockSwitchesRunTheirSteps : Prop :=
  (∀ (s : State) (n v : Nat), s.Shaped → n < 5 → s.hostUp = true → srcOk n (bitsOf v 0 2) = true → bitOf v 31 = true →
    (s.clkDom n).busy = false →
    ∃ t : State, exec (.clockSwitch n v) s = .next t ∧ (∀ k, k ≠ n → t.clkDom k = s.clkDom k) ∧
      (n = 4 ∨ s.switchFree = true → t.clkDom n = { s.clkDom n with
          src := bitsOf v 0 2
          busy := true
          gated := false
          want := bitsOf v 0 2 } ∧
        t = { s with clk := { s.clk with dom := t.clk.dom } }) ∧
      (n < 4 ∧ s.switchFree = false → t.clkDom n = { s.clkDom n with
          src := bitsOf v 0 2
          result := 2 } ∧
        t = { s with
          clk := { s.clk with dom := t.clk.dom }
          sdg := t.sdg
          host := { s.host with rings := t.host.rings } })) ∧
  (∀ (s : State) (n : Nat), s.Shaped → n < 5 → (s.clkDom n).busy = true → (s.clkDom n).gated = false →
    (n = 0 → s.atBoundary = true ∧ s.clk.phase = .idle) →
    ∃ t : State, exec (.clockStopPoint n) s = .next t ∧ (∀ k, k ≠ n → t.clkDom k = s.clkDom k) ∧
      (s.srcReady (s.clkDom n).want = true → t.clkDom n = { s.clkDom n with
          gated := true
          running := false
          outcome := 0
          cur := (s.clkDom n).want }) ∧
      (s.srcReady (s.clkDom n).want = false → t.clkDom n = { s.clkDom n with
          gated := true
          running := false
          outcome := 1 }) ∧
      t.orbit = s.orbit ∧ t.quads = s.quads ∧ t.hbm = s.hbm ∧ t.parts = s.parts ∧ t.dir = s.dir) ∧
  (∀ (s : State) (n : Nat), s.Shaped → n < 5 → (s.clkDom n).busy = true → (s.clkDom n).gated = true →
    ∃ t : State, exec (.clockSwitchDone n) s = .next t ∧ (∀ k, k ≠ n → t.clkDom k = s.clkDom k) ∧
      t.clkDom n = { s.clkDom n with
        gated := false
        running := true
        busy := false
        result := (s.clkDom n).outcome } ∧
      t.orbit.val = (if n = 2 then (s.orbit.val + 120 * s.roo.count) % 2 ^ 64 else s.orbit.val) ∧
      t = { s with
        clk := { s.clk with dom := t.clk.dom }
        orbit := t.orbit
        roo := t.roo
        sdg := t.sdg }) ∧
  (∀ (s : State), s.clk.refOk = true →
    ∃ t : State, exec (.refMonitorTick false) s = .next t ∧ t.clk.refOk = false ∧ t.clk.aclkRc = true ∧
      (s.clk.locked = true → t.clk.locked = false ∧ t.start.cause = 0x12) ∧
      (s.clk.locked = false → t = { s with clk := t.clk })) ∧
  (∀ (s : State), s.clk.settled = true →
    exec (.refMonitorTick true) s = .next { s with clk := { s.clk with
      refOk := true
      refTicks := if s.clk.aclkRc then s.clk.refTicks + 1 else 0 } }) ∧
  (∀ (s : State), s.Shaped → s.clk.aclkRc = true → s.clk.refOk = true → 10 ≤ s.clk.refTicks → (s.clkDom 4).src = 1 →
    ∃ t : State, exec .aclkReturn s = .next t ∧ t.clk.aclkRc = false ∧ (t.clkDom 4).cur = 1 ∧ t = { s with clk := t.clk }) ∧
  (∀ (s : State), s.clk.locked = true →
    ∃ t : State, exec .pllLockLoss s = .next t ∧ t.start.cause = 0x12 ∧ t.clk.locked = false ∧ t.start.result = 0 ∧
      t.parts = [] ∧ t.host.cmds = [] ∧ ∀ d, (t.dom d).open_ = false)

/-- From R577 to R580: the sequencer moves CCLK to the slowest of the request and the caps; it raises VDD_CORE before
a faster clock and lowers it after a slower one, switches only at slice boundaries, and counts each transition. -/
def Obligations.PStatesMoveInOrder : Prop :=
  (∀ (s : State) (v : Nat), s.hostUp = true → s.clk.pm = .d0 → s.clk.phase = .idle → s.isReady = true →
    ∃ t goal, exec (.pstateRequest v) s = .next t ∧ goal = max (bitsOf v 0 2) (max s.pwr.powerCap s.pwr.thermalCap) ∧
      (goal = s.clk.cur → t.clk = { s.clk with req := bitsOf v 0 2 }) ∧
      (goal < s.clk.cur → t.clk = { s.clk with
        req := bitsOf v 0 2
        goal := goal
        phase := .rampUp
        vdd := vddOf goal }) ∧
      (s.clk.cur < goal → t.clk = { s.clk with
        req := bitsOf v 0 2
        goal := goal
        phase := .hold }) ∧
      t = { s with clk := t.clk }) ∧
  (∀ (s : State) (v : Nat), s.hostUp = true → s.clk.pm = .d0 → s.clk.phase ≠ .idle →
    exec (.pstateRequest v) s = .next { s with clk := { s.clk with req := bitsOf v 0 2 } }) ∧
  (∀ (s : State), s.clk.phase = .rampUp →
    exec .vddRampUpDone s = .next { s with clk := { s.clk with phase := .hold } }) ∧
  (∀ (s : State), s.Shaped → s.clk.phase = .hold → s.atBoundary = true →
    ∃ t : State, exec .cclkStopPoint s = .next t ∧ t.clk.phase = .stopped ∧ (t.clkDom 0).running = false ∧ t = { s with clk := t.clk }) ∧
  (∀ (s : State), s.clk.phase = .hold → s.atBoundary = false → exec .cclkStopPoint s = .next s) ∧
  (∀ (s : State), s.Shaped → s.clk.phase = .stopped →
    ∃ t : State, exec .cclkRestart s = .next t ∧ t.clk.cur = s.clk.goal ∧ (t.clkDom 0).running = true ∧
      (s.clk.vdd = vddOf s.clk.goal → t.clk.changes = s.clk.changes + 1) ∧
      (s.clk.vdd ≠ vddOf s.clk.goal → t.clk.phase = .rampDown ∧ t.clk.vdd = vddOf s.clk.goal ∧
        t.clk.changes = s.clk.changes) ∧
      t.quads = s.quads ∧ t.orbit = s.orbit) ∧
  (∀ (s : State), s.clk.phase = .rampDown →
    ∃ t : State, exec .vddRampDownDone s = .next t ∧ t.clk.changes = s.clk.changes + 1 ∧ t.clk.cur = s.clk.cur ∧
      (s.clk.l2Waiting = true → t.clk.pm = .entering ∧ t.clk.phase = .idle) ∧
      (s.clk.l2Waiting = false → s.pTarget = s.clk.cur → t.clk.phase = .idle ∧ t.clk.vdd = s.clk.vdd) ∧
      t.quads = s.quads ∧ t.orbit = s.orbit)

/-- From R582 to R586: quadrants are gated and restored, L2 is entered where nothing runs and left at its triggers,
and L3 is armed where every partition is FREE, entered at PERST_N and left at a watched source or at its deassertion.
-/
def Obligations.PowerStatesAreEnteredAndLeft : Prop :=
  (∀ (s : State) (q : Nat), q < 8 → bitOf s.clk.gate q = true → bitOf s.clk.gated q = false → bitOf s.clk.entering q = false →
    s.clk.phase = .idle → s.isReady = true → (∀ k, s.ownerOf ⟨q, k⟩ = none) →
    (∀ x ∈ (s.quad q).tiles, x.2.vxu.test = false) → (∀ x ∈ (s.stack q).zeroFill, x.2 = []) →
    ∃ t : State, exec (.qgateEntryStart q) s = .next t ∧ bitOf t.clk.entering q = true ∧
      t = { s with clk := { s.clk with entering := t.clk.entering } }) ∧
  (∀ (s : State) (q : Nat), s.Shaped → q < 8 → bitOf s.clk.entering q = true → bitOf s.clk.gate q = true →
    ∃ t : State, exec (.qgateEntryDone q) s = .next t ∧ bitOf t.clk.entering q = false ∧ bitOf t.clk.gated q = true ∧
      (∀ k, k < 32 → (t.tile ⟨q, k⟩).scratch.lines = [] ∧ (t.tile ⟨q, k⟩).slots = List.replicate 8 {} ∧
        ∀ b, b < 32 → mget .on (t.tile ⟨q, k⟩).scratch.banks b = .off) ∧
      (t.quad q).qb.lines = [] ∧ (∀ r, r ≠ q → t.quad r = s.quad r) ∧
      t = { s with
        quads := t.quads
        clk := t.clk
        sdg := t.sdg }) ∧
  (∀ (s : State) (v q : Nat), s.Shaped → q < 8 → s.hostUp = true → bitOf v q = false → bitOf s.glb.cfg.quadEnable q = true →
    bitOf s.clk.gated q = true →
    ∃ t : State, exec (.qgateWrite v) s = .next t ∧ bitOf t.clk.gate q = false ∧ bitOf t.clk.exiting q = true ∧
      bitOf t.clk.gated q = true) ∧
  (∀ (s : State) (q : Nat), s.Shaped → q < 8 → bitOf s.clk.exiting q = true → bitOf s.clk.gated q = true →
    ∃ t : State, exec (.qgateExitDone q) s = .next t ∧ bitOf t.clk.gated q = false ∧ bitOf t.clk.exiting q = false ∧
      (t.quad q).qb.lines = [] ∧ (∀ k, (t.tile ⟨q, k⟩).scratch.lines = []) ∧ (∀ r, r ≠ q → t.quad r = s.quad r) ∧
      t = { s with
        quads := t.quads
        clk := t.clk
        sdg := t.sdg }) ∧
  (∀ (s : State), s.hostUp = true → s.pmBusy = false →
    (s.isReady = true → s.l2Ok = true → s.clk.phase = .idle →
      ∃ t : State, exec .pmRequestL2 s = .next t ∧ t.clk.pm = .entering ∧ t.clk.pmDone = false ∧ (∀ d, (t.dom d).slotKey = false) ∧
        t = { s with
          clk := t.clk
          dir := t.dir } ∧ ∀ d, (t.dom d).open_ = (s.dom d).open_) ∧
    (s.isReady = true → s.clk.pm = .d0 → (∀ x ∈ s.parts, x.2.state = .free) →
      exec .pmRequestL3 s = .next { s with clk := { s.clk with
        pmTarget := 3
        pmDone := false
        pm := .armed
        armedAt := s.orbit.val } }) ∧
    (s.isReady = true → s.clk.pm = .d0 → (∃ x ∈ s.parts, x.2.state ≠ .free) →
      exec .pmRequestL3 s = .next { s with clk := { s.clk with
        pmTarget := 3
        pmDone := true
        pmResult := 2 } }) ∧
    (s.clk.pm = .armed →
      exec .pmRequestD0 s = .next { s with clk := { s.clk with
        pmTarget := 0
        pmDone := true
        pmResult := 0
        pm := .d0 } })) ∧
  (∀ (s : State), s.clk.pm = .entering →
    ∃ t : State, exec .l2EntryDone s = .next t ∧ t.clk.pm = (if s.clk.wakePending then .exiting else .l2) ∧
      t.clk.pmDone = true ∧ t.clk.pmResult = 0 ∧
      t = { s with
        clk := t.clk
        sdg := t.sdg }) ∧
  (∀ (s : State), s.clk.pm = .exiting → mapOk {} s.dir.domains = true →
    ∃ t : State, exec .l2ExitDone s = .next t ∧ t.clk.pm = .d0 ∧ (∀ d, (t.dom d).slotKey = (s.dom d).open_) ∧
      t = { s with
        clk := t.clk
        dir := t.dir
        sdg := t.sdg }) ∧
  (∀ (s : State) (sp : Space) (off : Nat), s.clk.pm = .l2 → s.hostUp = true → wakesL2 .pf sp off = true →
    ∃ t : State, exec (.registerAccessInL2 sp off) s = .next t ∧ t.clk.pm = .exiting) ∧
  (∀ (s : State), s.clk.pm = .armed → s.clk.armedAt + 1200000000 ≤ s.orbit.val →
    exec .l3ArmTimeout s = .next { s with clk := { s.clk with
      pm := .d0
      pmDone := true
      pmResult := 3 } }) ∧
  (∀ (s : State), s.clk.pm = .armed → s.pwr.main = .on → s.pwr.perst = false →
    ∃ t : State, exec .perstAssert s = .next t ∧ t.clk.pm = .l3 ∧ t.quads = List.replicate 8 {} ∧ t.hbm = List.replicate 8 {} ∧
      (∀ d, (t.dom d).kd = 0 ∧ (t.dom d).importKey = 0 ∧ (t.dom d).open_ = false) ∧ t.pwr.perst = true ∧ t.pwr.main = .on ∧
      t.roo.watch = s.roo.watch ∧ t.nvm = s.nvm ∧ t.fuses = s.fuses ∧ t.orbit.val = s.orbit.val) ∧
  (∀ (s : State) (n : Nat), s.clk.pm = .l3 → s.pwr.main = .on → s.watched n = true → s.srcEnabled n = true →
    (∃ t : State, exec (.l3Wake n) s = .next t ∧ t.start.cause = 0x11 ∧ t.clk.pm = .d0 ∧ t.roo.wakeSource = n ∧
      t.roo.wakeN = (s.roo.wakeN || s.roo.wakeNEn)) ∧
    (n = 0x393 → s.roo.timerLeft = some 0 →
      ∃ t : State, exec .rooTimerExpiry s = .next t ∧ t.start.cause = 0x11 ∧ t.roo.wakeSource = n) ∧
    (∀ p, p < 16 → n = 0x380 + p →
      ∃ t : State, exec (.lightDetect p) s = .next t ∧ t.start.cause = 0x11 ∧ t.roo.wakeSource = n) ∧
    (n = 0x390 → ∃ t : State, exec .peRxActivity s = .next t ∧ t.start.cause = 0x11 ∧ t.roo.wakeSource = n)) ∧
  (∀ (s : State), s.clk.pm = .l3 → s.pwr.main = .on → s.pwr.perst = true →
    ∃ t : State, exec .perstDeassert s = .next t ∧ t.start.cause = 0x11 ∧ t.clk.pm = .d0 ∧ t.roo.wakeValid = s.roo.wakeValid ∧
      t.nvm = s.nvm) ∧
  (∀ (s : State), s.hostUp = true →
    ∃ t : State, exec .hostLinkL0 s = .next t ∧ t.roo = { s.roo with wakeN := false } ∧ 1 ≤ t.host.speed ∧ t.host.speed ≤ 6 ∧
      1 ≤ t.host.width ∧ t.host.width ≤ 16 ∧
      t = { s with
        roo := t.roo
        fresh := t.fresh
        host := { s.host with
          speed := t.host.speed
          width := t.host.width
          flit := t.host.flit } })

/-! ### Registers (chapters 0 and 18) -/

/-- R21: a 32-bit read of the lower register of a pair answers it and latches the upper half, which the function's
next read of the upper register answers; a 64-bit read answers both halves without a latch. From R17, R320, R362, R399
and R402: reads take the snapshots; a read of 1 or 2 bytes changes nothing; a clear zeroes its counters and no
register beside them; a write of 1 or 2 bytes is discarded and counted, a selector takes its field, and a level that
is not supported is ignored. -/
def Obligations.RegistersLatchClearAndSelect : Prop :=
  (∀ (s : State) (fn : Fn) (sp : Space) (off : Nat), s.hostUp = true → s.fnLive fn = true → hasSpace fn sp = true →
    off % 4 = 0 → isLatching fn sp off = true → s.clk.pm = .d0 →
    ∃ t : State, exec (.latchedRead fn sp off 4) s = .next t ∧ t.reply = .data (s.reg fn sp off) ∧
      t = { s with
        reply := t.reply
        host := { s.host with latch := t.host.latch } } ∧
      ∀ u, u.hostUp = true → u.fnLive fn = true → u.host.latch = t.host.latch →
        ∃ v, exec (.latchedRead fn sp (off + 4) 4) u = .next v ∧ v.reply = .data (s.reg fn sp (off + 4))) ∧
  (∀ (s : State) (fn : Fn) (sp : Space) (off : Nat), s.hostUp = true → s.fnLive fn = true → hasSpace fn sp = true →
    off % 4 = 0 → isLatching fn sp off = true → s.clk.pm = .d0 →
    exec (.latchedRead fn sp off 8) s = .next { s with
      reply := .data (s.reg fn sp off + s.reg fn sp (off + 4) * 2 ^ 32) }) ∧
  (∀ (s : State) (fn : Fn) (sp : Space) (off size : Nat), s.hostUp = true → s.fnLive fn = true → hasSpace fn sp = true →
    size < 4 → s.clk.pm = .d0 →
    exec (.latchedRead fn sp off size) s = .next { s with
      reply := .data (s.reg fn sp (off / 4 * 4) / 256 ^ (off % 4) % 256 ^ size) }) ∧
  (∀ (s : State), s.hostUp = true → s.isReady = true → s.clk.pm = .d0 →
    exec .adirEntryRead s = .next { s with
      dir := { s.dir with snap := (s.entry s.dir.sel).words }
      reply := .data ((s.entry s.dir.sel).words.getD 0 0) } ∧
    exec .trainSlotRead s = .next { s with
      train := { s.train with snap := (s.slot (s.train.sel / 16) (s.train.sel % 16)).words }
      reply := .data ((s.slot (s.train.sel / 16) (s.train.sel % 16)).words.getD 0 0) } ∧
    exec .parInfoRead s = .next { s with
      par := { s.par with snap := (s.part s.par.sel).info }
      reply := .data ((s.part s.par.sel).info.getD 0 0) } ∧
    exec .janBindInfoRead s = .next { s with reply := .data (s.bind s.jan.sel).info } ∧
    (∃ t : State, exec (.latchedRead .pf .bar0 0x700020 8) s = .next t ∧ t.par.snap = (s.part s.par.sel).info ∧
      t.reply = .data (s.par.sel + (s.part s.par.sel).info.getD 0 0 * 2 ^ 32) ∧
      t = { s with
        par := { s.par with snap := t.par.snap }
        reply := t.reply }) ∧
    (∃ t : State, exec (.latchedRead .pf .bar0 0x790008 8) s = .next t ∧
      t.train.snap = (s.slot (s.train.sel / 16) (s.train.sel % 16)).words ∧
      t = { s with
        train := { s.train with snap := t.train.snap }
        reply := t.reply })) ∧
  (∀ (s : State), s.hostUp = true → s.isReady = true → s.clk.pm = .d0 →
    (∃ t : State, exec (.countersClear 0x70003C) s = .next t ∧ t = { s with par := { s.par with
        swapFree := 0
        swapPrio := 0
        swapBlocked := 0
        scrubs := 0
        disables := 0
        disabledJobs := 0 } }) ∧
    ((∀ q, mapOk {} (s.quad q).tiles = true) → ∃ t : State, exec (.countersClear 0x600000) s = .next t ∧
      t = { s with quads := t.quads } ∧
      (∀ q, (t.quad q).mul = {} ∧ ∀ k, (t.tile ⟨q, k⟩).mulStall = 0 ∧ (t.tile ⟨q, k⟩).scratch = (s.tile ⟨q, k⟩).scratch ∧
        (t.tile ⟨q, k⟩).mx = (s.tile ⟨q, k⟩).mx)) ∧
    (∀ off tl, s.Shaped → tl.q < 8 → place off = .tile tl 0x128 →
      ∃ t : State, exec (.countersClear off) s = .next t ∧ t.tile tl = { s.tile tl with mx := { freeze := (s.tile tl).mx.freeze } } ∧
        (∀ u, u ≠ tl → t.tile u = s.tile u) ∧ t = { s with quads := t.quads }) ∧
    (∀ off k, s.Shaped → k < 8 → place off = .hbm k 0x414 →
      ∃ t : State, exec (.eccCountersClear off) s = .next t ∧ t.stack k = { s.stack k with
          ce := 0
          ue := 0
          passes := 0
          ceSince := 0 } ∧
        (∀ g, g ≠ k → t.stack g = s.stack g) ∧ t = { s with hbm := t.hbm })) ∧
  (∀ (s : State) (v : Nat), s.hostUp = true → s.isReady = true →
    (s.glb.locked = false → v % 256 = 1 →
      exec (.archLevelSelect v) s = .next { s with glb := { s.glb with level := 1 } }) ∧
    (s.glb.locked = true ∨ v % 256 ≠ 1 → exec (.archLevelSelect v) s = .next s)) ∧
  (∀ (s : State) (v : Nat), s.hostUp = true → s.isReady = true → s.clk.pm = .d0 →
    (∀ sp off size, size < 4 → sp ≠ .msixCtl → exec (.registerWrite .pf sp off v size) s = .next { s with host := { s.host with
      subword := bump s.host.freeze s.host.subword } }) ∧
    (v < 2 ^ 32 → exec (.registerWrite .pf .bar0 0x78000C v 4) s = .next { s with dir := { s.dir with sel := v % 2 ^ 16 } } ∧
      exec (.registerWrite .pf .bar0 0x700020 v 4) s = .next { s with par := { s.par with sel := v % 256 } } ∧
      (bitsOf v 0 20 < 1000 ∨ 1000000 < bitsOf v 0 20 → exec (.registerWrite .pf .bar0 0x790004 v 4) s = .next s) ∧
      (1000 ≤ bitsOf v 0 20 → bitsOf v 0 20 ≤ 1000000 →
        exec (.registerWrite .pf .bar0 0x790004 v 4) s = .next { s with train := { s.train with timeout := bitsOf v 0 20 } })))

/-! ### Training (chapter 9) -/

/-- From R329, R332, R351, R352, R357, R359: COMMIT_STEP runs its op on its slot once every TRAIN_STEP and COMMIT_STEP of
the slot accepted before it has taken effect: COMMIT starts an attempt that holds
every listed handle, DISCARD empties the slot, RESOLVE_COMMIT reaches the commit point and RESOLVE_ROLLBACK rolls
back; the zeroing of the slot's buffer leaves zero lines of its domain. -/
def Obligations.CommitStepsRunTheirOp : Prop :=
  (∀ (s : State) (j : JobRef) (c : Cmd), s.due j 0x03 = some c → c.param 0x21 1 = 0 →
    (c.param 0x20 1 ≤ 15 →
      ∃ t : State, exec (.commitStepCommit j) s = .next t ∧ t.cmd j = some { c with phase := .running } ∧
        (∀ i, i ≠ j → t.cmd i = s.cmd i) ∧ t = { s with host := { s.host with cmds := t.host.cmds } }) ∧
    (15 < c.param 0x20 1 → ∃ t : State, exec (.commitStepCommit j) s = .next t ∧ Ended s t c stAborted 0x31 ∧
      t = { s with host := { s.host with cmds := t.host.cmds } })) ∧
  (∀ (s : State) (j : JobRef) (c : Cmd) (k : Nat) (list ms : List Nat) (mb : List Byte) (coord : Nat), s.cmd j = some c →
    c.op = 0x03 → c.param 0x21 1 = 0 → c.phase = .running → s.waitOk c = true → k = c.param 0x20 1 → s.trainsBefore c k = false →
    s.commitsQueued c k = false → (s.slot c.part k).state = .accumulating → (s.slot c.part k).commit = none →
    (∀ a ∈ (s.slot c.part k).acking, a.job ≠ j) → s.readList (c.param 0x28 8) (c.param 0x38 1) = some list →
    s.hostRead (c.param 0x30 8) (2 * c.param 0x22 2) = some mb →
    ms = (List.range (c.param 0x22 2)).map (fun i => fieldAt mb (2 * i) 2) → s.listCheck c.part none list = none →
    list = (s.slot c.part k).list → (s.slot c.part k).partialG = false →
    (∀ w ∈ list, (s.entry (leHandle w)).step ≠ 0xFFFFFFFF) → (∀ m ∈ ms, m < 4096) → s.membersOk ms = some coord →
    (∀ l lq q, gabLine (s.gabParts c.part (s.slot c.part k).gradFmt list) l = some (lq, q) →
      (s.bufRead c.part lq ((s.slot c.part k).gabOff + q)).marks = 0 ∧
      (s.bufRead c.part lq ((s.slot c.part k).gabOff + q)).poison = 0) →
    ∃ t cm, exec (.commitStepStart j) s = .next t ∧ (t.slot c.part k).state = .committing ∧
      (t.slot c.part k).commit = some cm ∧ cm.job = j ∧ cm.members = ms ∧
      cm.phase = (if ms = [s.glb.cfg.selfPeer] then .update else .exchange) ∧ cm.coordPeer = coord ∧
      (cm.coord = true ↔ coord = s.glb.cfg.selfPeer) ∧ cm.step = c.param 0x24 4 ∧ cm.check = s.listDigest list ∧
      (∀ h, t.entry h = { s.entry h with jobs := (s.entry h).jobs + (list.map leHandle).count h }) ∧
      (∀ q i, q * 16 + i ≠ c.part * 16 + k → t.slot q i = s.slot q i) ∧ (∀ i, i ≠ j → t.cmd i = s.cmd i) ∧
      t.quads = s.quads ∧ t.hbm = s.hbm) ∧
  (∀ (s : State) (j : JobRef) (c : Cmd) (k : Nat), s.due j 0x03 = some c → c.param 0x21 1 = 1 → k = c.param 0x20 1 →
    k ≤ 15 → s.trainsBefore c k = false → s.commitsQueued c k = false →
    ∃ t : State, exec (.commitStepDiscard j) s = .next t ∧
      ((s.slot c.part k).state = .committing → Ended s t c stSlotBusy 0 ∧ t.train = s.train ∧ t.dir = s.dir) ∧
      ((s.slot c.part k).state = .inDoubt → Ended s t c stAborted 0x34 ∧ t.train = s.train ∧ t.dir = s.dir) ∧
      ((s.slot c.part k).state = .clean ∨ (s.slot c.part k).state = .accumulating → Ended s t c stOk 0 ∧
        (t.slot c.part k).state = .clean ∧ (t.slot c.part k).list = [] ∧ (t.slot c.part k).group = c.param 0x24 4 ∧
        (t.slot c.part k).seq = (s.slot c.part k).seq ∧
        (∀ h, (t.entry h).live = (s.entry h).live ∧ (t.entry h).step = (s.entry h).step) ∧
        (∀ q i, q * 16 + i ≠ c.part * 16 + k → t.slot q i = s.slot q i) ∧ t.quads = s.quads ∧ t.hbm = s.hbm)) ∧
  (∀ (s : State) (j : JobRef) (c : Cmd) (k : Nat), s.due j 0x03 = some c → k = c.param 0x20 1 → k ≤ 15 →
    s.commitsQueued c k = false → (s.slot c.part k).state = .inDoubt → (s.slot c.part k).resolver = none →
    (c.param 0x21 1 = 2 → s.vault.copying = false → (s.handles c.part k).Nodup →
      ∃ t : State, exec (.resolveCommit j) s = .next t ∧ Committed s t c.part k ∧ Ended s t c stOk 0 ∧ t.quads = s.quads ∧
        t.hbm = s.hbm) ∧
    (c.param 0x21 1 = 3 →
      ∃ t : State, exec (.resolveRollback j) s = .next t ∧ (t.slot c.part k).state = .accumulating ∧
        (t.slot c.part k).commit = none ∧ (t.slot c.part k).list = (s.slot c.part k).list ∧ Ended s t c stOk 0 ∧
        (∀ h, (t.entry h).live = (s.entry h).live ∧ (t.entry h).step = (s.entry h).step) ∧
        t.train.rollbacks = bump s.train.freeze s.train.rollbacks ∧ t.quads = s.quads ∧ t.hbm = s.hbm)) ∧
  (∀ (s : State) (p k : Nat) (j : JobRef), s.Shaped → (s.slot p k).zeroing = some j →
    ∃ t : State, exec (.gabZeroDone p k) s = .next t ∧ (t.slot p k).zeroing = none ∧
      (∀ lq i q n, lq < (s.part p).quads.length →
        i < gabQuadLines (s.gabParts p (s.slot p k).gradFmt (s.slot p k).list) lq →
        (s.part p).bufKey lq ((s.slot p k).gabOff + i) = some (q, n) → q < 8 →
        mget clearLine (t.quad q).qb.lines n = domainZero (s.slot p k).domain) ∧
      (∀ q n, (∀ lq i, lq < (s.part p).quads.length →
          i < gabQuadLines (s.gabParts p (s.slot p k).gradFmt (s.slot p k).list) lq →
          (s.part p).bufKey lq ((s.slot p k).gabOff + i) ≠ some (q, n)) →
        mget clearLine (t.quad q).qb.lines n = mget clearLine (s.quad q).qb.lines n) ∧
      t = { s with
        quads := t.quads
        train := t.train })

/-- From R344, R348 to R353: an owner keeps each member's part of a line that it owns and sums every line once, a
member takes each sum, the update starts when no job holds a shadow copy, and its end is the commit point of a device
alone, the vote of a member, or a rollback with cause 0x3B at an uncorrectable word. A message about a line of a handle
that the directory no longer holds is dropped as stale (R310). -/
def Obligations.ExchangesSumEveryLine : Prop :=
  (∀ (s : State) (bi line k : Nat) (es : List Nat) (b : Binding) (cm : Commit), b = mget {} s.jan.bindings bi →
    b.state = .open_ → b.kind = 2 → s.slotOfBinding b none = some k → (s.slot b.part k).commit = some cm →
    cm.phase = .exchange → line % cm.members.length = cm.rank →
    (s.exchStale b.part k line = true → ∀ bad, exec (.exchPart bi line es bad) s = .next (s.exchDrop b.part k line)) ∧
    (s.exchStale b.part k line = false → (∃ t : State, exec (.exchPart bi line es false) s = .next t ∧ (t.slot b.part k).commit = some { cm with
        parts := cm.parts.filter (fun x => !(x.1 == (cm.members.idxOf? b.peer).getD 0 && x.2.1 == line)) ++
          [((cm.members.idxOf? b.peer).getD 0, line, es)] } ∧
      (∀ q i, q * 16 + i ≠ b.part * 16 + k → t.slot q i = s.slot q i) ∧ t = { s with train := t.train }) ∧
    ∃ t : State, exec (.exchPart bi line es true) s = .next t ∧ RolledBack s t b.part k cm 0x3B)) ∧
  (∀ (s : State) (p k line lq q : Nat) (cm : Commit) (ps : List GabPart) (rows : List (List Nat)),
    (s.slot p k).commit = some cm → ps = s.gabParts p (s.slot p k).gradFmt (s.slot p k).list →
    gabLine ps line = some (lq, q) → cm.phase = .exchange → line % cm.members.length = cm.rank →
    (∀ x ∈ cm.sums, x.1 ≠ line) → rows.length = cm.members.length →
    (∀ r, r < cm.members.length → rows[r]? = (if r = cm.rank then
        some (lineElems (s.slot p k).gradFmt (s.bufRead p lq ((s.slot p k).gabOff + q)))
      else (cm.parts.find? (fun x => x.1 == r && x.2.1 == line)).map (fun x => x.2.2))) →
    (s.bufRead p lq ((s.slot p k).gabOff + q)).marks = 0 → (s.bufRead p lq ((s.slot p k).gabOff + q)).poison = 0 →
    ∃ t cm', exec (.exchangeSumDone p k line) s = .next t ∧ (t.slot p k).commit = some cm' ∧
      cm'.sums = cm.sums ++ [(line, (List.range (if (s.slot p k).gradFmt = 0 then 16 else 32)).map (fun i =>
        sumElem (s.slot p k).gradFmt (rows.map (fun r => r.getD i 0))))] ∧
      cm'.phase = (if (List.range (gabTotal ps)).all (fun l => cm'.sums.any (fun x => x.1 == l)) then .update
        else .exchange) ∧
      t.dir = s.dir ∧ t.hbm = s.hbm ∧ t.host = s.host) ∧
  (∀ (s : State) (bi line k : Nat) (es : List Nat) (b : Binding) (cm : Commit), b = mget {} s.jan.bindings bi →
    b.state = .open_ → b.kind = 2 → s.slotOfBinding b none = some k → (s.slot b.part k).commit = some cm →
    cm.phase = .exchange → cm.members.idxOf? b.peer = some (line % cm.members.length) → (∀ x ∈ cm.sums, x.1 ≠ line) →
    (s.exchStale b.part k line = true → ∀ bad, exec (.exchSum bi line es bad) s = .next (s.exchDrop b.part k line)) ∧
    (s.exchStale b.part k line = false → (∃ t cm', exec (.exchSum bi line es false) s = .next t ∧ (t.slot b.part k).commit = some cm' ∧
      cm'.sums = cm.sums ++ [(line, es)] ∧
      cm'.phase = (if (List.range (gabTotal (s.gabParts b.part (s.slot b.part k).gradFmt (s.slot b.part k).list))).all
        (fun l => cm'.sums.any (fun x => x.1 == l)) then .update else .exchange) ∧ t = { s with train := t.train }) ∧
    ∃ t : State, exec (.exchSum bi line es true) s = .next t ∧ RolledBack s t b.part k cm 0x3B)) ∧
  (∀ (s : State) (p k : Nat) (cm : Commit), (s.slot p k).commit = some cm → cm.phase = .update → cm.updating = false →
    (s.shadowHeld (s.slot p k) cm.job = false →
      ∃ t : State, exec (.upuUpdateStart p k) s = .next t ∧ (t.slot p k).commit = some { cm with
          updating := true
          rules := (s.dom (s.slot p k).domain).rules } ∧
        t = { s with
          train := t.train
          quads := t.quads }) ∧
    (s.shadowHeld (s.slot p k) cm.job = true → exec (.upuUpdateStart p k) s = .next s)) ∧
  (∀ (s : State) (p k : Nat) (cm : Commit) (c : Cmd), (s.slot p k).commit = some cm → cm.phase = .update →
    cm.updating = true → (s.slot p k).resolver = none → s.vault.copying = false → s.cmd cm.job = some c →
    c.phase ≠ .final →
    (∀ unc ps, ps = s.gabParts p (s.slot p k).gradFmt (s.slot p k).list →
      unc = true ∨ ps.any (s.updBad p (s.slot p k) cm) = true →
      ∃ t : State, exec (.upuUpdateDone p k unc) s = .next t ∧ (t.slot p k).state = .accumulating ∧ (t.slot p k).commit = none ∧
        Ended s t c stRolledBack 0x3B ∧ t.dir = s.dir ∧ ∀ g, (t.stack g).lines = (s.stack g).lines) ∧
    ((s.gabParts p (s.slot p k).gradFmt (s.slot p k).list).any (s.updBad p (s.slot p k) cm) = false →
      (cm.members = [s.glb.cfg.selfPeer] → (s.handles p k).Nodup →
        ∃ (t : State) (n : UpdCount), exec (.upuUpdateDone p k false) s = .next t ∧ Committed s t p k ∧
          t.cmd cm.job = some { c with
            phase := .final
            status := stOk
            detail := 0
            res0 := n.nonfinite
            res1 := n.sat
            vflags := c.vflags ||| (if n.invalid then flInvalid else 0) } ∧
          n = ((s.gabParts p (s.slot p k).gradFmt (s.slot p k).list).foldl (fun (a : State × UpdCount) g =>
            a.1.updPart p (s.slot p k) cm a.2 g)
            ((s.part p).quads.foldl (fun (s : State) k => (s.upuBusy k.pq).fire (0x100 + k.pq)) s, {})).2) ∧
      (cm.members ≠ [s.glb.cfg.selfPeer] → cm.coord = false →
        ∃ t cm', exec (.upuUpdateDone p k false) s = .next t ∧ (t.slot p k).commit = some cm' ∧ cm'.phase = .voted ∧
          cm'.readyAt = s.orbit.val ∧ t.cmd cm.job = some c)))

/-- From R355 to R357: a coordinator decides when it holds every READY and rolls back at a mismatch, a vote, or its
timeout; a member commits at COMMIT, rolls back at ROLLBACK, asks every 100 µs while it waits, and is IN_DOUBT after its timeout;
the coordinator answers from its decisions and completes with its last ACK, or with the number missing. -/
def Obligations.CommitMessagesFollowTheirTable : Prop :=
  (∀ (s : State) (p k : Nat) (m : CommitMsg) (cm : Commit), (s.slot p k).commit = some cm → cm.coord = true →
    cm.phase ≠ .decided → m.sender ∈ cm.members →
    (m.step ≠ cm.step ∨ m.members ≠ cm.members.length ∨ m.check ≠ cm.check →
      ∃ t : State, exec (.ready p k m) s = .next t ∧ RolledBack s t p k cm 0x3D) ∧
    (m.step = cm.step → m.members = cm.members.length → m.check = cm.check →
      (∀ rs, rs = (if m.sender ∈ cm.ready then cm.ready else cm.ready ++ [m.sender]) →
        (cm.phase ≠ .voted ∨ (∃ x ∈ cm.members, x ∉ rs) →
          ∃ t : State, exec (.ready p k m) s = .next t ∧ (t.slot p k).commit = some { cm with ready := rs } ∧
            t = { s with train := t.train }) ∧
        (cm.phase = .voted → (∀ x ∈ cm.members, x ∈ rs) → cm.members ≠ [s.glb.cfg.selfPeer] →
          (s.slot p k).resolver = none → s.vault.copying = false → (s.handles p k).Nodup →
          ∃ t : State, exec (.ready p k m) s = .next t ∧ Committed s t p k ∧ (t.slot p k).decisions.head? = some (cm.step, 0) ∧
            ∃ a, (t.slot p k).acking = (s.slot p k).acking ++ [a] ∧ a.acks = [s.glb.cfg.selfPeer] ∧ a.job = cm.job ∧
              a.members = cm.members)))) ∧
  (∀ (s : State) (p k : Nat) (m : CommitMsg) (cm : Commit) (c : Cmd), (s.slot p k).commit = some cm → cm.coord = false →
    (s.slot p k).state = .committing → m.step = cm.step → m.sender = cm.coordPeer →
    (cm.phase = .voted → cm.members ≠ [s.glb.cfg.selfPeer] → (s.slot p k).resolver = none → s.vault.copying = false →
      (s.handles p k).Nodup → s.cmd cm.job = some c → c.phase ≠ .final →
      ∃ t : State, exec (.commit p k m) s = .next t ∧ Committed s t p k ∧ t.cmd cm.job = some { c with
        phase := .final
        status := stOk
        detail := 0
        res0 := cm.nonfinite
        res1 := cm.sat
        vflags := c.vflags ||| cm.vflags } ∧ t.hbm = s.hbm ∧ t.quads = s.quads) ∧
    (cm.phase ≠ .decided → ∃ t : State, exec (.rollback p k m) s = .next t ∧ RolledBack s t p k cm m.cause ∧ t.jan = s.jan)) ∧
  (∀ (s : State) (p k : Nat) (m : CommitMsg) (cm : Commit) (c : Cmd), s.cmd cm.job = some c → c.phase ≠ .final →
    ((s.slot p k).acking.find? (fun a => a.step == m.step) = some cm → m.sender ∈ cm.members → m.sender ∉ cm.acks →
      (cm.acks.length + 1 ≠ cm.members.length →
        ∃ t : State, exec (.ack p k m) s = .next t ∧ t = { s with train := t.train } ∧
          (t.slot p k).acking = (s.slot p k).acking.map (fun a =>
            if a.job = cm.job then { cm with acks := cm.acks ++ [m.sender] } else a)) ∧
      (cm.acks.length + 1 = cm.members.length →
        ∃ t : State, exec (.ack p k m) s = .next t ∧ Ended s t c stOk 0 ∧
          (t.slot p k).acking = (s.slot p k).acking.filter (fun a => a.job != cm.job) ∧ t.dir = s.dir)) ∧
    ((s.slot p k).acking.head? = some cm → cm.readyAt + 1200 * s.train.timeout ≤ s.orbit.val →
      ∃ t : State, exec (.ackTimeout p k) s = .next t ∧ Ended s t c stOk (cm.members.length - cm.acks.length) ∧
        (t.slot p k).acking = (s.slot p k).acking.filter (fun a => a.job != cm.job) ∧ t.dir = s.dir)) ∧
  (∀ (s : State) (p k : Nat) (m : CommitMsg) (cm : Commit), (s.slot p k).commit = some cm →
    (cm.coord = true → cm.phase ≠ .decided → m.sender ∈ cm.members → m.step = cm.step →
      ∃ t : State, exec (.rollbackVote p k m) s = .next t ∧ RolledBack s t p k cm 0x38) ∧
    (cm.coord = true → cm.phase ≠ .decided → cm.members ≠ [s.glb.cfg.selfPeer] →
      cm.start + 1200 * s.train.timeout ≤ s.orbit.val →
      ∃ t : State, exec (.commitTimeout p k) s = .next t ∧ RolledBack s t p k cm 0x39) ∧
    (cm.phase = .exchange → cm.start + 1200 * s.train.timeout ≤ s.orbit.val →
      ∃ t : State, exec (.exchangePartTimeout p k) s = .next t ∧ RolledBack s t p k cm 0x39)) ∧
  (∀ (s : State) (p k b : Nat) (m : CommitMsg), s.domainBinding p (s.slot p k).domain m.sender = some b →
    ∃ t typ cause, exec (.query p k m) s = .next t ∧ t = { s with jan := t.jan } ∧
      (mget {} t.jan.bindings b).ctrl.queued = (mget {} s.jan.bindings b).ctrl.queued ++
        [(s.jan.order, .commit typ { m with
          sender := s.glb.cfg.selfPeer
          cause := cause })] ∧
      ((∀ x ∈ (s.slot p k).decisions, x.1 ≠ m.step) → typ = 0x07 ∧ cause = 0) ∧
      (∀ d, (s.slot p k).decisions.find? (fun x => x.1 == m.step) = some (m.step, d) →
        typ = (if d = 0 then 0x03 else 0x04) ∧ cause = d)) ∧
  (∀ (s : State) (p k : Nat) (m : CommitMsg), exec (.unknown p k m) s = .next s) ∧
  (∀ (s : State) (p k : Nat) (cm : Commit), (s.slot p k).commit = some cm → cm.coord = false → cm.phase = .voted →
    (s.slot p k).state = .committing →
    (∀ b, s.domainBinding p (s.slot p k).domain cm.coordPeer = some b → max cm.readyAt cm.askedAt + 120000 ≤ s.orbit.val →
      ∃ t : State, exec (.commitQueryTimer p k) s = .next t ∧
        t = { s with
          jan := t.jan
          train := t.train } ∧
        (t.slot p k).commit = some { cm with askedAt := s.orbit.val } ∧
        (mget {} t.jan.bindings b).ctrl.queued = (mget {} s.jan.bindings b).ctrl.queued ++
          [(s.jan.order, .commit 0x06 (cm.msg s.glb.cfg.selfPeer))]) ∧
    (∀ c, cm.readyAt + 1200 * s.train.timeout ≤ s.orbit.val → s.cmd cm.job = some c → c.phase ≠ .final →
      ∃ t : State, exec (.inDoubtTimeout p k) s = .next t ∧ (t.slot p k).state = .inDoubt ∧ (t.slot p k).held = c.refs ∧
        (t.slot p k).commit = some cm ∧ t.cmd cm.job = some { c with
          phase := .final
          status := stAborted
          detail := 0x34
          refs := [] } ∧
        t.train.inDoubt = bump s.train.freeze s.train.inDoubt ∧ t.dir = s.dir ∧ t.quads = s.quads ∧ t.hbm = s.hbm))

/-! ### Streams (chapter 7) and the stash (chapter 9) -/

/-- From R249, R253, R257, R259, R262, R267: a ring's next fill starts in the order of requests, waits at its layer's
barrier or for room among the 4 MiB of outstanding reads (log entry 68), or asks the peer that holds it; a fill from the
stacks ends with its pages' lines in its buffer, once its turn at the tile's port has come (log entry 67). R335 to R338: a
capture puts the window of its layer into its job's record in the stash area, and a restore puts the record back into the
window. Which row each captured line belongs to is the command's operand (log entry 69). -/
def Obligations.RingFillsAndStashesMoveLines : Prop :=
  (∀ (s : State) (tl : TileId) (ctx p tt lq : Nat) (r : Ring) (f : Fill) (new_ : Bool) (e : PlanEntry), s.Shaped → tl.q < 8 →
    s.ownerOf tl = some p → s.ringOf tl ctx = some r → (s.part p).logical tl = some tt → (s.part p).lqOf tl.q = some lq →
    (s.part p).state = .active → ((s.part p).ctxs.getD ctx {}).res = .resident →
    (s.part p).switch.bind Switch.victim ≠ some ctx → r.nextStart = some (f, new_) → s.fillEntry p r f = some e →
    ((s.part p).barred r.set e.layer = true → f.barrier = false →
      ∃ t : State, exec (.ringFillStart tl ctx) s = .next t ∧ t = { s with quads := t.quads } ∧ (∀ u, u ≠ tl → t.tile u = s.tile u) ∧
        t.ringOf tl ctx = some (r.mark new_ f.num (fun x => { x with barrier := true })) ∧
        (t.quad tl.q).mul.barrierWaits = bump s.mul.freeze (s.quad tl.q).mul.barrierWaits) ∧
    ((s.part p).barred r.set e.layer = true → f.barrier = true → exec (.ringFillStart tl ctx) s = .next s) ∧
    ((s.part p).barred r.set e.layer = false → 0x400000 < s.outstanding p tl.q + s.ownBytes e f →
      exec (.ringFillStart tl ctx) s = .next s) ∧
    ((s.part p).barred r.set e.layer = false → s.outstanding p tl.q + s.ownBytes e f ≤ 0x400000 → e.source ≠ 1 →
      ∃ t : State, exec (.ringFillStart tl ctx) s = .next t ∧
        t = { s with
          quads := t.quads
          mul := { s.mul with nextReq := s.mul.nextReq + 1 } } ∧ (∀ u, u ≠ tl → t.tile u = s.tile u) ∧
        t.ringOf tl ctx = some (r.mark new_ f.num (fun x => { x with
          started := true
          barrier := false
          req := s.mul.nextReq })) ∧ (t.tile tl).scratch = (s.tile tl).scratch) ∧
    (∀ b, (s.part p).barred r.set e.layer = false → s.outstanding p tl.q + s.ownBytes e f ≤ 0x400000 → e.source = 1 →
      e.shards = 1 → e.peer ≠ s.glb.cfg.selfPeer → s.partBinding p e.peer = some b →
      ∃ t : State, exec (.ringFillStart tl ctx) s = .next t ∧
        t.ringOf tl ctx = some (r.mark new_ f.num (fun x => { x with
          started := true
          barrier := false
          req := s.mul.nextReq })) ∧
        t.mul.gathers = s.mul.gathers ++ [{
          tag := s.mul.nextTag
          part := p
          set := r.set
          tile := tl
          ctx := ctx
          fill := f.num
          shard := 0
          binding := b
          length := e.part
          lq := lq
          src := e.srcOf tt f.index
          job := r.job
          since := s.orbit.val }] ∧
        t.mul.nextTag = (s.mul.nextTag + 1) % 65536 ∧ t.hbm = s.hbm ∧ t.dir = s.dir)) ∧
  (∀ (s : State) (tl : TileId) (ctx p tt lq : Nat) (r : Ring) (f : Fill) (e : PlanEntry) (set : CfgSet)
      (ans : List (Nat × List Byte)), s.Shaped →
    tl.q < 8 → s.ownerOf tl = some p → (s.part p).logical tl = some tt →
    (s.part p).lqOf tl.q = some lq → (mget {} (s.tile tl).ctxs ctx).filling = some (r, f) → (s.part p).set? r.set = some set →
    s.fillEntry p r f = some e →
    (s.fillWaits tl ctx r f = true ∨ (s.tile tl).slotFilling = true ∨ s.portBusy p tl ctx f = true →
      ∀ us, exec (.ringFillDone tl ctx us ans) s = .next s) ∧
    (s.fillWaits tl ctx r f = false → (s.tile tl).slotFilling = false → s.portBusy p tl ctx f = false → e.source = 0 →
      e.shards = 1 → e.srcOf tt f.index + e.part ≤ s.sourceEnds p lq set 0 →
      ∃ t : State, exec (.ringFillDone tl ctx [] ans) s = .next t ∧
        (∀ i l m, i < e.part / 64 → s.pma p lq 0 (set.baseOff + e.srcOf tt f.index + 64 * i) = some l →
          shareLine ((s.part p).sharesOf ctx) (r.partByte e f 0 + 64 * i) = some m →
          mget clearLine (t.tile tl).scratch.lines m = s.pageLine l) ∧
        (mget {} (t.tile tl).ctxs ctx).ring = ((mget {} (s.tile tl).ctxs ctx).fillDone r.job f.num).ring ∧
        (mget {} (t.tile tl).ctxs ctx).dying = ((mget {} (s.tile tl).ctxs ctx).fillDone r.job f.num).dying ∧
        (∀ u, u ≠ tl → (t.tile u).scratch = (s.tile u).scratch ∧ (t.tile u).ctxs = (s.tile u).ctxs) ∧
        t.dir = s.dir ∧ t.train = s.train)) ∧
  (∀ (s : State) (tl : TileId) (ctx layer p l k : Nat) (c : Cmd) (j : TJob), s.Shaped → tl.q < 8 →
    s.ownerOf tl = some p → s.trainOf p tl ctx = some (c, j) → (s.part p).logical tl = some l → k = c.param 0x20 1 →
    c.part = p →
    (∀ rows rec, layer ∈ j.captures → (s.slot p k).rec? c.job layer = none →
      ((s.slot p k).onChip.filter (fun r => r.job == c.job)).length < (s.stashRule c).1 →
      (s.part p).stashFits (s.slot p k) ((s.slot p k).onChip.length + 1) = true →
      rec = {
        job := c.job
        layer := layer
        place := 0
        ix := (s.slot p k).freeIx
        rows := [(l, rows)] } →
      ∃ t : State, exec (.stashCaptureDone tl ctx layer rows) s = .next t ∧
        (t.slot p k).stash = (s.slot p k).stash ++ [rec] ∧
        (∀ o i x q n, (s.part p).recordLine (s.slot p k) rec l = some o → ((s.part p).quadAt o.1).waysAddr.Nodup →
          (s.windowLines p tl ctx (s.slot p k) layer)[i]? = some x → (s.part p).bufKey o.1 (o.2 + i) = some (q, n) → q < 8 →
          mget clearLine (t.quad q).qb.lines n = x) ∧
        (mget {} (t.tile tl).ctxs ctx).jobs = (mget {} (s.tile tl).ctxs ctx).jobs.map (fun x =>
          if x.job = j.job then { x with captures := x.captures.filter (fun n => n != layer) } else x) ∧
        (t.tile tl).scratch.lines = (s.tile tl).scratch.lines ∧ (∀ u, u ≠ tl → t.tile u = s.tile u) ∧ t.hbm = s.hbm ∧
        t.dir = s.dir) ∧
    (∀ r d, j.mayRestore (s.slot p k) layer = true → (c.job, layer) ∉ (s.slot p k).dropped →
      (s.slot p k).rec? c.job layer = some (r, d) → r.rows.any (fun e => e.1 == l) = true → d = true ∨ r.place = 0 →
      ∃ t : State, exec (.stashRestoreDone tl ctx layer) s = .next t ∧
        (∀ i x m, shareLine ((s.part p).sharesOf ctx)
            ((s.slot p k).stashOff + layer % 2 * (s.slot p k).stashBytes + 64 * i) = some m →
          (d = true ∧ (mget [] r.lines l)[i]? = some x) ∨
            (d = false ∧ ∃ o, (s.part p).recordLine (s.slot p k) r l = some o ∧ i < (s.slot p k).stashBytes / 64 ∧
              x = s.bufRead p o.1 (o.2 + i)) →
          mget clearLine (t.tile tl).scratch.lines m = x) ∧
        (∀ u, u ≠ tl → t.tile u = s.tile u) ∧ t.train = s.train ∧ t.hbm = s.hbm ∧ t.dir = s.dir))

/-- From R262 to R264: a peer answers a request from the base region of the set that it names, holds it, or refuses
it; a held request is asked again 2 µs later, data lies in the fill's buffer, and a refusal or a timeout ends the job.
-/
def Obligations.GathersAreServedAndRetried : Prop :=
  (∀ (s : State) (bi tag len pre patch lq off : Nat) (b : Binding), b = mget {} s.jan.bindings bi → b.state = .open_ →
    b.kind = 1 →
    ((∀ c ∈ (s.part b.part).sets, leNat ((digestBytes c.file.base).take 8) ≠ pre) →
      ∃ t : State, exec (.gatherReq bi tag len pre patch lq off) s = .next t ∧ t = { s with jan := t.jan } ∧
        (mget {} t.jan.bindings bi).ctrl.queued = b.ctrl.queued ++ [(s.jan.order, .gatherRefuse tag 1)]) ∧
    (∀ set, (s.part b.part).sets.find? (fun c => leNat ((digestBytes c.file.base).take 8) == pre) = some set →
      (set.patchCount ≠ patch ∨ s.rangeBarred b.part set lq off len = true →
        ∃ t : State, exec (.gatherReq bi tag len pre patch lq off) s = .next t ∧ t = { s with jan := t.jan } ∧
          (mget {} t.jan.bindings bi).ctrl.queued = b.ctrl.queued ++ [(s.jan.order, .gatherHold tag)]) ∧
      (set.patchCount = patch → s.rangeBarred b.part set lq off len = false →
        ((s.part b.part).quads.length ≤ lq ∨ s.regionBytes b.part lq 0 < set.baseOff + off + len →
          ∃ t : State, exec (.gatherReq bi tag len pre patch lq off) s = .next t ∧ t = { s with jan := t.jan } ∧
            (mget {} t.jan.bindings bi).ctrl.queued = b.ctrl.queued ++ [(s.jan.order, .gatherRefuse tag 2)]) ∧
        (lq < (s.part b.part).quads.length → set.baseOff + off + len ≤ s.regionBytes b.part lq 0 →
          ∃ t target words, exec (.gatherReq bi tag len pre patch lq off) s = .next t ∧
            (mget {} t.jan.bindings bi).data.queued = b.data.queued ++
              [(s.jan.order, .gatherData tag target (s.regionRead b.part lq 0 (set.baseOff + off) len) words)] ∧
            t.dir = s.dir ∧ t.quads = s.quads)))) ∧
  (∀ (s : State) (bi tag reason : Nat) (g : Gather), s.gather? bi tag = some g →
    (∃ t : State, exec (.gatherHold bi tag) s = .next t ∧ t = { s with mul := { s.mul with gathers := s.mul.gathers.map (fun x =>
      if x.tag = tag then { x with
        hold := true
        heldAt := s.orbit.val } else x) } }) ∧
    (∀ c, s.cmd g.job = some c → c.phase ≠ .final → c.status = 0 → c.aborted = false →
      (reason = 1 → ∃ t x, exec (.gatherRefuse bi tag reason) s = .next t ∧ t.cmd g.job = some x ∧ x.status = stBaseMismatch ∧
        t.mul.gathers = s.mul.gathers.filter (fun y => y.tag != tag)) ∧
      (reason = 2 → ∃ t x, exec (.gatherRefuse bi tag reason) s = .next t ∧ t.cmd g.job = some x ∧ x.status = stAborted ∧
        x.detail = 0x23 ∧ t.mul.gathers = s.mul.gathers.filter (fun y => y.tag != tag)))) ∧
  (∀ (s : State) (tag : Nat) (g : Gather) (set : CfgSet),
    s.mul.gathers.find? (fun g => g.tag == tag && g.hold) = some g → g.heldAt + 2400 ≤ s.orbit.val →
    (mget {} s.jan.bindings g.binding).state = .open_ → (s.part g.part).set? g.set = some set →
    ∃ t : State, exec (.gatherRetryTimer tag) s = .next t ∧
      t.mul.gathers = s.mul.gathers.map (fun x => if x.tag = tag then { x with hold := false } else x) ∧
      (mget {} t.jan.bindings g.binding).ctrl.queued = (mget {} s.jan.bindings g.binding).ctrl.queued ++
        [(s.jan.order, .gatherReq g.tag g.length (leNat ((digestBytes set.file.base).take 8)) set.patchCount g.lq g.src)] ∧
      t = { s with
        mul := t.mul
        jan := t.jan }) ∧
  (∀ (s : State) (bi tag : Nat) (data : List Byte) (poison : List Nat) (g : Gather) (r : Ring) (f : Fill) (e : PlanEntry),
    s.Shaped → g.tile.q < 8 → s.gather? bi tag = some g →
    s.startedFill g.tile g.ctx g.job g.fill = some (r, f) → s.fillEntry g.part r f = some e →
    ∃ t : State, exec (.gatherData bi tag data poison) s = .next t ∧
      (∀ i x m, (gatherLines g.length data poison)[i]? = some x →
        shareLine ((s.part g.part).sharesOf g.ctx) (r.partByte e f g.shard + 64 * i) = some m →
        mget clearLine (t.tile g.tile).scratch.lines m = x) ∧
      t.mul.gathers = s.mul.gathers.filter (fun y => y.tag != tag) ∧ (∀ u, u ≠ g.tile → t.tile u = s.tile u) ∧
      t = { s with
        mul := t.mul
        quads := t.quads }) ∧
  (∀ (s : State) (tag : Nat) (g : Gather) (c : Cmd), s.mul.gathers.find? (fun g => g.tag == tag) = some g →
    g.since + 1200 * s.mul.timeout ≤ s.orbit.val → s.cmd g.job = some c → c.phase ≠ .final → c.status = 0 →
    c.aborted = false →
    ∃ t x, exec (.gatherTimeout tag) s = .next t ∧ t.cmd g.job = some x ∧ x.status = stAborted ∧ x.detail = 0x26 ∧
      t.mul.gathers = s.mul.gathers.filter (fun y => y.tag != tag))

/-! ### Resets, the start and the supply (chapters 15 and 17) -/

/-- From R598 to R602: a reset abandons what runs and erases every key, a warm one keeps ORBIT, the epochs and the
open generations, and the stages from HOST_LINK to READY follow each other in code order or halt at their failure. -/
def Obligations.ResetsClearAndStagesFollow : Prop :=
  (∀ (s : State) (v : Nat), s.hostUp = true → bitsOf v 8 8 = 0xA5 → bitOf v 1 = true →
    ∃ t : State, exec (.glbResetCold v) s = .next t ∧ exec (.glbResetWarm v) s = .next t ∧ t.start.cause = 0x03 ∧
      t.start.cold = true ∧ t.start.result = 0 ∧ t.start.at_ = 1 ∧ t.orbit.val = 0 ∧ t.dir = {} ∧ t.parts = [] ∧
      t.host.cmds = [] ∧ t.host.queues = [] ∧ t.sdg.reorder = [] ∧ t.nvm = s.nvm ∧ t.fuses = s.fuses ∧ t.lc = s.lc ∧
      t.host.mem = s.host.mem) ∧
  (∀ (s : State) (v : Nat), s.Shaped → s.hostUp = true → bitsOf v 8 8 = 0xA5 → bitOf v 0 = true → bitOf v 1 = false →
    s.start.result = 1 → orbitRate s ≠ 0 → mapOk {} s.dir.entries = true → mapOk {} s.dir.domains = true →
    ∃ t : State, exec (.glbResetWarm v) s = .next t ∧ t.start.cause = 0x13 ∧ t.start.cold = false ∧ t.start.at_ = 3 ∧
      t.start.cal = s.start.cal ∧ t.orbit.val = s.orbit.val % 2 ^ 64 ∧ t.parts = [] ∧ t.host.cmds = [] ∧
      (∀ h, (t.entry h).state = .free ∧ (t.entry h).epoch =
        (if (s.entry h).state = .free then (s.entry h).epoch else nextEpoch (s.entry h).epoch)) ∧
      (∀ d, (t.dom d).open_ = false ∧ (t.dom d).kd = 0 ∧ (t.dom d).importKey = 0 ∧ (t.dom d).gen = (s.dom d).gen) ∧
      (∀ n, n < 4 → (t.clkDom n).running = true) ∧ t.nvm = s.nvm ∧ t.fuses = s.fuses) ∧
  (∀ (s : State), s.pwr.main = .on → s.pwr.perst = false → s.clk.pm = .d0 → s.start.result = 1 →
    ∃ t : State, exec .perstAssert s = .next t ∧ t.start.cause = 0x10 ∧ t.start.at_ = 3 ∧ t.start.waitPerst = true ∧
      t.pwr.perst = true ∧ t.parts = [] ∧ t.host.cmds = [] ∧ ∀ d, (t.dom d).open_ = false) ∧
  (∀ (s : State), s.Shaped → s.pwr.main = .on → s.pwr.perst = true → s.clk.pm = .d0 → s.start.waitPerst = true →
    s.start.at_ = 3 →
    ∃ t : State, exec .perstDeassert s = .next t ∧ t.start.at_ = 3 ∧ t.start.stage = 3 ∧ t.start.waitPerst = false ∧
      t.pwr.perst = false ∧ (∀ n, n < 4 → (t.clkDom n).running = true) ∧ (s.start.cold = true → t.orbit.val = 0)) ∧
  (∀ (s : State) (o : StageOutcome), StageRuns s 1 → s.pwr.perst = true →
    ∃ t : State, exec (.startStageEnd o) s = .next t ∧ t.clk.settled = true ∧ t.start.at_ = 3 ∧ t.start.waitPerst = true) ∧
  (∀ (s : State) (o : StageOutcome), StageRuns s 3 →
    ∃ t : State, exec (.startStageEnd o) s = .next t ∧ t.start.result = 0 ∧
      t.start.at_ = (if s.start.cold = true ∨ o.parityFail = true ∨ s.start.fuseHeld = false then 4 else 5)) ∧
  (∀ (s : State) (o : StageOutcome), StageRuns s 4 →
    ∃ t : State, exec (.startStageEnd o) s = .next t ∧
      (o.detail = 1 → t.start.result = 2 ∧ t.start.stage = 4 ∧ t.start.detail = 1) ∧
      (o.detail ≠ 1 → t.start.at_ = 5 ∧ t.start.fused = true ∧ t.start.fuseHeld = true)) ∧
  (∀ (s : State) (o : StageOutcome), s.Shaped → StageRuns s 5 → o.detail = 0 →
    ∃ t : State, exec (.startStageEnd o) s = .next t ∧
      (s.clk.refOk = true → t.start.at_ = 6 ∧ t.clk.locked = true ∧ t.clk.cur = 3 ∧ ∀ n, n < 4 → (t.clkDom n).cur = 0) ∧
      (s.clk.refOk = false → t.start.result = 2 ∧ t.start.stage = 5 ∧ t.start.detail = 1)) ∧
  (∀ (s : State) (o : StageOutcome), o.detail = 0 →
    (StageRuns s 6 → ∃ t : State, exec (.startStageEnd o) s = .next t ∧ t.start.at_ = 7 ∧ t.vault.rom = o.rom) ∧
    (StageRuns s 7 → ∃ t : State, exec (.startStageEnd o) s = .next t ∧
      (o.tritonSvn < s.fuses.tritonFloor → t.start.result = 2 ∧ t.start.stage = 7 ∧ t.start.detail = 2) ∧
      (s.fuses.tritonFloor ≤ o.tritonSvn → o.seqSvn < s.fuses.seqFloor → t.start.result = 2 ∧ t.start.stage = 7 ∧
        t.start.detail = 4) ∧
      (s.fuses.tritonFloor ≤ o.tritonSvn → s.fuses.seqFloor ≤ o.seqSvn → t.start.at_ = 8 ∧
        t.vault.tritonFw = o.tritonFw ∧ t.vault.seqFw = o.seqFw)) ∧
    (StageRuns s 8 → ∃ t : State, exec (.startStageEnd o) s = .next t ∧ t.start.at_ = 9 ∧ t.glb.bsState = .loading ∧
      t.vault.signers = (if o.sealedFail then slot0Only else s.vault.sealed)) ∧
    (StageRuns s 9 → s.nvm.image = none → ∃ t : State, exec (.startStageEnd o) s = .next t ∧ t.start.result = 2 ∧
      t.start.stage = 9 ∧ t.start.detail = 1 ∧ t.glb.bsState = .refused)) ∧
  (∀ (s : State) (o : StageOutcome), StageRuns s 0x0A → o.stage = 0x0A → 0x0A ∉ s.start.groupDone →
    (o.detail = 0 → ∃ t : State, exec (.startStageEnd o) s = .next t ∧ t.quads = List.replicate 8 {} ∧
      (∀ k ∈ t.hbm, k.state = .ready ∧ k.lines = [] ∧ k.pages = [] ∧ k.dirty = [] ∧ k.zeroFill = []) ∧
      ((∀ m ∈ s.start.members, m = 0x0A ∨ m ∈ s.start.groupDone) → t.start.at_ = 0x0D) ∧
      ((∃ m ∈ s.start.members, m ≠ 0x0A ∧ m ∉ s.start.groupDone) → t.start.at_ = 0x0A)) ∧
    (o.detail = 1 → ∃ t : State, exec (.startStageEnd o) s = .next t ∧ t.start.result = 2 ∧ t.start.stage = 0x0A ∧
      t.start.location = o.location)) ∧
  (∀ (s : State) (o : StageOutcome), StageRuns s 0x0D → o.detail = 0 →
    ∃ t : State, exec (.startStageEnd o) s = .next t ∧ t.start.result = 1 ∧ t.start.stage = 0x0F ∧ t.start.at_ = 0 ∧
      t.tri.ready = true ∧ t.clk.cur = 0 ∧ t.clk.gated = s.clk.gate ∧ t.glb = s.glb)

/-- From R546, R547, R549 to R558, R603: the input monitor, the sequencing of the main conversion, its faults and
their record, the caps and the thermal levels act at their limits, and SMBus answers while standby power is ready. -/
def Obligations.SupplyFaultsAndCapsAct : Prop :=
  (∀ (s : State) (v a under ov oc : Nat), s.pwr.standby ≠ .off → s.clk.pm ≠ .l3 →
    under = (if v < 5400 then s.pwr.underUs + 10 else 0) → ov = (if 8400 ≤ v then s.pwr.overUs + 10 else 0) →
    oc = (if 4000 ≤ a then s.pwr.ocUs + 10 else 0) →
    (inputCauses v a under ov oc = [] → ∃ t : State, exec (.inputSample v a) s = .next t ∧ t.pwr = { s.pwr with
        lastMv := v
        underUs := under
        overUs := ov
        ocUs := oc
        inWarn := inputWarn v
        alert := s.pwr.alert || (inputWarn v != s.pwr.inWarn) } ∧
      t = { s with
        pwr := t.pwr
        sdg := t.sdg }) ∧
    (∀ c, c ∈ inputCauses v a under ov oc → s.mainRuns = true →
      ∃ t : State, exec (.inputSample v a) s = .next t ∧ t.pwr.main = .faulted ∧ t.pwr.record.valid = true ∧
        t.pwr.record.first ≤ c ∧ t.pwr.record.first ∈ inputCauses v a under ov oc ∧ bitOf t.pwr.record.causes c = true ∧
        t.parts = [] ∧ t.host.cmds = [] ∧ t.nvm = s.nvm)) ∧
  (∀ (s : State), s.pwr.standby = .off → ∃ t : State, exec .inputUvloRise s = .next t ∧ t.pwr.standby = .starting ∧
    t = { s with pwr := t.pwr }) ∧
  (∀ (s : State) (id osc : Nat), s.pwr.standby = .starting →
    ∃ t : State, exec (.standbyReady id osc) s = .next t ∧ t.pwr.standby = .ready ∧ t.pwr.strapId = bitsOf id 0 4 ∧
      t.pwr.strapOsc = bitsOf osc 0 3 ∧ t.pwr.main = (if s.pwr.pwrEn then .ramping else .off) ∧
      t.clk.settleN = 2 ^ bitsOf osc 0 3 ∧ t = { s with
        pwr := t.pwr
        clk := t.clk }) ∧
  (∀ (s : State), s.pwr.standby ≠ .off → 1000 ≤ s.pwr.underUs →
    ∃ t : State, exec .standbyShutdown s = .next t ∧ t.pwr.standby = .off ∧ t.pwr.main = .off ∧ t.pwr.record = {} ∧
      t.orbit = {} ∧ t.roo = {} ∧ t.nvm = s.nvm ∧ t.fuses = s.fuses) ∧
  (∀ (s : State), s.pwr.standby = .ready → s.pwr.pwrEn = false →
    ∃ t : State, exec .pwrEnHigh s = .next t ∧ t.pwr.pwrEn = true ∧ t = { s with pwr := t.pwr } ∧
      (s.pwr.main = .off ∨ (s.pwr.main = .faulted ∧ s.pwr.lowSeen = true) → t.pwr.main = .ramping) ∧
      (s.pwr.main = .faulted → s.pwr.lowSeen = false → t.pwr.main = .faulted)) ∧
  (∀ (s : State) (ms : Nat), ∃ t : State, exec (.pwrEnLow ms) s = .next t ∧ t.pwr.pwrEn = false ∧ t.pwr.thermTrip = false ∧
    t.pwr.record = s.pwr.record ∧
    (s.mainRuns = true → t.pwr.main = .off ∧ t.parts = [] ∧ t.host.cmds = [] ∧ ∀ d, (t.dom d).open_ = false) ∧
    (s.mainRuns = false → t.pwr.main = s.pwr.main ∧ t = { s with pwr := t.pwr } ∧
      (s.pwr.main = .faulted → 10 ≤ ms → t.pwr.lowSeen = true))) ∧
  (∀ (s : State), s.pwr.main = .ramping → s.pwr.standby = .ready → s.pwr.pwrEn = true → 5400 ≤ s.pwr.lastMv →
    s.pwr.lastMv < 8400 → s.pwr.tripHold = false ∨ s.belowCritical = true →
    ∃ t : State, exec .pwrgdRelease s = .next t ∧ t.pwr.main = .on ∧ t.start.cause = 0x01 ∧ t.start.cold = true ∧
      t.start.at_ = 1 ∧ t.pwr.clkFault = s.pwr.record) ∧
  (∀ (s : State), s.pwr.main = .on →
    ∃ t : State, exec .mainRailOutOfRegulation s = .next t ∧ t.pwr.main = .faulted ∧ t.pwr.record = {
      valid := true
      first := 5
      sensor := 0xFF
      causes := 2 ^ 5 } ∧ t.parts = []) ∧
  (∀ (s : State) (v a p1 p10 : Nat), s.pwr.standby = .ready →
    ∃ t : State, exec (.powerCapTick v a p1 p10) s = .next t ∧ t.pwr.volts = min 0xFFFF v ∧ t.pwr.amps = min 0xFFFF a ∧
      t.pwr.p1s = min 0xFFFF p1 ∧ t.pwr.p10ms = min 0xFFFF p10 ∧
      (10 * s.pwr.limit < p1 → t.pwr.powerCap = min 3 (s.pwr.powerCap + 1) ∧ t.pwr.lowTicks = 0) ∧
      (p1 ≤ 10 * s.pwr.limit → 2 * p1 < 19 * s.pwr.limit → s.pwr.lowTicks = 9 →
        t.pwr.powerCap = s.pwr.powerCap - 1 ∧ t.pwr.lowTicks = 0) ∧
      (p1 ≤ 10 * s.pwr.limit → 19 * s.pwr.limit ≤ 2 * p1 → t.pwr.powerCap = s.pwr.powerCap ∧ t.pwr.lowTicks = 0) ∧
      t = { s with
        pwr := t.pwr
        clk := t.clk }) ∧
  (∀ (s : State) (n temp l : Nat) (th : List Nat), s.pwr.standby = .ready → s.pwr.main = .on → thresholds n = some th →
    mapOk {} s.pwr.sensors = true → temp < 65536 → temp ≠ 0x8000 → l = nextLevel th (mget {} s.pwr.sensors n).level (sint 16 temp) →
    (∀ m, m ≠ n → (mget {} s.pwr.sensors m).level ≠ 4) →
    (l ≤ 2 → ∃ t : State, exec (.thermalSample [(n, temp)]) s = .next t ∧ mget {} t.pwr.sensors n = {
        level := l
        temp := temp } ∧
      (∀ m, m ≠ n → mget {} t.pwr.sensors m = mget {} s.pwr.sensors m) ∧ t.pwr.main = .on ∧
      t.pwr.alert = (s.pwr.alert || decide ((mget {} s.pwr.sensors n).level < l))) ∧
    (l = 3 → ∃ t : State, exec (.thermalSample [(n, temp)]) s = .next t ∧ t.pwr.thermalCap = 3 ∧ t.pwr.main = .on) ∧
    (l = 4 → ∃ t : State, exec (.thermalSample [(n, temp)]) s = .next t ∧ t.pwr.main = .faulted ∧ t.pwr.thermTrip = true ∧
      t.pwr.record.first = 4 ∧ t.pwr.record.sensor = n ∧ t.parts = [])) ∧
  (∀ (s : State), s.pwr.standby = .ready →
    ∃ t : State, exec .thermalCapStep s = .next t ∧
      (3 ≤ s.pwr.levelMax → t.pwr.thermalCap = 3) ∧
      (s.pwr.levelMax = 2 → t.pwr.thermalCap = min 3 (s.pwr.thermalCap + 1)) ∧
      (s.pwr.levelMax < 2 → t.pwr.thermalCap = s.pwr.thermalCap - 1) ∧
      t = { s with
        pwr := { s.pwr with thermalCap := t.pwr.thermalCap }
        clk := t.clk }) ∧
  (∀ (s : State) (v : Nat), s.hostUp = true → bitOf v 31 = true →
    exec (.clkFaultClear v) s = .next { s with pwr := { s.pwr with
      record := {}
      clkFault := {} } }) ∧
  (∀ (s : State) (temp : Nat) (c : LaserCal), s.isReady = false → s.pwr.standby = .ready → temp < 65536 →
    s.start.cal = some c →
    exec (.laserArraySensorSample temp) s = .next { s with start := { s.start with
      laserTemp := temp
      cal := some { c with drifted := c.drifted || decide (24 < (sint 16 temp - sint 16 c.temp).natAbs) } } }) ∧
  (∀ (s : State), s.clk.pm ≠ .l3 → s.pwr.standby = .ready → ∀ i a, (i, a) ∈ [
      (Instr.smbStatus, Answer.data s.smbStatusWord), (.smbVin, .data s.pwr.volts), (.smbIin, .data s.pwr.amps),
      (.smbPin, .data s.pwr.p1s), (.smbFault, .bytes (leBytes 4 s.pwr.record.bits)),
      (.smbThermal, .bytes (leBytes 1 s.pwr.hottest.1 ++ leBytes 1 s.pwr.hottest.2.level ++ leBytes 2 s.pwr.hottest.2.temp)),
      (.smbCoolant, .bytes (leBytes 2 (mget {} s.pwr.sensors 0x20).temp ++ leBytes 2 (mget {} s.pwr.sensors 0x21).temp)),
      (.smbIdent, .bytes (leBytes 4 (0x40960000 + 16 * s.fuses.stepping) ++ leBytes 1 s.pwr.strapId ++ leBytes 1 s.lc ++
        leBytes 2 0))] →
    ∃ t : State, exec i s = .next t ∧ t.reply = a ∧ t = { s with
      reply := t.reply
      sdg := t.sdg }) ∧
  (∀ (s : State) (again : Bool), s.pwr.standby = .ready → s.pwr.alert = true →
    exec (.smbAlertResponse again) s = .next { s with
      pwr := { s.pwr with alert := again }
      reply := .data (0x60 + s.pwr.strapId) })

/-! ### TRITON (chapter 11) -/

/-- From R415, R418, R433, R434, R604: requests are answered in the order of their negotiation, sessions begin, are
established and end on their own carrier, and before READY every answer is ERROR Busy. The codes of the messages are
those of log entry 31. -/
def Obligations.SpdmAnswersInItsOrder : Prop :=
  (∀ (s : State) (c : Carrier), s.Listens c →
    (∃ t bs, exec (.getVersion c) s = .next t ∧ Answered t c (.spdm 0x04 bs) ∧ t.conn c = 1 ∧
      t.vault.sessions = s.vault.sessions.filter (fun x => !(x.carrier == c && x.vf == s.carrierVf c))) ∧
    (s.conn c = 0 → ∃ t : State, exec (.getCapabilities c) s = .next t ∧ Answered t c (.error 0x04) ∧ t.vault = s.vault) ∧
    (s.conn c ≠ 0 → ∃ t bs, exec (.getCapabilities c) s = .next t ∧ Answered t c (.spdm 0x61 bs) ∧
      t.conn c = max 2 (s.conn c)) ∧
    (2 ≤ s.conn c → (∃ t bs, exec (.negotiateAlgorithms c true) s = .next t ∧ Answered t c (.spdm 0x63 bs) ∧ t.conn c = 3) ∧
      ∃ t : State, exec (.negotiateAlgorithms c false) s = .next t ∧ Answered t c (.error 0x07) ∧ t.vault = s.vault) ∧
    (s.conn c < 3 → ∃ t : State, exec (.getDigests c) s = .next t ∧ Answered t c (.error 0x04) ∧ t.vault = s.vault)) ∧
  (∀ (s : State) (c : Carrier), s.Listens c → 3 ≤ s.conn c →
    (∃ t : State, exec (.getDigests c) s = .next t ∧ Answered t c (.spdm 0x01 (digestBytes (sha384 s.vault.chain))) ∧ t.vault = s.vault) ∧
    (∀ off len, off < s.vault.chain.length → ∃ t : State, exec (.getCertificate c 0 off len) s = .next t ∧
      Answered t c (.spdm 0x02 (leBytes 2 ((s.vault.chain.drop off).take len).length ++
        leBytes 2 (s.vault.chain.length - off - ((s.vault.chain.drop off).take len).length) ++
        (s.vault.chain.drop off).take len)) ∧ t.vault = s.vault) ∧
    (∃ t bs, exec (.challenge c 0) s = .next t ∧ Answered t c (.spdm 0x03 (digestBytes (sha384 s.vault.chain) ++ bs)) ∧
      t.vault = s.vault) ∧
    (∀ i n, i = 0 ∨ i = 0xFF ∨ i ∈ measIndices → ∃ t bs, exec (.getMeasurements c 0 i n) s = .next t ∧
      Answered t c (.spdm 0x60 bs) ∧ t.vault.sessions = s.vault.sessions) ∧
    (∀ i n, i ≠ 0 → i ≠ 0xFF → i ∉ measIndices → ∃ t : State, exec (.getMeasurements c 0 i n) s = .next t ∧
      Answered t c (.error 0x01) ∧ t.vault = s.vault) ∧
    (∃ t bs, exec (.keyExchange c 0 false) s = .next t ∧ Answered t c (.spdm 0x64 (leBytes 2 s.vault.nextSession ++ bs)) ∧
      t.vault.nextSession = s.vault.nextSession + 1 ∧ t.vault.sessions = s.vault.sessions ++ [{
        id := s.vault.nextSession
        carrier := c
        vf := s.carrierVf c }]) ∧
    (∃ t : State, exec (.keyExchange c 0 true) s = .next t ∧ Answered t c (.error 0x07) ∧ t.vault = s.vault)) ∧
  (∀ (s : State) (c : Carrier) (id : Nat) (x : Session), s.Listens c → s.session c id = some x →
    (x.established = false →
      (∃ t h, exec (.spdmFinish c id true) s = .next t ∧ Answered t c (.spdm 0x65 []) ∧
        t.vault.sessions = s.vault.sessions.map (fun y => if y.id = id then { y with
          established := true
          th2 := h } else y) ∧ t.tri.sessionsCtr = bump s.tri.freeze s.tri.sessionsCtr) ∧
      (∃ t : State, exec (.spdmFinish c id false) s = .next t ∧ Answered t c (.error 0x06) ∧
        t.vault.sessions = s.vault.sessions.filter (fun y => !(y.id == id)))) ∧
    (x.established = true →
      (∃ t : State, exec (.heartbeat c id) s = .next t ∧ Answered t c (.spdm 0x68 []) ∧ t.vault = s.vault) ∧
      (∃ t : State, exec (.keyUpdate c id) s = .next t ∧ Answered t c (.spdm 0x69 []) ∧ t.vault = s.vault) ∧
      (∃ t : State, exec (.endSession c id) s = .next t ∧ Answered t c (.spdm 0x6C []) ∧
        t.vault.sessions = s.vault.sessions.filter (fun y => !(y.id == id)) ∧ ∀ d, id ∉ (t.dom d).owners) ∧
      (∀ d, s.vault.closes.find? (fun y => y.1 == id) = some (id, d, false) →
        ∃ t : State, exec (.respondIfReady c id) s = .next t ∧ Answered t c (.error 0x42) ∧ t.vault = s.vault) ∧
      (∀ d, s.vault.closes.find? (fun y => y.1 == id) = some (id, d, true) →
        ∃ t bs, exec (.respondIfReady c id) s = .next t ∧ Answered t c (.vendor 0 bs) ∧
          t.vault.closes = s.vault.closes.erase (id, d, true)))) ∧
  (∀ (s : State) (c : Carrier) (id : Nat), s.Listens c → s.session c id = none → ∀ i, i ∈ [Instr.spdmFinish c id true,
      .heartbeat c id, .keyUpdate c id, .endSession c id, .respondIfReady c id] →
    ∃ t : State, exec i s = .next t ∧ Answered t c (.error 0x02) ∧ t.vault = s.vault) ∧
  (∀ (s : State) (c : Carrier) (r : VReq) (d n m : Nat) (bs : List Byte), s.hears c = true → s.isReady = false →
    r.carrier = c → ∀ i, i ∈ [Instr.getVersion c, .getCapabilities c, .negotiateAlgorithms c true, .getDigests c,
      .getCertificate c n m d, .challenge c n, .getMeasurements c n m d, .keyExchange c n false, .spdmFinish c n true,
      .heartbeat c n, .keyUpdate c n, .endSession c n, .respondIfReady c n, .domainOpen r d n bs m, .domainClaim r d n m,
      .domainClose r d, .getImportKey r d, .setRules r d n bs, .getReport r n m d 0 0, .signerSet r n m bs, .testOpen r n] →
    ∃ t : State, exec i s = .next t ∧ Answered t c (.error 0x03) ∧ t.vault = s.vault ∧ t.dir = s.dir ∧ t.glb = s.glb) ∧
  (∀ (s : State) (v : Nat), s.hostUp = true →
    (bitOf v 31 = true → s.tri.mbxBusy = false → 1 ≤ bitsOf v 0 12 → bitsOf v 0 12 ≤ 1024 →
      ∃ t : State, exec (.triMbxGo v) s = .next t ∧ t.tri.mbxBusy = true ∧ t.tri.mbxDone = false ∧ t.tri.mbxReqVf = bitsOf v 12 8 ∧
        t = { s with
          tri := t.tri
          sdg := t.sdg }) ∧
    (bitOf v 30 = true → ∃ t : State, exec (.triMbxAbort v) s = .next t ∧ t.tri.mbxBusy = false ∧ t = { s with tri := t.tri }))

/-- From R5, R412, R418, R419, R424 to R427: a request whose DOMAIN has a reserved bit set is refused, domains are
opened, claimed, read and closed by their owners alone, a report is one snapshot, test access and the signer table
change where the life cycle lets them, a transition runs its steps, and an SVN floor rises to at most the SVN that runs. -/
def Obligations.DomainRequestsActOnTheirRange : Prop :=
  (∀ (s : State) (r : VReq) (d n m : Nat) (bs : List Byte), s.Asks r → 4096 ≤ d → ∀ i, i ∈ [Instr.domainOpen r d n bs m,
      .domainClaim r d n m, .domainClose r d, .getImportKey r d, .setRules r d n bs, .getReport r 2 d m 0 0] →
    ∃ t as, exec i s = .next t ∧ Answered t r.carrier (.vendor 4 as) ∧ t.dir = s.dir ∧ t.vault = s.vault ∧
      t.tri.refusedCtr = bump s.tri.freeze s.tri.refusedCtr) ∧
  (∀ (s : State) (r : VReq) (d flags seed : Nat) (key : List Byte), s.Asks r → d < 4096 → flags ≤ 1 → (bitOf flags 0 = true ∨ seed = 0) →
    (s.domainSeen r.carrier d = false → ∃ t bs, exec (.domainOpen r d flags key seed) s = .next t ∧
      Answered t r.carrier (.vendor 3 bs) ∧ t.dir = s.dir ∧ t.tri.refusedCtr = bump s.tri.freeze s.tri.refusedCtr) ∧
    (s.domainSeen r.carrier d = true → s.domainsServed = true → (s.dom d).open_ = false → (s.dom d).closing = false →
      ((s.dom d).opened = false ∨ (s.dom d).gen < 65535) →
      ∃ t bs, exec (.domainOpen r d flags key seed) s = .next t ∧ Answered t r.carrier (.vendor 0 bs) ∧
        (t.dom d).open_ = true ∧ (t.dom d).closing = false ∧ (t.dom d).owners = [r.session] ∧ (t.dom d).slotKey = true ∧
        (t.dom d).gen = (if (s.dom d).opened then (s.dom d).gen + 1 else (s.dom d).gen) ∧ (t.dom d).opened = true ∧
        (t.dom d).manifestKey = slice key 0 96 ∧ (bitOf flags 0 = true → (t.dom d).seed = seed % 2 ^ 64) ∧
        (∀ e, e ≠ d → t.dom e = s.dom e) ∧ t.dir.entries = s.dir.entries ∧ t.tri.opens = bump s.tri.freeze s.tri.opens) ∧
    (s.domainSeen r.carrier d = true → (s.dom d).open_ = true → ∃ t bs, exec (.domainOpen r d flags key seed) s = .next t ∧
      Answered t r.carrier (.vendor 2 bs) ∧ t.dir = s.dir)) ∧
  (∀ (s : State) (r : VReq) (d sr ss : Nat), s.Asks r → d < 4096 → s.domainSeen r.carrier d = true → (s.dom d).open_ = true →
    (s.dom d).closing = false →
    ∃ t res bs, exec (.domainClaim r d sr ss) s = .next t ∧ Answered t r.carrier (.vendor res bs) ∧
      (ecdsaVerify (s.dom d).manifestKey (sha384 (ascii "JLDC" ++ leBytes 2 d ++ digestBytes (s.th2 r.session))) sr ss = true →
        res = 0 ∧ r.session ∈ (t.dom d).owners ∧ ∀ e, e ≠ d → t.dom e = s.dom e) ∧
      (ecdsaVerify (s.dom d).manifestKey (sha384 (ascii "JLDC" ++ leBytes 2 d ++ digestBytes (s.th2 r.session))) sr ss = false →
        res = 7 ∧ t.dir = s.dir ∧ t.tri.sigFails = bump s.tri.freeze s.tri.sigFails)) ∧
  (∀ (s : State) (r : VReq) (d row : Nat) (rule : List Byte), s.Asks r → d < 4096 → s.domainSeen r.carrier d = true → row ≤ 15 →
    (r.session ∉ (s.dom d).owners → ∀ i, i ∈ [Instr.domainClose r d, .getImportKey r d, .setRules r d row rule] →
      ∃ t bs, exec i s = .next t ∧ Answered t r.carrier (.vendor 1 bs) ∧ bs.length = 8 ∧ t.dir = s.dir ∧
        t.vault.closes = s.vault.closes) ∧
    (r.session ∈ (s.dom d).owners → (s.dom d).open_ = true → (s.dom d).closing = false →
      (∃ t : State, exec (.domainClose r d) s = .next t ∧ Answered t r.carrier (.error 0x42) ∧ (t.dom d).closing = true ∧
        t.vault.closes = s.vault.closes ++ [(r.session, d, false)]) ∧
      (∃ t bs, exec (.getImportKey r d) s = .next t ∧
        Answered t r.carrier (.vendor 0 (bs ++ leBytes 32 (s.dom d).importKey.toNat)) ∧ t.dir = s.dir) ∧
      (ruleRowOk (slice rule 0 80) = true → ∃ t bs, exec (.setRules r d row rule) s = .next t ∧
        Answered t r.carrier (.vendor 0 bs) ∧ slice (t.dom d).rules (80 * row) 80 = slice rule 0 80 ∧
        (∀ k, k ≤ 15 → k ≠ row → slice (t.dom d).rules (80 * k) 80 = slice (s.dom d).rules (80 * k) 80) ∧
        ∀ e, e ≠ d → t.dom e = s.dom e) ∧
      (ruleRowOk (slice rule 0 80) = false → ∃ t bs, exec (.setRules r d row rule) s = .next t ∧
        Answered t r.carrier (.vendor 6 bs) ∧ t.dir = s.dir))) ∧
  (∀ (s : State) (r : VReq) (scope id off len nonce : Nat), s.Asks r → id < 4096 → s.scopeOk scope id len = true → scope < 2 →
    (off = 0 → ∃ t x, exec (.getReport r scope id off len nonce) s = .next t ∧ t.vault.snap = some x ∧
      x.session = r.session ∧ x.nonce = nonce ∧ t.vault.copying = true ∧ t.dir = s.dir ∧
      ∃ bs, Answered t r.carrier (.vendor 0 (bs ++ x.portion 0 len))) ∧
    (∀ x, off ≠ 0 → s.vault.snap = some x → x.session = r.session → x.nonce = nonce →
      ∃ t bs, exec (.getReport r scope id off len nonce) s = .next t ∧
        Answered t r.carrier (.vendor 0 (bs ++ x.portion off len)) ∧ t.vault = s.vault) ∧
    (off ≠ 0 → s.vault.snap = none → ∃ t bs, exec (.getReport r scope id off len nonce) s = .next t ∧
      Answered t r.carrier (.vendor 9 bs) ∧ t.vault = s.vault)) ∧
  (∀ (s : State), s.vault.copying = true → s.vault.deferred = [] →
    exec .snapshotCopyDone s = .next { s with vault := { s.vault with copying := false } }) ∧
  (∀ (s : State) (p k : Nat) (j : JobRef) (c : Cmd), s.vault.copying = true → s.vault.deferred = [.step p k] →
    (s.slot p k).resolver = some j → s.cmd j = some c → c.phase ≠ .final → (s.handles p k).Nodup →
    ∃ t : State, exec .snapshotCopyDone s = .next t ∧ t.vault.copying = false ∧ Committed s t p k ∧ Ended s t c stOk 0) ∧
  (∀ (s : State) (r : VReq) (slot kinds parts : Nat) (key : List Byte), s.Listens r.carrier → r.reservedOk = true →
    r.level = s.recLevel → (r.session = 0 ∨ ∃ x, s.session r.carrier r.session = some x ∧ x.established = true) →
    s.pfCarrier r.carrier = true →
    (1 ≤ slot → slot ≤ 7 → kinds ≤ 7 → s.domainsServed = true → ∃ t bs, exec (.signerSet r slot kinds key) s = .next t ∧
      Answered t r.carrier (.vendor 0 bs) ∧ t.vault.sealed = s.vault.sealed.set slot (if kinds = 0 then {} else {
        key := slice key 0 96
        kinds := kinds }) ∧ t.vault.signers = s.vault.signers) ∧
    (1 ≤ parts → parts ≤ 3 → s.lc = 1 ∨ s.lc = 4 → s.vault.erased = true → ∃ t bs, exec (.testOpen r parts) s = .next t ∧
      Answered t r.carrier (.vendor 0 bs) ∧ bitOf t.tri.debug 0 = true ∧ (bitOf parts 1 = true → bitOf t.tri.debug 1 = true)) ∧
    (1 ≤ parts → parts ≤ 3 → s.lc ≠ 1 → s.lc ≠ 4 → ∃ t bs, exec (.testOpen r parts) s = .next t ∧
      Answered t r.carrier (.vendor 2 bs) ∧ t.tri.debug = s.tri.debug)) ∧
  (∀ (s : State) (v : Nat), s.hostUp = true → bitOf v 31 = true → s.tri.lcBusy = false → s.tri.ready = true →
    (lcTransition s.lc (bitsOf v 0 4) = none → ∃ t : State, exec (.lcRequest v) s = .next t ∧ t.tri.lcDone = true ∧
      t.tri.lcResult = 1 ∧ t.tri.lcBusy = false ∧ t.dir = s.dir ∧ t.vault = s.vault) ∧
    (lcTransition s.lc (bitsOf v 0 4) = some false → (∃ x ∈ s.parts, x.2.state ≠ .free) →
      ∃ t : State, exec (.lcRequest v) s = .next t ∧ t.tri.lcResult = 3 ∧ t.tri.lcBusy = false ∧ t.dir = s.dir ∧ t.vault = s.vault) ∧
    (lcTransition s.lc (bitsOf v 0 4) = some false → (∀ x ∈ s.parts, x.2.state = .free) → s.fuses.lcCount < 16 →
      ∃ t : State, exec (.lcRequest v) s = .next t ∧ t.tri.lcBusy = true ∧ t.tri.lcTarget = bitsOf v 0 4 ∧ t.tri.lcResult = 0 ∧
        t.vault.sessions = [] ∧ t.vault.sealed = slot0Only ∧ (∀ d, (t.dom d).open_ = false ∧ (t.dom d).kd = 0) ∧
        t.lc = s.lc ∧ t.fuses = s.fuses)) ∧
  (∀ (s : State), s.tri.lcBusy = true →
    ∃ t : State, exec .lcFuseBlown s = .next t ∧ t.lc = s.tri.lcTarget ∧ t.fuses = { s.fuses with lcCount := s.fuses.lcCount + 1 } ∧
      t.start.cause = 0x02 ∧ t.start.cold = true ∧ t.tri.lcBusy = false) ∧
  (∀ (s : State) (level : Nat), s.tri.ready = true → s.fuses.tritonFloor < level → level ≤ s.vault.tritonSvn →
    exec (.svnFloorRaise 0 level true) s = .next { s with fuses := { s.fuses with tritonFloor := level } } ∧
    exec (.svnFloorRaise 0 level false) s = .next s)

/-! ### Migration and STORE (chapters 13 and 17) -/

/-- From R4, R5, R496 to R499, R501: each migration op ends with the status of its first failing check, or moves its
export or import one step along Table 13.14. -/
def Obligations.MigrationRunsItsSteps : Prop :=
  (∀ (s : State) (j : JobRef) (c : Cmd) (peer : PeerCheck), s.due j 0x30 = some c → c.param 0x20 1 = 1 →
    (∀ e, s.host.exp = some e → e.phase ≠ 3 → (e.moreOp ≠ some 1 ∨ e.part ≠ c.part) →
      ∃ t : State, exec (.exportStart j peer) s = .next t ∧ Ended s t c stSlotBusy 0 ∧ t = { s with host := t.host }) ∧
    (∀ tk, s.host.exp = none → recordRoom ≤ c.param 0x24 4 → s.hostRead (c.param 0x30 8) (c.param 0x38 4) = some tk →
      (ticketReserved tk = true → ∃ t : State, exec (.exportStart j peer) s = .next t ∧ Ended s t c stReserved 0 ∧
        t = { s with host := t.host } ∧ t.host.exp = none) ∧
      (ticketReserved tk = false → fieldAt tk 4 1 ≠ s.glb.level → ∃ t : State, exec (.exportStart j peer) s = .next t ∧
        Ended s t c stVersion 0 ∧ t = { s with host := t.host } ∧ t.host.exp = none) ∧
      (ticketReserved tk = false → fieldAt tk 4 1 = s.glb.level →
        ticketOk tk = false ∨ peer.chainOk = false ∨ peer.sigOk = false ∨
          fieldAt (slice tk 0x70 96) 72 1 ≠ s.lc ∨ (s.lc ≠ 2 ∧ s.lc ≠ 3) ∨ fieldAt (slice tk 0x70 96) 73 1 ≠ 0 ∨
          fieldAt (slice tk 0xD0 256) 200 2 < s.fuses.tritonFloor ∨ fieldAt (slice tk 0xD0 256) 202 2 < s.fuses.seqFloor ∨
          (s.part c.part).shapeOk (slice tk 0x1D0 272) = false ∨ fieldAt (slice tk 0x70 96) 56 16 = s.fuses.uid →
        ∃ t : State, exec (.exportStart j peer) s = .next t ∧ Ended s t c stAborted 0x53 ∧ t = { s with host := t.host } ∧
          t.host.exp = none) ∧
      (ticketReserved tk = false → ticketOk tk = true → peer.chainOk = true → peer.sigOk = true → fieldAt tk 4 1 = s.glb.level →
        s.peerOk (slice tk 0x70 96) (slice tk 0xD0 256) = true → (s.part c.part).shapeOk (slice tk 0x1D0 272) = true →
        pubOk (slice tk 0x10 96) = true → s.host.fails = [] → (s.helloOut c.part (slice tk 0x80 32)).length ≤ c.param 0x24 4 →
        ∃ (t : State) (x : Cmd) (e : Export), exec (.exportStart j peer) s = .next t ∧ t.cmd j = some x ∧ x.phase = .final ∧
          x.status = stOk ∧ t.host.exp = some e ∧ e.part = c.part ∧ e.phase = 1 ∧ e.nonce = slice tk 0x80 32 ∧
          e.key = migKey e.prk ∧ e.hello = s.helloOut c.part (slice tk 0x80 32) ∧ 1 ≤ e.seq ∧
          (c.part ∈ s.parts.map Prod.fst → (t.part c.part).logging = true)))) ∧
  (∀ (s : State) (j : JobRef) (c : Cmd), s.due j 0x30 = some c →
    (∀ op i, (op, i) ∈ [(2, Instr.exportRound j), (3, .exportFinal j), (5, .exportRelease j)] → c.param 0x20 1 = op →
      (s.host.exp = none → ∃ t : State, exec i s = .next t ∧ Ended s t c stAborted 0x53 ∧ t = { s with host := t.host }) ∧
      (∀ e k, s.host.exp = some e → e.moreOp = some k → k ≠ op →
        ∃ t : State, exec i s = .next t ∧ Ended s t c stSlotBusy 0 ∧ t = { s with host := t.host })) ∧
    (∀ e, s.host.exp = some e → e.moreOp = none → e.part = c.part →
      (c.param 0x20 1 = 2 → e.phase = 1 → recordRoom ≤ c.param 0x24 4 → s.host.fails = [] →
        ∃ (t : State) (x : Cmd) (e' : Export), exec (.exportRound j) s = .next t ∧ t.cmd j = some x ∧ x.phase = .final ∧
          x.status = stOk ∧ t.host.exp = some e' ∧ e'.part = c.part ∧ e'.phase = 1 ∧ e.seq ≤ e'.seq ∧ e'.key = e.key ∧
          t.dirtyPages c.part = []) ∧
      (c.param 0x20 1 = 3 → e.phase = 1 → recordRoom ≤ c.param 0x24 4 →
        ((∃ d ∈ s.host.cmds, d.phase ≠ .final ∧ s.ofPart c.part d = true ∧ d.job ≠ c.job) ∨
            (∃ k, k < 16 ∧ ((s.slot c.part k).state = .committing ∨ (s.slot c.part k).state = .inDoubt)) →
          ∃ t : State, exec (.exportFinal j) s = .next t ∧ Ended s t c stSlotBusy 0 ∧ t = { s with host := t.host }) ∧
        (s.finalOk c = true → s.finalWaits c.part = true →
          exec (.exportFinal j) s = .next (s.modPart c.part (fun x => { x with suspended := true }))) ∧
        (s.finalOk c = true → s.finalWaits c.part = false → s.host.fails = [] →
          ∃ (t : State) (x : Cmd) (e' : Export), exec (.exportFinal j) s = .next t ∧ t.cmd j = some x ∧ x.phase = .final ∧
            x.status = stOk ∧ t.host.exp = some e' ∧ e'.part = c.part ∧ e'.phase = 2 ∧ e.seq ≤ e'.seq)) ∧
      (c.param 0x20 1 = 5 → e.phase = 2 → 48 ≤ c.param 0x24 4 → s.host.fails = [] →
        ∃ (t : State) (x : Cmd), exec (.exportRelease j) s = .next t ∧ t.cmd j = some x ∧ x.phase = .final ∧
          x.status = stOk ∧ x.res0 = 48 ∧ t.host.exp = some { e with
            phase := 3
            key := []
            prk := [] } ∧
          t.host.mem = Mem.writeN s.host.mem (c.param 0x28 8) (releaseToken e.prk e.nonce e.endSeq))) ∧
    (c.param 0x20 1 = 4 →
      ((s.host.exp = none ∨ ∃ e, s.host.exp = some e ∧ e.phase = 3) →
        ∃ t : State, exec (.exportCancel j) s = .next t ∧ Ended s t c stAlreadyDone 0 ∧ t = { s with host := t.host }) ∧
      (∀ e, s.host.exp = some e → e.phase ≠ 3 → e.part = c.part →
        ∃ t : State, exec (.exportCancel j) s = .next t ∧ Ended s t c stOk 0 ∧ t.host.exp = none ∧
          t.part c.part = { s.part c.part with
            logging := false
            suspended := false } ∧
          t = { s with
            host := t.host
            parts := t.parts }))) ∧
  (∀ (s : State) (j : JobRef) (c : Cmd), s.due j 0x31 = some c →
    (c.param 0x20 1 = 1 →
      (s.host.imp.isSome = true → ∃ t : State, exec (.importPrepare j) s = .next t ∧ Ended s t c stSlotBusy 0 ∧
        t = { s with host := t.host }) ∧
      (s.host.imp = none → s.partEmpty c.part = false → ∃ t : State, exec (.importPrepare j) s = .next t ∧
        Ended s t c stAborted 0x53 ∧ t = { s with host := t.host }) ∧
      (s.host.imp = none → s.partEmpty c.part = true → (s.ticketOut c.part).length ≤ c.param 0x24 4 → s.host.fails = [] →
        ∃ (t : State) (x : Cmd) (im : Import), exec (.importPrepare j) s = .next t ∧ t.cmd j = some x ∧ x.phase = .final ∧
          x.status = stOk ∧ x.res0 = (s.ticketOut c.part).length ∧
          t.host.mem = Mem.writeN s.host.mem (c.param 0x28 8) (s.ticketOut c.part) ∧
          slice (s.ticketOut c.part) 0 4 = ascii "JLMT" ∧ slice (s.ticketOut c.part) 4 1 = leBytes 1 s.recLevel ∧
          t.host.imp = some im ∧ im.part = c.part ∧ im.phase = 1 ∧ im.helloDone = false ∧ im.seq = 1 ∧
          im.nonce = slice (s.ticketOut c.part) 0x80 32 ∧ (t.part c.part).importing = true ∧ t.dir = s.dir ∧ t.hbm = s.hbm)) ∧
    (∀ peer, c.param 0x20 1 = 2 →
      ((∀ im, s.host.imp = some im → im.part ≠ c.part ∨ im.phase ≠ 1) →
        ∃ t : State, exec (.importLoad j peer) s = .next t ∧ Ended s t c stAborted 0x53 ∧ t = { s with host := t.host }) ∧
      (∀ im buf, s.host.imp = some im → im.part = c.part → im.phase = 1 →
        s.hostRead (c.param 0x28 8) (c.param 0x24 4) = some buf → buf ≠ [] →
        (im.helloDone = false →
          (reportReserved (slice buf 96 96) = true ∨ firmwareReserved (slice buf 192 256) = true →
            ∃ (t : State) (x : Cmd), exec (.importLoad j peer) s = .next t ∧ t.cmd j = some x ∧ x.phase = .final ∧
              x.status = stReserved ∧ x.res0 = 0 ∧ t.host.imp = s.host.imp ∧ t = { s with host := t.host }) ∧
          (reportReserved (slice buf 96 96) = false → firmwareReserved (slice buf 192 256) = false →
            peer.chainOk = false ∨ peer.sigOk = false ∨ s.peerOk (slice buf 96 96) (slice buf 192 256) = false →
            ∃ (t : State) (x : Cmd), exec (.importLoad j peer) s = .next t ∧ t.cmd j = some x ∧ x.phase = .final ∧
              x.status = stAborted ∧ x.detail = 0x53 ∧ x.res0 = 0 ∧ t.host.imp = s.host.imp ∧ t = { s with host := t.host }) ∧
          (reportReserved (slice buf 96 96) = false → firmwareReserved (slice buf 192 256) = false →
            peer.chainOk = true → peer.sigOk = true → s.peerOk (slice buf 96 96) (slice buf 192 256) = true →
            pubOk (slice buf 0 96) = true → buf.length = ceilDiv (544 + ceilDiv (fieldAt buf 448 2) 8 * 8) 64 * 64 →
            ∃ (t : State) (x : Cmd), exec (.importLoad j peer) s = .next t ∧ t.cmd j = some x ∧ x.phase = .final ∧
              x.status = stOk ∧ x.res0 = buf.length ∧ t.host.imp = some { im with
                helloDone := true
                prk := migPrk im.nonce im.priv (slice buf 0 96)
                key := migKey (migPrk im.nonce im.priv (slice buf 0 96)) } ∧
              t = { s with host := t.host })) ∧
        (im.helloDone = true →
          (fieldAt buf 2 2 ≠ 0 ∨ fieldAt buf 24 8 ≠ 0 →
            ∃ (t : State) (x : Cmd), exec (.importLoad j peer) s = .next t ∧ t.cmd j = some x ∧ x.phase = .final ∧
              x.status = stReserved ∧ x.res0 = 0 ∧ t.host.imp = s.host.imp ∧ t = { s with host := t.host }) ∧
          (fieldAt buf 2 2 = 0 → fieldAt buf 24 8 = 0 → fieldAt buf 1 1 ≠ s.recLevel ∨ fieldAt buf 0 1 = 0 ∨ 8 < fieldAt buf 0 1 →
            ∃ (t : State) (x : Cmd), exec (.importLoad j peer) s = .next t ∧ t.cmd j = some x ∧ x.phase = .final ∧
              x.status = stVersion ∧ x.res0 = 0 ∧ t.host.imp = s.host.imp ∧ t = { s with host := t.host }) ∧
          (fieldAt buf 2 2 = 0 → fieldAt buf 24 8 = 0 → fieldAt buf 1 1 = s.recLevel → 1 ≤ fieldAt buf 0 1 → fieldAt buf 0 1 ≤ 8 →
            fieldAt buf 8 8 ≠ im.seq ∨ fieldAt buf 16 8 ≠ mget 0 im.ordinals (fieldAt buf 0 1) →
            ∃ (t : State) (x : Cmd), exec (.importLoad j peer) s = .next t ∧ t.cmd j = some x ∧ x.phase = .final ∧
              x.status = stAborted ∧ x.detail = 0x53 ∧ x.res0 = 0 ∧ t.host.imp = s.host.imp ∧ t = { s with host := t.host }) ∧
          (∀ body, buf.length = 128 → fieldAt buf 0 1 = 7 → fieldAt buf 1 1 = s.recLevel → fieldAt buf 2 2 = 0 →
            fieldAt buf 4 4 = 64 → fieldAt buf 8 8 = im.seq → fieldAt buf 16 8 = mget 0 im.ordinals 7 →
            fieldAt buf 24 8 = 0 → allZero (slice buf 112 16) = true →
            gcmOpen im.key (leBytes 8 im.seq ++ leBytes 4 0) (buf.take 32) (slice buf 32 64) (slice buf 96 16) = some body →
            body = leBytes 8 im.seq ++ leBytes 56 0 → im.seq < 2 ^ 64 →
            ∃ (t : State) (x : Cmd) (im' : Import), exec (.importLoad j peer) s = .next t ∧ t.cmd j = some x ∧
              x.phase = .final ∧ x.status = stOk ∧ x.res0 = 128 ∧ t.host.imp = some im' ∧ im'.phase = 2 ∧
              im'.endSeq = im.seq ∧ im'.seq = im.seq + 1 ∧ t = { s with host := t.host })))) ∧
    (∀ im tok, c.param 0x20 1 = 3 → s.host.imp = some im → im.part = c.part → im.phase = 2 →
      s.hostRead (c.param 0x30 8) 48 = some tok →
      (tok ≠ releaseToken im.prk im.nonce im.endSeq → ∃ t : State, exec (.importFinish j) s = .next t ∧
        Ended s t c stAborted 0x53 ∧ t = { s with host := t.host }) ∧
      (tok = releaseToken im.prk im.nonce im.endSeq → ∃ t : State, exec (.importFinish j) s = .next t ∧ Ended s t c stOk 0 ∧
        t.host.imp = none ∧ (t.part c.part).importing = false ∧ t.dir = s.dir ∧ t.hbm = s.hbm ∧ t.jan = s.jan)) ∧
    (c.param 0x20 1 = 4 →
      (s.host.imp = none → ∃ t : State, exec (.importCancel j) s = .next t ∧ Ended s t c stAlreadyDone 0 ∧
        t = { s with host := t.host }) ∧
      (∀ im, s.host.imp = some im → im.part ≠ c.part → ∃ t : State, exec (.importCancel j) s = .next t ∧
        Ended s t c stAborted 0x53 ∧ t = { s with host := t.host }) ∧
      (∀ im, s.host.imp = some im → im.part = c.part → (∀ d ∈ s.host.cmds, d.job = c.job → d.reg = none) →
        (∀ h, c.job ∉ (s.entry h).waiting ∧ c.job ∉ (s.entry h).evicts) → (s.part c.part).state = .active →
        ∃ (t : State) (x : Cmd), exec (.importCancel j) s = .next t ∧ t.cmd j = some x ∧ x.phase = .final ∧ x.status = stOk ∧
          t.host.imp = none ∧ (t.part c.part).importing = false ∧ (t.part c.part).sets = [] ∧ (t.part c.part).hosts = [] ∧
          (t.part c.part).state = .active)))

/-- From R612, R614, R615: STORE writes the copy that is not selected, one after the other copy, leaves the selected
copy as it is, fails its verify with an invalid copy, and runs alone. Settings are those of its acceptance. -/
def Obligations.StoreWritesTheOtherCopy : Prop :=
  (∀ (s : State) (fn : Fn) (q : Nat) (d : List Byte), fieldAt d 0 1 = 0x32 → (s.cmdOf fn q d).nv = s.nvFields) ∧
  (∀ (s : State) (j : JobRef) (c : Cmd) (ok : Bool), s.due j 0x32 = some c →
    ∀ i, (i = .storeStructure j ok ∧ c.param 0x20 1 = 1) ∨ (i = .storeSettings j ok ∧ c.param 0x20 1 = 2) →
    (∃ d ∈ s.host.cmds, d.op = 0x32 ∧ d.phase ≠ .final ∧ d.order < c.order) →
    ∃ t : State, exec i s = .next t ∧ Ended s t c stSlotBusy 0 ∧ t = { s with host := t.host }) ∧
  (∀ (s : State) (j : JobRef) (c : Cmd) (a b : Copy) (k seq w : Nat), s.due j 0x32 = some c → c.param 0x20 1 = 2 →
    s.storeBusy c = false → (a, b) = s.nvm.settings → k = storeTarget a b →
    seq = (if (pairAt (a, b) (1 - k)).valid then (pairAt (a, b) (1 - k)).seq + 1 else 1) →
    w = (pairAt (a, b) k).writes + 1 →
    (∃ t : State, exec (.storeSettings j true) s = .next t ∧ Ended s t c stOk 0 ∧
      t.nvm.read (settingsAt k) 4096 = settingsPage c.nv seq w ∧
      (∀ x, x < settingsAt k ∨ settingsAt k + 4096 ≤ x → t.nvm.read x 1 = s.nvm.read x 1) ∧
      t = { s with
        host := t.host
        nvm := t.nvm }) ∧
    (∃ t : State, exec (.storeSettings j false) s = .next t ∧ Ended s t c stEcc 0 ∧ (t.nvm.settingsCopy k).valid = false ∧
      (∀ x, x < settingsAt k ∨ settingsAt k + 4096 ≤ x → t.nvm.read x 1 = s.nvm.read x 1) ∧
      t = { s with
        host := t.host
        nvm := t.nvm })) ∧
  (∀ (s : State) (j : JobRef) (c : Cmd) (img : List Byte) (a b : Copy) (k seq w : Nat), s.due j 0x32 = some c →
    c.param 0x20 1 = 1 → s.storeBusy c = false →
    s.hostRead (c.param 0x28 8) (min (c.param 0x24 4) 65537) = some img → (a, b) = s.nvm.structs → k = storeTarget a b →
    seq = (if (pairAt (a, b) (1 - k)).valid then (pairAt (a, b) (1 - k)).seq + 1 else 1) →
    w = (pairAt (a, b) k).writes + 1 →
    (∀ e, checkFile 1 1 0 (fun _ => none) (s.signer 0) img = .error e →
      ∃ t : State, exec (.storeStructure j true) s = .next t ∧ Ended s t c (reasonStatus e.1) e.1 ∧ t.nvm = s.nvm) ∧
    (∀ fs, checkFile 1 1 0 (fun _ => none) (s.signer 0) img = .ok fs → img.length ≤ 65536 →
      (∃ t : State, exec (.storeStructure j true) s = .next t ∧ Ended s t c stOk 0 ∧
        t.nvm.read (structImgAt k) img.length = img ∧
        t.nvm.read (structHdrAt k) 32 = withCrc (ascii "JLNH" ++ leBytes 4 seq ++ leBytes 4 img.length ++ leBytes 4 w ++
          leBytes 4 (crc32c img).toNat ++ leBytes 8 0) ∧
        (∀ x, x < structHdrAt k ∨ structHdrAt k + 0x11000 ≤ x → t.nvm.read x 1 = s.nvm.read x 1) ∧ t.glb = s.glb ∧
        t = { s with
          host := t.host
          nvm := t.nvm }) ∧
      (∃ t : State, exec (.storeStructure j false) s = .next t ∧ Ended s t c stEcc 0 ∧ (t.nvm.structCopy k).valid = false ∧
        (∀ x, x < structHdrAt k ∨ structHdrAt k + 0x11000 ≤ x → t.nvm.read x 1 = s.nvm.read x 1))))

/-! ### JANUS: ports, sessions and handshakes (chapter 12) -/

/-- From R439, R462, R463: bring-up moves a port along its states, and an UP port that falls restarts with its cause,
taking down the sessions whose last route it was and renewing the bindings that used it. -/
def Obligations.PortsTrainAndFall : Prop :=
  (∀ (s : State) (p : Nat), (s.port p).state = .calibrating → ∀ ok, ∃ t : State, exec (.portCalibrationDone p ok) s = .next t ∧
    PortMoved s t p { s.port p with state := if ok then .training else .off }) ∧
  (∀ (s : State) (p rtt m : Nat) (lanes : List (Nat × Nat)), (s.port p).state = .training →
    (1000 < m → ∃ t : State, exec (.laneTrainingDone p rtt lanes m) s = .next t ∧ PortMoved s t p { s.port p with state := .noPeer }) ∧
    (m ≤ 1000 → s.isReady = false → ∃ (t : State) (map : Map (Bool × Nat × Nat)), exec (.laneTrainingDone p rtt lanes m) s = .next t ∧
      PortMoved s t p { (s.port p).fresh with
        state := .attesting
        rtt := rtt
        lanes := map } ∧
      ∀ i x, lanes[i]? = some x → mget (false, 0, 0) map i = (true, x)) ∧
    (m ≤ 1000 → s.isReady = true → ∃ (t : State) (h : HelloMsg) (f : TxFrame), exec (.laneTrainingDone p rtt lanes m) s = .next t ∧
      (t.port p).state = .attesting ∧ (t.port p).rtt = rtt ∧ (t.port p).hs = some { ours := h } ∧ (t.port p).queue = [f] ∧
      f.msgs = [.hello h] ∧ f.hdr.typ = 3 ∧ f.hdr.local_ = true ∧ f.hdr.units = 3 ∧ h.level = s.recLevel ∧
      h.role = s.glb.cfg.role ∧ h.peer = s.self ∧ h.groupSize = s.glb.cfg.groupSize ∧ h.uid = s.fuses.uid ∧
      ∀ q, q ≠ p → t.port q = s.port q)) ∧
  (∀ (s : State) (p : Nat), ((s.port p).state = .training → ∃ t : State, exec (.noPeerTimeout p) s = .next t ∧
      PortMoved s t p { s.port p with state := .noPeer }) ∧
    ((s.port p).state = .noPeer → ∃ t : State, exec (.noPeerRetry p) s = .next t ∧
      PortMoved s t p { s.port p with state := .training })) ∧
  (∀ (s : State) (p lane : Nat), (s.port p).state = .up → ∀ i c, (i, c) ∈ [
      (Instr.laneLockLost p lane, 1), (.portRxTimeout p, 3), (.retrain p, 5)] →
    ∃ t : State, exec i s = .next t ∧
      t.port p = { (s.port p).fresh with
        state := .training
        lastCause := c
        lanes := (s.port p).lanes.map (fun l => (l.1, (false, l.2.2)))
        ctr := (s.port p).ctr.modify 8 (fun n => bump (s.port p).freeze n) } ∧
      (∀ q, q ≠ p → t.port q = s.port q) ∧
      (s.sdg.reorder.length < Config.reorderEntries →
        ∃ e ∈ t.sdg.reorder, e.code = 0x0B ∧ e.source = 0x110 + p ∧ e.arg0 = p ∧ e.arg1 = c) ∧
      (mapOk {} s.jan.routes = true → mapOk {} s.jan.bindings = true → ∀ n, (s.route n).valid = true →
        bitOf (s.route n).mask p = true →
        (s.NoOther n p → (t.sess n).state ≠ 2 ∧
          ∀ b, (s.bind b).state = .open_ → (s.bind b).peer = n → (t.bind b).state = .down) ∧
        (¬ s.NoOther n p → (t.sess n).state = (s.sess n).state ∧
          ∀ b, (s.bind b).state = .open_ → (s.bind b).peer = n → Dropped s t b)) ∧
      t.nvm = s.nvm) ∧
  (∀ (s : State) (p lane : Nat), (s.port p).state = .attesting ∨ (s.port p).state = .attestFailed →
    ∃ t : State, exec (.laneLockLost p lane) s = .next t ∧ PortMoved s t p { (s.port p).fresh with
      state := .training
      lanes := (s.port p).lanes.map (fun l => if l.1 = lane then (l.1, (false, l.2.2)) else l) })

/-- From R4, R5, R448 to R450, R463: HELLO is answered with PROOF, a PROOF is accepted exactly where its checks hold, FINISH
opens the port or the session, a handshake given up is retried, and an idle session keeps itself alive or falls. -/
def Obligations.HandshakesAndSessionsRun : Prop :=
  (∀ (s : State) (p : Nat) (m : HelloMsg) (h : Handshake), (s.port p).state = .attesting → (s.port p).hs = some h →
    h.failed = false →
    ∃ (t : State) (fs : List TxFrame) (f : TxFrame), exec (.hello (.port p) m) s = .next t ∧ (t.port p).hs = some { h with
        theirs := some m
        proofOk := false } ∧
      (t.port p).queue = (s.port p).queue ++ fs ++ [f] ∧ f.msgs = [.proof s.ownProof] ∧ f.hdr.typ = 3 ∧
      f.hdr.local_ = true ∧ (∀ g ∈ fs, g.hdr.units = 16 ∧ g.hdr.local_ = true) ∧
      16 * fs.length + f.hdr.units = ceilDiv (456 + ceilDiv s.vault.chain.length 8 * 8) 64 ∧
      t = { s with jan := t.jan }) ∧
  (∀ (s : State) (n : Nat) (m : HelloMsg),
    ((s.route n).valid = false ∨ (s.sess n).state = 2 → exec (.hello (.peer n) m) s = .next s) ∧
    (∀ h, (s.route n).valid = true → (s.sess n).state = 1 → (s.sess n).hs = some h → h.failed = false →
      ∃ t : State, exec (.hello (.peer n) m) s = .next t ∧ (t.sess n).hs = some { h with
        theirs := some m
        proofOk := false } ∧
      t = { s with
        jan := t.jan
        clk := t.clk }) ∧
    ((s.route n).valid = true → (s.sess n).state = 0 → ∃ (t : State) (h : Handshake), exec (.hello (.peer n) m) s = .next t ∧
      (t.sess n).state = 1 ∧ (t.sess n).hs = some h ∧ h.theirs = some m ∧ h.ours.peer = s.self ∧ h.proofOk = false ∧
      h.failed = false)) ∧
  (∀ (s : State) (a : HsAt) (m : ProofMsg) (h : Handshake) (t0 : HelloMsg) (good : Prop), s.hsAt a = some h →
    h.theirs = some t0 → h.failed = false → h.proofOk = false →
    (good ↔ (m.reserved = false ∧ t0.reserved = false ∧ t0.role < 3 ∧ m.chainOk = true ∧ m.sigOk = true ∧
      m.level = s.recLevel ∧ t0.level = s.recLevel ∧
      (m.lifecycle = 2 ∨ m.lifecycle = 3) ∧ m.lifecycle = s.lc ∧ m.debug = 0 ∧ s.fuses.tritonFloor ≤ m.tritonSvn ∧
      s.fuses.seqFloor ≤ m.seqSvn ∧ t0.groupSize = s.glb.cfg.groupSize ∧ t0.peer < s.glb.cfg.groupSize ∧
      s.self < s.glb.cfg.groupSize ∧ t0.peer ≠ s.self ∧
      (∀ q x, s.jan.ports[q]? = some x → a ≠ .port q → x.state = .up → x.peer = t0.peer → x.uid = t0.uid) ∧
      (a ≠ .peer t0.peer → (s.sess t0.peer).state = 2 → (s.sess t0.peer).uid = t0.uid))) →
    (good → ∃ t : State, exec (.proof a m) s = .next t ∧ t.hsAt a = some { h with proofOk := true } ∧
      (∀ p, a = .port p → p < s.jan.ports.length → ∃ f, (t.port p).queue = (s.port p).queue ++ [f] ∧ f.msgs = [.finish] ∧
        f.hdr.local_ = true) ∧ t = { s with jan := t.jan }) ∧
    (¬ good → ∃ t : State, exec (.proof a m) s = .next t ∧ t.hsAt a = some { h with
        failed := true
        failedAt := s.now } ∧
      t.jan.ctr = s.jan.ctr.modify 6 (fun c => bump s.jan.freeze c) ∧
      (∀ p, a = .port p → (t.port p).state = .attestFailed) ∧ (∀ n, a = .peer n → (t.sess n).state = 3) ∧
      t = { s with
        jan := t.jan
        sdg := t.sdg })) ∧
  (∀ (s : State) (a : HsAt) (h : Handshake) (m : HelloMsg), s.hsAt a = some h → h.theirs = some m → h.failed = false →
    h.proofOk = true →
    (∃ t : State, exec (.handshakeFinish a false) s = .next t ∧ t.hsAt a = some { h with
        failed := true
        failedAt := s.now } ∧
      t.jan.ctr = s.jan.ctr.modify 6 (fun c => bump s.jan.freeze c) ∧
      (∀ p, a = .port p → (t.port p).state = .attestFailed) ∧ ∀ n, a = .peer n → (t.sess n).state = 3) ∧
    (∀ p, a = .port p → ∃ t : State, exec (.handshakeFinish a true) s = .next t ∧
      t.port p = { s.port p with
        state := .up
        hs := none
        peer := m.peer
        uid := m.uid
        hopKey := true
        linkDue := true } ∧
      (∀ q, q ≠ p → t.port q = s.port q) ∧ t.jan.sessions = s.jan.sessions ∧ t.jan.bindings = s.jan.bindings ∧
      t = { s with
        jan := t.jan
        sdg := t.sdg }) ∧
    (∀ n, a = .peer n → mapOk {} s.jan.bindings = true →
      ∃ t : State, exec (.handshakeFinish a true) s = .next t ∧ (t.sess n).state = 2 ∧ (t.sess n).hs = none ∧
      (t.sess n).uid = m.uid ∧ (t.sess n).role = m.role ∧ ((t.sess n).lo = true ↔ s.self < n) ∧
      (∀ k, k ≠ n → t.sess k = s.sess k) ∧
      (∀ b, (s.bind b).peer = n → (s.bind b).state = .down → (t.bind b).state = .open_ ∧
        (t.bind b).keyGen = ((s.bind b).keyGen + 1) % 4) ∧
      (∀ b, (s.bind b).peer ≠ n → t.bind b = s.bind b))) ∧
  (∀ (s : State) (p : Nat) (h : Handshake), (s.port p).state = .attestFailed → (s.port p).hs = some h → h.failed = true →
    h.failedAt + 1200000000 ≤ s.now →
    ∃ (t : State) (o : HelloMsg) (f : TxFrame), exec (.handshakeRetry (.port p)) s = .next t ∧ (t.port p).state = .attesting ∧
      (t.port p).hs = some { ours := o } ∧ (t.port p).queue = (s.port p).queue ++ [f] ∧ f.msgs = [.hello o] ∧
      ∀ q, q ≠ p → t.port q = s.port q) ∧
  (∀ (s : State) (n : Nat), (s.sess n).state = 3 → (s.route n).valid = true →
    (∀ h, (s.sess n).hs = some h → h.failed = true ∧ h.failedAt + 1200000000 ≤ s.now) →
    ∃ (t : State) (o : HelloMsg), exec (.handshakeRetry (.peer n)) s = .next t ∧ (t.sess n).state = 1 ∧ (t.sess n).hs = some { ours := o } ∧
      ∀ k, k ≠ n → t.sess k = s.sess k) ∧
  (∀ (s : State) (n p : Nat), (s.sess n).state = 2 → (s.sess n).lastTx + 120000 ≤ s.now → s.outPort n = some p →
    p < s.jan.ports.length →
    ∃ (t : State) (f : TxFrame), exec (.keepaliveTimer n) s = .next t ∧ (t.sess n).lastTx = s.now ∧
      (t.sess n).txSeq = ((s.sess n).txSeq + 1) % 2 ^ 32 ∧ (t.port p).queue = (s.port p).queue ++ [f] ∧
      f.msgs = [.keepalive] ∧ f.hdr.vc = 0 ∧ f.hdr.dst = n ∧ f.hdr.cls = 1 ∧ f.hdr.units = 1 ∧
      f.hdr.seq = (s.sess n).txSeq ∧ t = { s with jan := t.jan }) ∧
  (∀ (s : State) (n : Nat), (s.sess n).state = 2 →
    ∃ t : State, exec (.keepalive n) s = .next t ∧ t.sess n = { s.sess n with lastRx := s.now } ∧
      (∀ k, k ≠ n → t.sess k = s.sess k) ∧ t = { s with jan := { s.jan with sessions := t.jan.sessions } }) ∧
  (∀ (s : State) (n : Nat), (s.sess n).state = 2 → (s.sess n).lastRx + 1200000 ≤ s.now →
    ∃ t : State, exec (.sessionTimeout n) s = .next t ∧ (t.sess n).state = 3 ∧ (t.sess n).hs = none ∧
      (∀ k, k ≠ n → t.sess k = s.sess k) ∧ t.jan.ctr = s.jan.ctr.modify 7 (fun c => bump s.jan.freeze c) ∧
      (∀ b, (s.bind b).state = .open_ → (s.bind b).peer = n → (t.bind b).state = .down) ∧ t.jan.ports = s.jan.ports ∧
      (s.sdg.reorder.length < Config.reorderEntries →
        ∃ e ∈ t.sdg.reorder, e.code = 0x0B ∧ e.source = 0x120 ∧ e.arg0 = 0x8000 + n ∧ e.arg1 = 3))

/-! ### JANUS: frames (chapter 12) -/

/-- From R4, R444 to R447, R458, R460: a frame passes the hop checks or asks for a replay, is dropped, forwarded, counted,
kept for its gap or taken; a LINK frame frees, returns and replays; and a port sends a due LINK frame, then replays,
then handshakes and sessions, then data. -/
def Obligations.FramesAreCheckedForwardedAndSent : Prop :=
  (∀ (s : State) (p : Nat) (f : RxFrame), (s.port p).state = .up →
    ∀ i ∈ [Instr.routedFrame p f, .forwardedFrame p f],
    (f.damaged = true ∨ f.crcOk = false ∨ f.hseq ≠ (s.port p).rxHseq →
      ∃ t : State, exec i s = .next t ∧ (t.port p).nakSeen = true ∧ (t.port p).rxHseq = (s.port p).rxHseq ∧
        ((s.port p).nakSeen = false → (t.port p).nakDue = true ∧ (t.port p).linkDue = true) ∧
        (f.crcOk = false → (s.port p).ctr.length = 9 →
          (t.port p).ctr.getD 2 0 = bump (s.port p).freeze ((s.port p).ctr.getD 2 0)) ∧
        (∀ q, q ≠ p → t.port q = s.port q) ∧ t = { s with jan := { s.jan with ports := t.jan.ports } }) ∧
    (f.damaged = false → f.crcOk = true → f.hseq = (s.port p).rxHseq →
      (f.hdr.dst ≠ s.self → f.hdr.hop = 3 ∨ (s.route f.hdr.dst).valid = false →
        ∃ t : State, exec i s = .next t ∧ (t.port p).rxHseq = ((s.port p).rxHseq + 1) % 4096 ∧ (t.port p).nakSeen = false ∧
          (t.port p).returns = (s.port p).returns.modify f.hdr.hop (· + 1) ∧ (t.port p).linkDue = true ∧
          ((s.port p).ctr.length = 9 → (t.port p).ctr.getD 7 0 = bump (s.port p).freeze ((s.port p).ctr.getD 7 0)) ∧
          (∀ q, q ≠ p → t.port q = s.port q) ∧ t = { s with jan := { s.jan with ports := t.jan.ports } }) ∧
      (∀ q, f.hdr.dst ≠ s.self → f.hdr.hop ≠ 3 → (s.route f.hdr.dst).valid = true →
        nextPort (s.route f.hdr.dst).mask (s.jan.order % 16) s.portUp = some q →
        ∃ (t : State) (g : TxFrame), exec i s = .next t ∧ (t.port q).queue = (s.port q).queue ++ [g] ∧
          g.hdr = { f.hdr with hop := f.hdr.hop + 1 } ∧ g.msgs = f.msgs ∧ g.fwd = true ∧ g.inp = some p ∧
          t = { s with jan := t.jan }) ∧
      (∀ x c, f.hdr.dst = s.self → f.msgs = [] → x = s.bind f.hdr.vc → c = x.cls (b2n (f.hdr.cls != 0)) →
        ∃ t : State, exec i s = .next t ∧ (t.port p).rxHseq = ((s.port p).rxHseq + 1) % 4096 ∧
          (∀ n, (f.hdr.vc = 0 ∧ n = 3 ∧ (s.sess f.hdr.src).state ≠ 2) ∨
              (f.hdr.vc ≠ 0 ∧ n = 3 ∧ (x.peer ≠ f.hdr.src ∨ (x.state ≠ .open_ ∧ x.state ≠ .closing))) ∨
              (f.hdr.vc ≠ 0 ∧ n = 2 ∧ x.peer = f.hdr.src ∧ x.state = .open_ ∧ f.hdr.keyGen ≠ x.keyGen) →
            t.jan.ctr = s.jan.ctr.modify n (fun c => bump s.jan.freeze c) ∧ t.jan.bindings = s.jan.bindings ∧
            t.jan.sessions = s.jan.sessions) ∧
          (f.hdr.vc ≠ 0 → x.peer = f.hdr.src → x.state = .open_ → f.hdr.keyGen = x.keyGen →
            (∀ n, (n = 1 ∧ 16384 < seqAhead c.rxSeq f.hdr.seq) ∨
                (n = 0 ∧ seqAhead c.rxSeq f.hdr.seq ≤ 16384 ∧ f.tagOk = false) ∨
                (n = 4 ∧ seqAhead c.rxSeq f.hdr.seq ≤ 16384 ∧ f.tagOk = true ∧
                  (f.formatOk = false ∨ f.hdr.level ≠ s.recLevel)) ∨
                (n = 5 ∧ seqAhead c.rxSeq f.hdr.seq ≤ 16384 ∧ f.tagOk = true ∧ f.formatOk = true ∧
                  f.hdr.level = s.recLevel ∧ c.grant < c.used + f.hdr.units) →
              t.jan.ctr = s.jan.ctr.modify n (fun c => bump s.jan.freeze c) ∧ Dropped s t f.hdr.vc) ∧
            (seqAhead c.rxSeq f.hdr.seq ≤ 16384 → f.tagOk = true → f.formatOk = true → f.hdr.level = s.recLevel →
              c.used + f.hdr.units ≤ c.grant →
              (∀ d, d ≠ f.hdr.vc → t.bind d = s.bind d) ∧ t.jan.ctr = s.jan.ctr ∧
              (f.hdr.seq = c.rxSeq → c.early = [] → (t.bind f.hdr.vc).cls (b2n (f.hdr.cls != 0)) = { c with
                used := c.used + f.hdr.units
                credit := c.credit + f.hdr.creturn
                demandTx := if f.hdr.creturn = 0 then c.demandTx else false
                demandRx := c.demandRx || f.hdr.demand
                rxSeq := (nextSeq c.rxSeq).1
                rxKeys := c.rxKeys + (nextSeq c.rxSeq).2
                toReturn := c.toReturn + f.hdr.units }) ∧
              (f.hdr.seq ≠ c.rxSeq → (∀ e ∈ c.early, e.1 ≠ f.hdr.seq) →
                ((t.bind f.hdr.vc).cls (b2n (f.hdr.cls != 0))).early = c.early ++ [(f.hdr.seq, [], f.hdr.units)] ∧
                ((t.bind f.hdr.vc).cls (b2n (f.hdr.cls != 0))).rxSeq = c.rxSeq ∧
                (c.early = [] → ((t.bind f.hdr.vc).cls (b2n (f.hdr.cls != 0))).gapSince = s.now))))))) ∧
  (∀ (s : State) (p : Nat) (f : RxFrame) (x : Binding) (c : BClass) (m : JMsg) (i : Instr), (s.port p).state = .up →
    f.damaged = false → f.crcOk = true → f.hseq = (s.port p).rxHseq → f.hdr.dst = s.self → f.hdr.vc ≠ 0 →
    x = s.bind f.hdr.vc → c = x.cls (b2n (f.hdr.cls != 0)) → x.peer = f.hdr.src → x.state = .open_ →
    f.hdr.keyGen = x.keyGen → f.tagOk = true → f.formatOk = true → f.hdr.level = s.recLevel → f.hdr.seq = c.rxSeq →
    c.used + f.hdr.units ≤ c.grant → c.early = [] → JMsg.malformed m = false →
    (∀ tag len pre patch lq off r d tgt bad l es err k n, (m, i) ∈ [(JMsg.close, Instr.close f.hdr.vc),
      (.release k n, .release f.hdr.vc k n), (.gatherHold tag, .gatherHold f.hdr.vc tag),
      (.gatherReq tag len pre patch lq off, .gatherReq f.hdr.vc tag len pre patch lq off),
      (.gatherRefuse tag r, .gatherRefuse f.hdr.vc tag r), (.gatherData tag tgt d bad, .gatherData f.hdr.vc tag d bad),
      (.exchPart l es err, .exchPart f.hdr.vc l es err), (.exchSum l es err, .exchSum f.hdr.vc l es err)] →
      ∃ u : State, exec (.routedFrame p { f with msgs := [] }) s = .next u ∧
        exec (.routedFrame p { f with msgs := [m] }) s = exec i u ∧
        exec (.forwardedFrame p { f with msgs := [m] }) s = exec i u)) ∧
  (∀ (s : State) (p : Nat) (f : RxFrame) (u : LinkUnit), (s.port p).state = .up → f.damaged = false → f.crcOk = true →
    f.hseq = (s.port p).rxHseq →
    (f.tagOk = false → ∃ t : State, exec (.linkFrame p f u) s = .next t ∧ (t.port p).state = .training ∧ (t.port p).lastCause = 4) ∧
    (f.tagOk = true → f.formatOk = false ∨ f.hdr.level ≠ s.recLevel →
      ∃ t : State, exec (.linkFrame p f u) s = .next t ∧ (t.port p).state = .up ∧ (t.port p).link = (s.port p).link ∧
        (t.port p).replay = (s.port p).replay ∧ (t.port p).credits = (s.port p).credits ∧
        t = { s with jan := { s.jan with ports := t.jan.ports } }) ∧
    (f.tagOk = true → f.formatOk = true → f.hdr.level = s.recLevel → u.nak = false →
      ∃ t : State, exec (.linkFrame p f u) s = .next t ∧ (t.port p).state = .up ∧ (t.port p).link = some (u, s.now) ∧
        (t.port p).rxHseq = ((s.port p).rxHseq + 1) % 4096 ∧
        (∀ i, (s.port p).replay.findIdx? (fun f => f.hseq == u.ack) = some i → (t.port p).replay = (s.port p).replay.drop (i + 1)) ∧
        ((∀ f ∈ (s.port p).replay, f.hseq ≠ u.ack) → (t.port p).replay = (s.port p).replay) ∧
        (∀ n h, u.credits = [n, 0, 0, 0] → (s.port p).credits.length = 4 → (s.port p).drawn = h :: List.replicate 3 0 →
          (t.port p).shared = (s.port p).shared + min n h ∧
          (t.port p).credits.getD 0 0 = min 32 ((s.port p).credits.getD 0 0 + (n - min n h))) ∧
        (∀ q, q ≠ p → t.port q = s.port q) ∧
        t = { s with
          jan := t.jan
          sdg := t.sdg }) ∧
    (f.tagOk = true → f.formatOk = true → f.hdr.level = s.recLevel → u.nak = true → (∀ g ∈ (s.port p).replay, g.hseq ≠ u.ack) →
      ((∃ g ∈ (s.port p).replay, 16 ≤ g.replays) → ∃ t : State, exec (.linkFrame p f u) s = .next t ∧
        (t.port p).state = .training ∧ (t.port p).lastCause = 2) ∧
      ((∀ g ∈ (s.port p).replay, g.replays < 16) → ∃ t : State, exec (.linkFrame p f u) s = .next t ∧
        (t.port p).replaying = (s.port p).replay.length ∧
        (t.port p).replay = (s.port p).replay.map (fun g => { g with replays := g.replays + 1 })))) ∧
  (∀ (s : State) (p : Nat), (s.port p).state = .up → ∃ t : State, exec (.linkFrameDue p) s = .next t ∧
    PortMoved s t p { s.port p with linkDue := true }) ∧
  (∀ (s : State) (p : Nat) (x : JPort), x = s.port p → x.state = .up ∨ x.state = .attesting →
    (x.state = .up → x.linkDue = true → x.replay.length < 512 →
      ∃ (t : State) (g : TxFrame), exec (.frameTransmit p) s = .next t ∧ (t.port p).replay = x.replay ++ [g] ∧ g.hseq = x.txHseq ∧
        g.hdr.typ = 1 ∧ g.hdr.units = 1 ∧ g.hdr.dst = x.peer ∧ g.hdr.seq = x.linkSeq ∧ (∃ u, g.link = some u ∧
          u.ack = (x.rxHseq + 4095) % 4096 ∧ u.nak = x.nakDue ∧ u.credits = x.returns ∧ u.dist = s.jan.dist ∧
          u.synced = s.jan.synced ∧ u.tTx = s.now) ∧
        (t.port p).txHseq = (x.txHseq + 1) % 4096 ∧ (t.port p).linkDue = false ∧ (t.port p).nakDue = false ∧
        (t.port p).returns = [0, 0, 0, 0] ∧ (∀ q, q ≠ p → t.port q = s.port q) ∧
        t = { s with jan := { s.jan with ports := t.jan.ports } }) ∧
    ((x.state ≠ .up ∨ x.linkDue = false ∨ 512 ≤ x.replay.length) → x.replaying ≠ 0 →
      ∃ t : State, exec (.frameTransmit p) s = .next t ∧ (t.port p).replaying = x.replaying - 1 ∧ (t.port p).replay = x.replay ∧
        (t.port p).txHseq = x.txHseq ∧ (t.port p).queue = x.queue ∧ t = { s with jan := { s.jan with ports := t.jan.ports } }) ∧
    (∀ f, (x.state ≠ .up ∨ x.linkDue = false) → x.replaying = 0 → x.replay.length < 512 → x.first = some f →
      f.hdr.local_ = true → f.fwd = false → f.inp = none → f.hdr.typ = 3 →
      ∃ t : State, exec (.frameTransmit p) s = .next t ∧ (t.port p).replay = x.replay ++ [{ f with hseq := x.txHseq }] ∧
        (t.port p).queue = x.queue.filter (fun g => g.order != f.order) ∧ (t.port p).txHseq = (x.txHseq + 1) % 4096 ∧
        (t.port p).credits = x.credits ∧ t = { s with jan := { s.jan with ports := t.jan.ports } }) ∧
    (∀ b n o, x.state = .up → x.linkDue = false → x.replaying = 0 → x.replay.length < 512 → x.queue = [] →
      s.localFrames p 1 = [] → s.nextLocal p = some (b, n, o) →
      ∃ (t : State) (g : TxFrame), exec (.frameTransmit p) s = .next t ∧ (t.port p).replay = x.replay ++ [g] ∧ g.hseq = x.txHseq ∧
        g.hdr.typ = 2 ∧ g.hdr.cls = 0 ∧ g.hdr.units = n ∧ g.hdr.dst = (s.bind b).peer ∧ g.hdr.vc = (s.bind b).remote ∧
        g.hdr.seq = (s.bind b).data.txSeq ∧ g.hdr.keyGen = (s.bind b).keyGen ∧
        g.msgs = (takeUnits (s.bind b).data.queued (s.bind b).data.sentUnits n).1 ∧
        (t.bind b).data.txSeq = (nextSeq (s.bind b).data.txSeq).1 ∧
        (t.bind b).data.credit = (s.bind b).data.credit - n ∧ (t.port p).lastBinding = b ∧
        (∀ c, c ≠ b → t.bind c = s.bind c) ∧ t = { s with jan := t.jan }))

/-! ### JANUS: bindings and ORBIT (chapter 12) -/

/-- From R451 to R456, R458, R461, R463, R470, R471: a request is refused by its first failing check or takes a free
number; offers that mirror open or refuse; a close passes through CLOSING and QUARANTINE; unused credit is released; a
gap that stays open takes its binding down; and ORBIT follows its parent. -/
def Obligations.BindingsOpenCloseAndReturn : Prop :=
  (∀ (s : State) (peer p mn mx : Nat), s.isReady = true → peer = bitsOf s.jan.arg0 16 12 → p = bitsOf s.jan.arg0 0 8 →
    mn = bitsOf s.jan.arg2 0 16 → mx = bitsOf s.jan.arg2 16 16 →
    (∀ r, (r = 2 ∧ s.glb.cfg.role = 0) ∨
        (r = 3 ∧ s.glb.cfg.role ≠ 0 ∧ (s.route peer).valid = false) ∨
        (r = 4 ∧ s.glb.cfg.role ≠ 0 ∧ (s.route peer).valid = true ∧ (s.part p).state ≠ .active) ∨
        (r = 6 ∧ s.glb.cfg.role ≠ 0 ∧ (s.route peer).valid = true ∧ (s.part p).state = .active ∧
          (mn < 16 ∨ mx < mn ∨ s.freeSlots p < mn + 4)) ∨
        (r = 7 ∧ s.glb.cfg.role ≠ 0 ∧ (s.route peer).valid = true ∧ (s.part p).state = .active ∧ 16 ≤ mn ∧ mn ≤ mx ∧
          mn + 4 ≤ s.freeSlots p ∧ s.freeBinding = none) ∨
        (r = 0xA ∧ s.glb.cfg.role ≠ 0 ∧ (s.route peer).valid = true ∧ (s.part p).state = .active ∧ 16 ≤ mn ∧ mn ≤ mx ∧
          mn + 4 ≤ s.freeSlots p ∧ s.freeBinding.isSome = true ∧
          ∃ e ∈ s.jan.bindings, e.2.kind = 1 ∧ e.2.peer = peer ∧ e.2.part = p ∧ e.2.state.holds = true) →
      ∃ t : State, exec .bindOpenPart s = .next t ∧ t = { s with
        jan := { s.jan with
          op := 1
          done := true
          result := r }
        sdg := t.sdg }) ∧
    (∀ b, s.glb.cfg.role ≠ 0 → (s.route peer).valid = true → (s.part p).state = .active → 16 ≤ mn → mn ≤ mx →
      mn + 4 ≤ s.freeSlots p → s.freeBinding = some b →
      (∀ e ∈ s.jan.bindings, e.2.kind = 1 → e.2.peer = peer → e.2.part = p → e.2.state.holds = false) →
      ∃ t : State, exec .bindOpenPart s = .next t ∧ t.jan.result = 0 ∧ t.jan.done = true ∧ t.jan.op = 1 ∧
        t.jan.number = b ∧ (t.bind b).kind = 1 ∧ (t.bind b).part = p ∧ (t.bind b).peer = peer ∧
        (t.bind b).remotePart = bitsOf s.jan.arg0 8 8 ∧ (t.bind b).minSlots = mn ∧ (t.bind b).maxSlots = mx ∧
        (t.bind b).data.grant = mn ∧ (t.bind b).ctrl.grant = 4 ∧ (∀ c, c ≠ b → t.bind c = s.bind c) ∧
        ((s.sess peer).state ≠ 2 → (t.bind b).state = .waiting ∧ (t.sess peer).state = 1) ∧
        ((s.sess peer).state = 2 → (∀ e ∈ s.jan.offers, (t.bind b).mirrors e.1 e.2.1 = false) →
          (t.bind b).state = .waiting ∧ (∀ q, s.outPort peer = some q → ∃ (f : TxFrame) (o : Offer),
            (t.port q).queue = (s.port q).queue ++ [f] ∧ f.msgs = [.offer o] ∧ o.kind = 1 ∧ o.binding = b ∧ o.part = p ∧
            o.remotePart = bitsOf s.jan.arg0 8 8)) ∧
        ((s.sess peer).state = 2 → (∃ e ∈ s.jan.offers, (t.bind b).mirrors e.1 e.2.1 = true) →
          (t.bind b).state = .open_))) ∧
  (∀ (s : State) (peer d mn mx : Nat), s.isReady = true → peer = bitsOf s.jan.arg0 16 12 → d = bitsOf s.jan.arg1 0 12 →
    mn = bitsOf s.jan.arg2 0 16 → mx = bitsOf s.jan.arg2 16 16 → s.glb.cfg.role ≠ 0 → (s.route peer).valid = true →
    (s.partOfDomain d = none → ∃ t : State, exec .bindOpenDomain s = .next t ∧ t.jan.result = 5 ∧ t.jan.bindings = s.jan.bindings) ∧
    (∀ p, s.partOfDomain d = some p → (s.part p).state ≠ .active → ∃ t : State, exec .bindOpenDomain s = .next t ∧
      t.jan.result = 4 ∧ t.jan.bindings = s.jan.bindings) ∧
    (∀ p, s.partOfDomain d = some p → (s.part p).state = .active →
      (s.domainOk p d = false → ∃ t : State, exec .bindOpenDomain s = .next t ∧ t.jan.result = 5 ∧ t.jan.bindings = s.jan.bindings) ∧
      (∀ b, s.domainOk p d = true → 16 ≤ mn → mn ≤ mx → mn + 4 ≤ s.freeSlots p → s.freeBinding = some b →
        (s.partBinding p peer = none → ∃ t : State, exec .bindOpenDomain s = .next t ∧ t.jan.result = 8 ∧
          t.jan.bindings = s.jan.bindings) ∧
        (∀ pb, s.partBinding p peer = some pb →
          (∀ e ∈ s.jan.bindings, e.2.kind = 2 → e.2.peer = peer → e.2.domain = d → e.2.state.holds = false) →
          (s.sess peer).state ≠ 2 →
          ∃ t : State, exec .bindOpenDomain s = .next t ∧ t.jan.result = 0 ∧ t.jan.op = 2 ∧ t.jan.number = b ∧
            (t.bind b).kind = 2 ∧ (t.bind b).domain = d ∧ (t.bind b).remoteDomain = bitsOf s.jan.arg1 16 12 ∧
            (t.bind b).part = p ∧ (t.bind b).peer = peer ∧ (t.bind b).remotePart = (s.bind pb).remotePart ∧
            (t.bind b).state = .waiting ∧ ∀ c, c ≠ b → t.bind c = s.bind c)))) ∧
  (∀ (s : State), s.isReady = true →
    ((s.bind s.jan.bindingArg).state.holds = false → ∃ t : State, exec .bindClose s = .next t ∧ t = { s with
      jan := { s.jan with
        op := 3
        done := true
        result := 9 }
      sdg := t.sdg }) ∧
    ((s.bind s.jan.bindingArg).state.holds = true → ∃ t : State, exec .bindClose s = .next t ∧
      (t.bind s.jan.bindingArg).state = .closing ∧ t.jan.result = 0 ∧ t.jan.op = 3 ∧ t.jan.done = true ∧
      ((s.bind s.jan.bindingArg).state = .open_ → ∃ n, (n, JMsg.close) ∈ (t.bind s.jan.bindingArg).ctrl.queued))) ∧
  (∀ (s : State) (n : Nat) (o : Offer), (s.sess n).state = 2 →
    ((∀ e ∈ s.jan.bindings, e.2.state = .waiting → e.2.mirrors n o = false) →
      exec (.bindOffer n o) s = .next { s with jan := { s.jan with offers := s.jan.offers ++ [(n, o, s.now)] } }) ∧
    (∀ b, s.jan.bindings.find? (fun b => b.2.state == .waiting && b.2.mirrors n o) = some (b, s.bind b) →
      ((s.bind b).kind = 1 ∨ ((s.dom (s.bind b).domain).open_ = true ∧ (s.dom (s.bind b).domain).closing = false ∧
          o.keyDigest = (sha384 (s.dom (s.bind b).domain).manifestKey).toNat ∧ (s.bind b).kind = 2) →
        ∃ t : State, exec (.bindOffer n o) s = .next t ∧ BindingMoved s t b { (s.bind b).atOpen s.now with
          state := .open_
          remote := o.binding
          keyGen := 0 }) ∧
      ((s.bind b).kind = 2 → (s.dom (s.bind b).domain).open_ = false ∨
          o.keyDigest ≠ (sha384 (s.dom (s.bind b).domain).manifestKey).toNat →
        ∃ t : State, exec (.bindOffer n o) s = .next t ∧ BindingMoved s t b { s.bind b with state := .refused }))) ∧
  (∀ (s : State) (n : Nat) (o : Offer), exec (.bindOfferExpiry n o) s = .next { s with jan := { s.jan with
    offers := s.jan.offers.filter (fun e => !(e.1 == n && e.2.1 == o && decide (e.2.2 + 1200000000 ≤ s.now))) } }) ∧
  (∀ (s : State) (b : Nat),
    ((s.bind b).state = .open_ → ∃ (t : State) (n : Nat), exec (.close b) s = .next t ∧ (t.bind b).state = .quarantine ∧
      (t.bind b).since = s.now ∧ (n, JMsg.close) ∈ (t.bind b).ctrl.queued) ∧
    ((s.bind b).state = .closing → ∀ i, i = .close b ∨ (i = .closingTimeout b ∧ (s.bind b).since + 120000 ≤ s.now) →
      ∃ t : State, exec i s = .next t ∧ t.bind b = { s.bind b with
          state := .quarantine
          since := s.now } ∧
        (∀ c, c ≠ b → t.bind c = s.bind c) ∧
        ((∀ e ∈ s.jan.bindings, e.1 ≠ b → e.2.peer = (s.bind b).peer → e.2.state.holds = false) →
          mapOk {} s.jan.bindings = true → (t.sess (s.bind b).peer).state = 0) ∧
        (∀ n, n ≠ (s.bind b).peer → t.sess n = s.sess n)) ∧
    ((s.bind b).state = .quarantine → (s.bind b).since + 1200000 ≤ s.now →
      ∃ t : State, exec (.quarantineExpiry b) s = .next t ∧ BindingMoved s t b {}) ∧
    (∀ k n, (s.bind b).state = .open_ → ∃ t : State, exec (.release b k n) s = .next t ∧ BindingMoved s t b
      (if k = 0 then { s.bind b with data := { (s.bind b).data with grant := (s.bind b).data.grant - n } }
       else { s.bind b with ctrl := { (s.bind b).ctrl with grant := (s.bind b).ctrl.grant - n } })) ∧
    ((s.bind b).state = .open_ → (s.bind b).data.queued = [] → (s.bind b).minSlots < (s.bind b).data.credit →
      (s.bind b).data.idleSince + 12000 ≤ s.now →
      ∃ t : State, exec (.creditIdleTimer b) s = .next t ∧ t.bind b = { s.bind b with
          data := { (s.bind b).data with credit := (s.bind b).minSlots }
          ctrl := { (s.bind b).ctrl with queued := (s.bind b).ctrl.queued ++
            [(s.jan.order, .release 0 ((s.bind b).data.credit - (s.bind b).minSlots))] } } ∧
        (∀ c, c ≠ b → t.bind c = s.bind c) ∧ t = { s with jan := t.jan }) ∧
    ((s.bind b).state = .open_ → ((s.bind b).data.early ≠ [] ∧ (s.bind b).data.gapSince + 12000 ≤ s.now) ∨
        ((s.bind b).ctrl.early ≠ [] ∧ (s.bind b).ctrl.gapSince + 12000 ≤ s.now) →
      ∃ t : State, exec (.seqGapTimeout b) s = .next t ∧ Dropped s t b ∧
        t.jan.ctr = s.jan.ctr.modify 1 (fun c => bump s.jan.freeze c))) ∧
  (∀ (s : State), s.glb.cfg.role = 2 → ∃ t : State, exec .orbitSyncUpdate s = .next t ∧ t.jan.synced = true ∧
    t.jan.dist = 0 ∧ t.orbit = s.orbit) ∧
  (∀ (s : State) (p d r : Nat) (u : LinkUnit) (off : Int), s.glb.cfg.role ≠ 2 → s.parentOf = some (p, d) →
    (s.port p).link = some (u, r) → off = ((u.tTx : Int) - r + ((r : Int) - u.tEcho - u.tHold) / 2) →
    ∃ t : State, exec .orbitSyncUpdate s = .next t ∧ t.jan.offset = max (-32767) (min 32767 off) ∧ t.jan.parent = p ∧
      t.jan.dist = (if d + 1 ≤ 4 then d + 1 else 0xFF) ∧
      (4 < off → t.orbit.val = (s.orbit.val + off.toNat) % 2 ^ 64 ∧ t.jan.slew = 0 ∧ t.jan.half = 0 ∧ t.jan.synced = false) ∧
      (off < -4 → t.orbit = s.orbit ∧ t.jan.half = 2 * off.natAbs ∧ t.jan.slew = 0 ∧ t.jan.synced = false) ∧
      (off.natAbs ≤ 4 → t.orbit = s.orbit ∧ t.jan.slew = off ∧ t.jan.half = 0 ∧
        (off.natAbs ≤ 1 → 2 ≤ s.jan.good → t.jan.synced = true) ∧ (1 < off.natAbs → t.jan.good = 0 ∧ t.jan.synced = s.jan.synced)) ∧
      t.jan.bindings = s.jan.bindings ∧ t.jan.ports = s.jan.ports ∧ t.jan.sessions = s.jan.sessions)

/-! ### The whole device -/

/-- A step runs the command at the front of the queue with the rest of the queue. While none waits, one MCLK cycle
passes: ORBIT gains its ticks, and nothing else changes where no tile stalls, or one ACLK cycle passes while MCLK is
stopped. That idle tick is the model's choice (log entries 2 and 56). -/
def Obligations.StepRunsTheFrontCommand : Prop :=
  (∀ (s : State) (c : Instr) (rest : List Instr), s.pending = c :: rest → step s = exec c { s with pending := rest }) ∧
  (∀ (s : State), s.pending = [] → orbitRate s ≠ 0 → s.jan.half = 0 → s.jan.slew = 0 →
    (∃ t : State, step s = .next t ∧ t.orbit = { s.orbit with val := (s.orbit.val + orbitRate s) % 2 ^ 64 } ∧
      t = { s with
        orbit := t.orbit
        quads := t.quads }) ∧
    ((∀ x ∈ s.parts, ∀ tl ∈ x.2.tiles, stalls s x.2 tl = false ∧ (s.tile tl).stalled = false) →
      step s = .next { s with orbit := { s.orbit with val := (s.orbit.val + orbitRate s) % 2 ^ 64 } })) ∧
  (∀ (s : State), s.pending = [] → orbitRate s = 0 →
    ∃ t : State, step s = .next t ∧ t.roo.count = s.roo.count + 1 ∧ t = { s with roo := t.roo })

/-- The state after the power-on trigger: no command waits, the life cycle is legal, the device has its units, no
partition, handle or domain exists, every epoch is 1, and the registers with a Reset value hold it (R17, R42, R237,
R290, R361, R460, R550). Its life cycle is the model's choice (log entry 40). -/
def Obligations.ResetIsTheStateOfThePowerOnTrigger : Prop :=
  State.reset.pending = [] ∧ State.reset.LifeOk ∧ State.reset.QueueOk ∧ State.reset.Tidy ∧
  State.reset.start.cause = 0x01 ∧ State.reset.start.result = 0 ∧ State.reset.glb.level = 0 ∧ State.reset.glb.locked = false ∧
  (∀ p, (State.reset.part p).state = .free) ∧
  (∀ h, (State.reset.entry h).state = .free ∧ (State.reset.entry h).epoch = 1) ∧ (∀ d, (State.reset.dom d).open_ = false) ∧
  (∀ p, (State.reset.port p).state = .off ∧ (State.reset.port p).lastCause = 0) ∧ State.reset.jan.dist = 0xFF ∧
  State.reset.orbit.val = 0 ∧ State.reset.pwr.limit = 1500 ∧ State.reset.mul.timeout = 10000 ∧
  State.reset.train.timeout = 50000 ∧ State.reset.par.block = 20 ∧ State.reset.tri.ready = false ∧
  (∀ tl a, mget clearLine (State.reset.tile tl).scratch.lines a = clearLine) ∧
  (∀ k pg, (mget {} (State.reset.stack k).pages pg).valid = false) ∧
  ∀ fn q, (State.reset.queue fn q).state = .off

/-- No step leaves a legal life cycle but along Table 11.12, unblows a fuse, lowers an SVN floor or changes the part's
identity (R406, R414, R426, R427), and each takes one command from the queue at most. -/
def Obligations.EveryStepKeepsLifeCycleAndFuses : Prop :=
  ∀ s t : State, s.LifeOk → step s = .next t →
    t.LifeOk ∧ FusesGrow s t ∧ t.pending = s.pending.tail ∧ (s.QueueOk → t.QueueOk) ∧
    (t.lc = s.lc ∨ ((lcTransition s.lc t.lc).isSome = true ∧ t.fuses.lcCount = s.fuses.lcCount + 1))

/-- Every step keeps the device's units and the one form of its maps, which other statements take as a premise. -/
def Obligations.EveryStepKeepsTheShape : Prop := ∀ s t : State, s.Tidy → step s = .next t → t.Tidy
end

