-- ==== Sys2Proof/Laws/Maps.lean ====
section
/-! SUPPORT. Sparse maps and byte memories: reading after writing, and the canonical form that every
operation keeps. -/

namespace Sys2Proof.Machine

/-! ### Reading after writing -/

/-- A key just put reads back, and every other key reads as before. -/
@[simp] theorem mget_mput {α : Type} (d v : α) (m : Map α) (i j : Nat) :
    mget d (mput i v m) j = if j = i then v else mget d m j := by
  induction m with
  | nil => simp [mput, mget]
  | cons p m ih =>
    obtain ⟨k, w⟩ := p
    by_cases h1 : i < k
    · simp [mput, mget, h1]
    · by_cases h2 : i = k
      · subst h2
        by_cases hj : j = i <;> simp [mput, mget, hj]
      · by_cases hj : j = k
        · have h3 : ¬ j = i := fun h => h2 (h.symm.trans hj)
          simp [mput, mget, h1, h2, hj]
          intro h4
          exact absurd (hj.trans h4) h3
        · simp [mput, mget, h1, h2, hj, ih]

/-- A key taken out reads as the default, and every other key reads as before. -/
@[simp] theorem mget_mdel {α : Type} (d : α) (m : Map α) (i j : Nat) :
    mget d (mdel i m) j = if j = i then d else mget d m j := by
  induction m with
  | nil => simp [mdel, mget]
  | cons p m ih =>
    obtain ⟨k, w⟩ := p
    unfold mdel at ih ⊢
    by_cases hk : k = i
    · subst hk; by_cases hj : j = k <;> simp_all [mget]
    · by_cases hj : j = k
      · subst hj; simp [mget, hk]
      · simp [hk, mget, hj, ih]

/-- A key just written reads back, and every other key reads as before. -/
@[simp] theorem mget_mset {α : Type} [DecidableEq α] (d v : α) (m : Map α) (i j : Nat) :
    mget d (mset d m i v) j = if j = i then v else mget d m j := by
  unfold mset
  split
  · next h => simp [h]
  · simp

/-- A key just changed reads as its changed value, and every other key reads as before. -/
@[simp] theorem mget_mmod {α : Type} [DecidableEq α] (d : α) (m : Map α) (i j : Nat) (f : α → α) :
    mget d (mmod d m i f) j = if j = i then f (mget d m i) else mget d m j := by
  simp [mmod]

/-- A byte just written reads back, and every other byte reads as before. -/
@[simp] theorem Mem.read_write (m : Mem) (a b : Nat) (v : Byte) :
    (m.write a v).read b = if b = a then v else m.read b := by
  simp [Mem.read, Mem.write]

/-- A byte outside a written range reads as before. -/
theorem Mem.read_writeN_outside (bs : List Byte) (m : Mem) (a b : Nat) (h : b < a ∨ a + bs.length ≤ b) :
    (m.writeN a bs).read b = m.read b := by
  induction bs generalizing m a with
  | nil => rfl
  | cons x xs ih =>
    simp only [List.length_cons] at h
    rw [Mem.writeN, ih _ _ (by omega), Mem.read_write, if_neg (by omega)]

/-- A byte of a written range reads as written. -/
theorem Mem.read_writeN_inside (bs : List Byte) (m : Mem) (a i : Nat) (h : i < bs.length) :
    (m.writeN a bs).read (a + i) = bs[i] := by
  induction bs generalizing m a i with
  | nil => simp at h
  | cons x xs ih =>
    cases i with
    | zero => rw [Mem.writeN, Mem.read_writeN_outside _ _ _ _ (by omega)]; simp
    | succ i =>
      have := ih (Mem.write m a x) (a + 1) i (by simpa using h)
      simpa [Mem.writeN, Nat.add_assoc, Nat.add_comm 1 i] using this

/-- A written range reads back whole. -/
theorem Mem.readN_writeN (bs : List Byte) (m : Mem) (a : Nat) : (m.writeN a bs).readN a bs.length = bs := by
  induction bs generalizing m a with
  | nil => rfl
  | cons x xs ih =>
    have h0 : (Mem.writeN m a (x :: xs)).read a = x := by
      have := Mem.read_writeN_inside (x :: xs) m a 0 (by simp)
      simpa using this
    rw [List.length_cons, Mem.readN, h0, Mem.writeN, ih]

/-! ### The canonical form -/

theorem mem_keys_mput {α : Type} (i : Nat) (v : α) (m : Map α) (k : Nat)
    (h : k ∈ (mput i v m).map Prod.fst) : k = i ∨ k ∈ m.map Prod.fst := by
  induction m with
  | nil => simp [mput] at h; exact Or.inl h
  | cons p m ih =>
    obtain ⟨x, w⟩ := p
    unfold mput at h
    split at h
    · simpa using h
    · split at h
      · next he => subst he; exact Or.inr (by simpa using h)
      · simp only [List.map_cons, List.mem_cons] at h ⊢
        rcases h with h | h
        · exact Or.inr (Or.inl h)
        · rcases ih h with h | h
          · exact Or.inl h
          · exact Or.inr (Or.inr h)

theorem keys_rise_mput {α : Type} (i : Nat) (v : α) (m : Map α)
    (h : (m.map Prod.fst).Pairwise (· < ·)) : ((mput i v m).map Prod.fst).Pairwise (· < ·) := by
  induction m with
  | nil => simp [mput]
  | cons p m ih =>
    obtain ⟨x, w⟩ := p
    simp only [List.map_cons, List.pairwise_cons] at h
    unfold mput
    split
    · next hlt =>
      simp only [List.map_cons, List.pairwise_cons, List.mem_cons]
      refine ⟨?_, h.1, h.2⟩
      rintro k (rfl | hk)
      · exact hlt
      · exact Nat.lt_trans hlt (h.1 k hk)
    · split
      · next he => subst he; simpa using h
      · next hn he =>
        simp only [List.map_cons, List.pairwise_cons]
        refine ⟨fun k hk => ?_, ih h.2⟩
        rcases mem_keys_mput i v m k hk with rfl | hk
        · omega
        · exact h.1 k hk

theorem mem_mput {α : Type} (i : Nat) (v : α) (m : Map α) (p : Nat × α) (h : p ∈ mput i v m) :
    p = (i, v) ∨ p ∈ m := by
  induction m with
  | nil => simpa [mput] using h
  | cons q m ih =>
    obtain ⟨x, w⟩ := q
    unfold mput at h
    split at h
    · simpa using h
    · split at h
      · simp only [List.mem_cons] at h ⊢; exact h.imp_right Or.inr
      · simp only [List.mem_cons] at h ⊢
        rcases h with h | h
        · exact Or.inr (Or.inl h)
        · exact (ih h).imp_right Or.inr

/-- Putting a value that is not the default keeps the canonical form. -/
theorem mapOk_mput {α : Type} [DecidableEq α] (d v : α) (m : Map α) (i : Nat) (hv : v ≠ d)
    (h : mapOk d m = true) : mapOk d (mput i v m) = true := by
  simp only [mapOk, Bool.and_eq_true, decide_eq_true_eq, List.all_eq_true] at h ⊢
  refine ⟨keys_rise_mput i v m h.1, fun p hp => ?_⟩
  rcases mem_mput i v m p hp with rfl | hp
  · exact hv
  · exact h.2 p hp

/-- Taking a key out keeps the canonical form. -/
theorem mapOk_mdel {α : Type} [DecidableEq α] (d : α) (m : Map α) (i : Nat)
    (h : mapOk d m = true) : mapOk d (mdel i m) = true := by
  simp only [mapOk, Bool.and_eq_true, decide_eq_true_eq, List.all_eq_true] at h ⊢
  exact ⟨h.1.sublist (List.filter_sublist.map _), fun p hp => h.2 p (List.mem_filter.mp hp).1⟩

/-- Writing a key keeps the canonical form. -/
theorem mapOk_mset {α : Type} [DecidableEq α] (d v : α) (m : Map α) (i : Nat)
    (h : mapOk d m = true) : mapOk d (mset d m i v) = true := by
  unfold mset
  split
  · exact mapOk_mdel d m i h
  · next hv => exact mapOk_mput d v m i hv h

/-- Changing a key keeps the canonical form. -/
theorem mapOk_mmod {α : Type} [DecidableEq α] (d : α) (m : Map α) (i : Nat) (f : α → α)
    (h : mapOk d m = true) : mapOk d (mmod d m i f) = true := mapOk_mset d _ m i h

/-- Writing one byte keeps a memory canonical. -/
theorem Mem.wf_write (m : Mem) (a : Nat) (b : Byte) (h : m.wf = true) : (m.write a b).wf = true :=
  mapOk_mset 0 b m a h

/-- Writing a byte string keeps a memory canonical. -/
theorem Mem.wf_writeN (bs : List Byte) (m : Mem) (a : Nat) (h : m.wf = true) : (m.writeN a bs).wf = true := by
  induction bs generalizing m a with
  | nil => exact h
  | cons x xs ih => exact ih _ _ (Mem.wf_write m a x h)

/-- An empty memory is canonical. -/
theorem Mem.wf_empty : Mem.wf [] = true := rfl

end Sys2Proof.Machine
end

