-- ==== Sys2Proof/Laws/State.lean ====
section
/-! SUPPORT. Reading the state after each of its updates: what was written reads back, and every other field reads
as before. -/

namespace Sys2Proof.Machine

/-! ### `State.modQuad` -/

@[simp] theorem State.modQuad_pending (s : State) (q f) : (s.modQuad q f).pending = s.pending := (rfl)
@[simp] theorem State.modQuad_glb (s : State) (q f) : (s.modQuad q f).glb = s.glb := (rfl)
@[simp] theorem State.modQuad_start (s : State) (q f) : (s.modQuad q f).start = s.start := (rfl)
@[simp] theorem State.modQuad_nvm (s : State) (q f) : (s.modQuad q f).nvm = s.nvm := (rfl)
@[simp] theorem State.modQuad_fuses (s : State) (q f) : (s.modQuad q f).fuses = s.fuses := (rfl)
@[simp] theorem State.modQuad_lc (s : State) (q f) : (s.modQuad q f).lc = s.lc := (rfl)
@[simp] theorem State.modQuad_pwr (s : State) (q f) : (s.modQuad q f).pwr = s.pwr := (rfl)
@[simp] theorem State.modQuad_clk (s : State) (q f) : (s.modQuad q f).clk = s.clk := (rfl)
@[simp] theorem State.modQuad_orbit (s : State) (q f) : (s.modQuad q f).orbit = s.orbit := (rfl)
@[simp] theorem State.modQuad_roo (s : State) (q f) : (s.modQuad q f).roo = s.roo := (rfl)
@[simp] theorem State.modQuad_sdg (s : State) (q f) : (s.modQuad q f).sdg = s.sdg := (rfl)
@[simp] theorem State.modQuad_host (s : State) (q f) : (s.modQuad q f).host = s.host := (rfl)
@[simp] theorem State.modQuad_dir (s : State) (q f) : (s.modQuad q f).dir = s.dir := (rfl)
@[simp] theorem State.modQuad_train (s : State) (q f) : (s.modQuad q f).train = s.train := (rfl)
@[simp] theorem State.modQuad_par (s : State) (q f) : (s.modQuad q f).par = s.par := (rfl)
@[simp] theorem State.modQuad_parts (s : State) (q f) : (s.modQuad q f).parts = s.parts := (rfl)
@[simp] theorem State.modQuad_mul (s : State) (q f) : (s.modQuad q f).mul = s.mul := (rfl)
@[simp] theorem State.modQuad_hbm (s : State) (q f) : (s.modQuad q f).hbm = s.hbm := (rfl)
@[simp] theorem State.modQuad_hostTier (s : State) (q f) : (s.modQuad q f).hostTier = s.hostTier := (rfl)
@[simp] theorem State.modQuad_tri (s : State) (q f) : (s.modQuad q f).tri = s.tri := (rfl)
@[simp] theorem State.modQuad_vault (s : State) (q f) : (s.modQuad q f).vault = s.vault := (rfl)
@[simp] theorem State.modQuad_jan (s : State) (q f) : (s.modQuad q f).jan = s.jan := (rfl)
@[simp] theorem State.modQuad_fresh (s : State) (q f) : (s.modQuad q f).fresh = s.fresh := (rfl)
@[simp] theorem State.modQuad_reply (s : State) (q f) : (s.modQuad q f).reply = s.reply := (rfl)

/-! ### `State.modTile` -/

@[simp] theorem State.modTile_pending (s : State) (t f) : (s.modTile t f).pending = s.pending := (rfl)
@[simp] theorem State.modTile_glb (s : State) (t f) : (s.modTile t f).glb = s.glb := (rfl)
@[simp] theorem State.modTile_start (s : State) (t f) : (s.modTile t f).start = s.start := (rfl)
@[simp] theorem State.modTile_nvm (s : State) (t f) : (s.modTile t f).nvm = s.nvm := (rfl)
@[simp] theorem State.modTile_fuses (s : State) (t f) : (s.modTile t f).fuses = s.fuses := (rfl)
@[simp] theorem State.modTile_lc (s : State) (t f) : (s.modTile t f).lc = s.lc := (rfl)
@[simp] theorem State.modTile_pwr (s : State) (t f) : (s.modTile t f).pwr = s.pwr := (rfl)
@[simp] theorem State.modTile_clk (s : State) (t f) : (s.modTile t f).clk = s.clk := (rfl)
@[simp] theorem State.modTile_orbit (s : State) (t f) : (s.modTile t f).orbit = s.orbit := (rfl)
@[simp] theorem State.modTile_roo (s : State) (t f) : (s.modTile t f).roo = s.roo := (rfl)
@[simp] theorem State.modTile_sdg (s : State) (t f) : (s.modTile t f).sdg = s.sdg := (rfl)
@[simp] theorem State.modTile_host (s : State) (t f) : (s.modTile t f).host = s.host := (rfl)
@[simp] theorem State.modTile_dir (s : State) (t f) : (s.modTile t f).dir = s.dir := (rfl)
@[simp] theorem State.modTile_train (s : State) (t f) : (s.modTile t f).train = s.train := (rfl)
@[simp] theorem State.modTile_par (s : State) (t f) : (s.modTile t f).par = s.par := (rfl)
@[simp] theorem State.modTile_parts (s : State) (t f) : (s.modTile t f).parts = s.parts := (rfl)
@[simp] theorem State.modTile_mul (s : State) (t f) : (s.modTile t f).mul = s.mul := (rfl)
@[simp] theorem State.modTile_hbm (s : State) (t f) : (s.modTile t f).hbm = s.hbm := (rfl)
@[simp] theorem State.modTile_hostTier (s : State) (t f) : (s.modTile t f).hostTier = s.hostTier := (rfl)
@[simp] theorem State.modTile_tri (s : State) (t f) : (s.modTile t f).tri = s.tri := (rfl)
@[simp] theorem State.modTile_vault (s : State) (t f) : (s.modTile t f).vault = s.vault := (rfl)
@[simp] theorem State.modTile_jan (s : State) (t f) : (s.modTile t f).jan = s.jan := (rfl)
@[simp] theorem State.modTile_fresh (s : State) (t f) : (s.modTile t f).fresh = s.fresh := (rfl)
@[simp] theorem State.modTile_reply (s : State) (t f) : (s.modTile t f).reply = s.reply := (rfl)

/-! ### `State.modStack` -/

@[simp] theorem State.modStack_pending (s : State) (k f) : (s.modStack k f).pending = s.pending := (rfl)
@[simp] theorem State.modStack_glb (s : State) (k f) : (s.modStack k f).glb = s.glb := (rfl)
@[simp] theorem State.modStack_start (s : State) (k f) : (s.modStack k f).start = s.start := (rfl)
@[simp] theorem State.modStack_nvm (s : State) (k f) : (s.modStack k f).nvm = s.nvm := (rfl)
@[simp] theorem State.modStack_fuses (s : State) (k f) : (s.modStack k f).fuses = s.fuses := (rfl)
@[simp] theorem State.modStack_lc (s : State) (k f) : (s.modStack k f).lc = s.lc := (rfl)
@[simp] theorem State.modStack_pwr (s : State) (k f) : (s.modStack k f).pwr = s.pwr := (rfl)
@[simp] theorem State.modStack_clk (s : State) (k f) : (s.modStack k f).clk = s.clk := (rfl)
@[simp] theorem State.modStack_orbit (s : State) (k f) : (s.modStack k f).orbit = s.orbit := (rfl)
@[simp] theorem State.modStack_roo (s : State) (k f) : (s.modStack k f).roo = s.roo := (rfl)
@[simp] theorem State.modStack_sdg (s : State) (k f) : (s.modStack k f).sdg = s.sdg := (rfl)
@[simp] theorem State.modStack_host (s : State) (k f) : (s.modStack k f).host = s.host := (rfl)
@[simp] theorem State.modStack_dir (s : State) (k f) : (s.modStack k f).dir = s.dir := (rfl)
@[simp] theorem State.modStack_train (s : State) (k f) : (s.modStack k f).train = s.train := (rfl)
@[simp] theorem State.modStack_par (s : State) (k f) : (s.modStack k f).par = s.par := (rfl)
@[simp] theorem State.modStack_parts (s : State) (k f) : (s.modStack k f).parts = s.parts := (rfl)
@[simp] theorem State.modStack_mul (s : State) (k f) : (s.modStack k f).mul = s.mul := (rfl)
@[simp] theorem State.modStack_quads (s : State) (k f) : (s.modStack k f).quads = s.quads := (rfl)
@[simp] theorem State.modStack_hostTier (s : State) (k f) : (s.modStack k f).hostTier = s.hostTier := (rfl)
@[simp] theorem State.modStack_tri (s : State) (k f) : (s.modStack k f).tri = s.tri := (rfl)
@[simp] theorem State.modStack_vault (s : State) (k f) : (s.modStack k f).vault = s.vault := (rfl)
@[simp] theorem State.modStack_jan (s : State) (k f) : (s.modStack k f).jan = s.jan := (rfl)
@[simp] theorem State.modStack_fresh (s : State) (k f) : (s.modStack k f).fresh = s.fresh := (rfl)
@[simp] theorem State.modStack_reply (s : State) (k f) : (s.modStack k f).reply = s.reply := (rfl)

/-! ### `State.modPart` -/

@[simp] theorem State.modPart_pending (s : State) (p f) : (s.modPart p f).pending = s.pending := (rfl)
@[simp] theorem State.modPart_glb (s : State) (p f) : (s.modPart p f).glb = s.glb := (rfl)
@[simp] theorem State.modPart_start (s : State) (p f) : (s.modPart p f).start = s.start := (rfl)
@[simp] theorem State.modPart_nvm (s : State) (p f) : (s.modPart p f).nvm = s.nvm := (rfl)
@[simp] theorem State.modPart_fuses (s : State) (p f) : (s.modPart p f).fuses = s.fuses := (rfl)
@[simp] theorem State.modPart_lc (s : State) (p f) : (s.modPart p f).lc = s.lc := (rfl)
@[simp] theorem State.modPart_pwr (s : State) (p f) : (s.modPart p f).pwr = s.pwr := (rfl)
@[simp] theorem State.modPart_clk (s : State) (p f) : (s.modPart p f).clk = s.clk := (rfl)
@[simp] theorem State.modPart_orbit (s : State) (p f) : (s.modPart p f).orbit = s.orbit := (rfl)
@[simp] theorem State.modPart_roo (s : State) (p f) : (s.modPart p f).roo = s.roo := (rfl)
@[simp] theorem State.modPart_sdg (s : State) (p f) : (s.modPart p f).sdg = s.sdg := (rfl)
@[simp] theorem State.modPart_host (s : State) (p f) : (s.modPart p f).host = s.host := (rfl)
@[simp] theorem State.modPart_dir (s : State) (p f) : (s.modPart p f).dir = s.dir := (rfl)
@[simp] theorem State.modPart_train (s : State) (p f) : (s.modPart p f).train = s.train := (rfl)
@[simp] theorem State.modPart_par (s : State) (p f) : (s.modPart p f).par = s.par := (rfl)
@[simp] theorem State.modPart_mul (s : State) (p f) : (s.modPart p f).mul = s.mul := (rfl)
@[simp] theorem State.modPart_quads (s : State) (p f) : (s.modPart p f).quads = s.quads := (rfl)
@[simp] theorem State.modPart_hbm (s : State) (p f) : (s.modPart p f).hbm = s.hbm := (rfl)
@[simp] theorem State.modPart_hostTier (s : State) (p f) : (s.modPart p f).hostTier = s.hostTier := (rfl)
@[simp] theorem State.modPart_tri (s : State) (p f) : (s.modPart p f).tri = s.tri := (rfl)
@[simp] theorem State.modPart_vault (s : State) (p f) : (s.modPart p f).vault = s.vault := (rfl)
@[simp] theorem State.modPart_jan (s : State) (p f) : (s.modPart p f).jan = s.jan := (rfl)
@[simp] theorem State.modPart_fresh (s : State) (p f) : (s.modPart p f).fresh = s.fresh := (rfl)
@[simp] theorem State.modPart_reply (s : State) (p f) : (s.modPart p f).reply = s.reply := (rfl)

/-! ### `State.modEntry` -/

@[simp] theorem State.modEntry_pending (s : State) (h f) : (s.modEntry h f).pending = s.pending := (rfl)
@[simp] theorem State.modEntry_glb (s : State) (h f) : (s.modEntry h f).glb = s.glb := (rfl)
@[simp] theorem State.modEntry_start (s : State) (h f) : (s.modEntry h f).start = s.start := (rfl)
@[simp] theorem State.modEntry_nvm (s : State) (h f) : (s.modEntry h f).nvm = s.nvm := (rfl)
@[simp] theorem State.modEntry_fuses (s : State) (h f) : (s.modEntry h f).fuses = s.fuses := (rfl)
@[simp] theorem State.modEntry_lc (s : State) (h f) : (s.modEntry h f).lc = s.lc := (rfl)
@[simp] theorem State.modEntry_pwr (s : State) (h f) : (s.modEntry h f).pwr = s.pwr := (rfl)
@[simp] theorem State.modEntry_clk (s : State) (h f) : (s.modEntry h f).clk = s.clk := (rfl)
@[simp] theorem State.modEntry_orbit (s : State) (h f) : (s.modEntry h f).orbit = s.orbit := (rfl)
@[simp] theorem State.modEntry_roo (s : State) (h f) : (s.modEntry h f).roo = s.roo := (rfl)
@[simp] theorem State.modEntry_sdg (s : State) (h f) : (s.modEntry h f).sdg = s.sdg := (rfl)
@[simp] theorem State.modEntry_host (s : State) (h f) : (s.modEntry h f).host = s.host := (rfl)
@[simp] theorem State.modEntry_train (s : State) (h f) : (s.modEntry h f).train = s.train := (rfl)
@[simp] theorem State.modEntry_par (s : State) (h f) : (s.modEntry h f).par = s.par := (rfl)
@[simp] theorem State.modEntry_parts (s : State) (h f) : (s.modEntry h f).parts = s.parts := (rfl)
@[simp] theorem State.modEntry_mul (s : State) (h f) : (s.modEntry h f).mul = s.mul := (rfl)
@[simp] theorem State.modEntry_quads (s : State) (h f) : (s.modEntry h f).quads = s.quads := (rfl)
@[simp] theorem State.modEntry_hbm (s : State) (h f) : (s.modEntry h f).hbm = s.hbm := (rfl)
@[simp] theorem State.modEntry_hostTier (s : State) (h f) : (s.modEntry h f).hostTier = s.hostTier := (rfl)
@[simp] theorem State.modEntry_tri (s : State) (h f) : (s.modEntry h f).tri = s.tri := (rfl)
@[simp] theorem State.modEntry_vault (s : State) (h f) : (s.modEntry h f).vault = s.vault := (rfl)
@[simp] theorem State.modEntry_jan (s : State) (h f) : (s.modEntry h f).jan = s.jan := (rfl)
@[simp] theorem State.modEntry_fresh (s : State) (h f) : (s.modEntry h f).fresh = s.fresh := (rfl)
@[simp] theorem State.modEntry_reply (s : State) (h f) : (s.modEntry h f).reply = s.reply := (rfl)

/-! ### `State.modDom` -/

@[simp] theorem State.modDom_pending (s : State) (d f) : (s.modDom d f).pending = s.pending := (rfl)
@[simp] theorem State.modDom_glb (s : State) (d f) : (s.modDom d f).glb = s.glb := (rfl)
@[simp] theorem State.modDom_start (s : State) (d f) : (s.modDom d f).start = s.start := (rfl)
@[simp] theorem State.modDom_nvm (s : State) (d f) : (s.modDom d f).nvm = s.nvm := (rfl)
@[simp] theorem State.modDom_fuses (s : State) (d f) : (s.modDom d f).fuses = s.fuses := (rfl)
@[simp] theorem State.modDom_lc (s : State) (d f) : (s.modDom d f).lc = s.lc := (rfl)
@[simp] theorem State.modDom_pwr (s : State) (d f) : (s.modDom d f).pwr = s.pwr := (rfl)
@[simp] theorem State.modDom_clk (s : State) (d f) : (s.modDom d f).clk = s.clk := (rfl)
@[simp] theorem State.modDom_orbit (s : State) (d f) : (s.modDom d f).orbit = s.orbit := (rfl)
@[simp] theorem State.modDom_roo (s : State) (d f) : (s.modDom d f).roo = s.roo := (rfl)
@[simp] theorem State.modDom_sdg (s : State) (d f) : (s.modDom d f).sdg = s.sdg := (rfl)
@[simp] theorem State.modDom_host (s : State) (d f) : (s.modDom d f).host = s.host := (rfl)
@[simp] theorem State.modDom_train (s : State) (d f) : (s.modDom d f).train = s.train := (rfl)
@[simp] theorem State.modDom_par (s : State) (d f) : (s.modDom d f).par = s.par := (rfl)
@[simp] theorem State.modDom_parts (s : State) (d f) : (s.modDom d f).parts = s.parts := (rfl)
@[simp] theorem State.modDom_mul (s : State) (d f) : (s.modDom d f).mul = s.mul := (rfl)
@[simp] theorem State.modDom_quads (s : State) (d f) : (s.modDom d f).quads = s.quads := (rfl)
@[simp] theorem State.modDom_hbm (s : State) (d f) : (s.modDom d f).hbm = s.hbm := (rfl)
@[simp] theorem State.modDom_hostTier (s : State) (d f) : (s.modDom d f).hostTier = s.hostTier := (rfl)
@[simp] theorem State.modDom_tri (s : State) (d f) : (s.modDom d f).tri = s.tri := (rfl)
@[simp] theorem State.modDom_vault (s : State) (d f) : (s.modDom d f).vault = s.vault := (rfl)
@[simp] theorem State.modDom_jan (s : State) (d f) : (s.modDom d f).jan = s.jan := (rfl)
@[simp] theorem State.modDom_fresh (s : State) (d f) : (s.modDom d f).fresh = s.fresh := (rfl)
@[simp] theorem State.modDom_reply (s : State) (d f) : (s.modDom d f).reply = s.reply := (rfl)

/-! ### `State.modSlot` -/

@[simp] theorem State.modSlot_pending (s : State) (p k f) : (s.modSlot p k f).pending = s.pending := (rfl)
@[simp] theorem State.modSlot_glb (s : State) (p k f) : (s.modSlot p k f).glb = s.glb := (rfl)
@[simp] theorem State.modSlot_start (s : State) (p k f) : (s.modSlot p k f).start = s.start := (rfl)
@[simp] theorem State.modSlot_nvm (s : State) (p k f) : (s.modSlot p k f).nvm = s.nvm := (rfl)
@[simp] theorem State.modSlot_fuses (s : State) (p k f) : (s.modSlot p k f).fuses = s.fuses := (rfl)
@[simp] theorem State.modSlot_lc (s : State) (p k f) : (s.modSlot p k f).lc = s.lc := (rfl)
@[simp] theorem State.modSlot_pwr (s : State) (p k f) : (s.modSlot p k f).pwr = s.pwr := (rfl)
@[simp] theorem State.modSlot_clk (s : State) (p k f) : (s.modSlot p k f).clk = s.clk := (rfl)
@[simp] theorem State.modSlot_orbit (s : State) (p k f) : (s.modSlot p k f).orbit = s.orbit := (rfl)
@[simp] theorem State.modSlot_roo (s : State) (p k f) : (s.modSlot p k f).roo = s.roo := (rfl)
@[simp] theorem State.modSlot_sdg (s : State) (p k f) : (s.modSlot p k f).sdg = s.sdg := (rfl)
@[simp] theorem State.modSlot_host (s : State) (p k f) : (s.modSlot p k f).host = s.host := (rfl)
@[simp] theorem State.modSlot_dir (s : State) (p k f) : (s.modSlot p k f).dir = s.dir := (rfl)
@[simp] theorem State.modSlot_par (s : State) (p k f) : (s.modSlot p k f).par = s.par := (rfl)
@[simp] theorem State.modSlot_parts (s : State) (p k f) : (s.modSlot p k f).parts = s.parts := (rfl)
@[simp] theorem State.modSlot_mul (s : State) (p k f) : (s.modSlot p k f).mul = s.mul := (rfl)
@[simp] theorem State.modSlot_quads (s : State) (p k f) : (s.modSlot p k f).quads = s.quads := (rfl)
@[simp] theorem State.modSlot_hbm (s : State) (p k f) : (s.modSlot p k f).hbm = s.hbm := (rfl)
@[simp] theorem State.modSlot_hostTier (s : State) (p k f) : (s.modSlot p k f).hostTier = s.hostTier := (rfl)
@[simp] theorem State.modSlot_tri (s : State) (p k f) : (s.modSlot p k f).tri = s.tri := (rfl)
@[simp] theorem State.modSlot_vault (s : State) (p k f) : (s.modSlot p k f).vault = s.vault := (rfl)
@[simp] theorem State.modSlot_jan (s : State) (p k f) : (s.modSlot p k f).jan = s.jan := (rfl)
@[simp] theorem State.modSlot_fresh (s : State) (p k f) : (s.modSlot p k f).fresh = s.fresh := (rfl)
@[simp] theorem State.modSlot_reply (s : State) (p k f) : (s.modSlot p k f).reply = s.reply := (rfl)

/-! ### `State.modQueue` -/

@[simp] theorem State.modQueue_pending (s : State) (fn q f) : (s.modQueue fn q f).pending = s.pending := (rfl)
@[simp] theorem State.modQueue_glb (s : State) (fn q f) : (s.modQueue fn q f).glb = s.glb := (rfl)
@[simp] theorem State.modQueue_start (s : State) (fn q f) : (s.modQueue fn q f).start = s.start := (rfl)
@[simp] theorem State.modQueue_nvm (s : State) (fn q f) : (s.modQueue fn q f).nvm = s.nvm := (rfl)
@[simp] theorem State.modQueue_fuses (s : State) (fn q f) : (s.modQueue fn q f).fuses = s.fuses := (rfl)
@[simp] theorem State.modQueue_lc (s : State) (fn q f) : (s.modQueue fn q f).lc = s.lc := (rfl)
@[simp] theorem State.modQueue_pwr (s : State) (fn q f) : (s.modQueue fn q f).pwr = s.pwr := (rfl)
@[simp] theorem State.modQueue_clk (s : State) (fn q f) : (s.modQueue fn q f).clk = s.clk := (rfl)
@[simp] theorem State.modQueue_orbit (s : State) (fn q f) : (s.modQueue fn q f).orbit = s.orbit := (rfl)
@[simp] theorem State.modQueue_roo (s : State) (fn q f) : (s.modQueue fn q f).roo = s.roo := (rfl)
@[simp] theorem State.modQueue_sdg (s : State) (fn q f) : (s.modQueue fn q f).sdg = s.sdg := (rfl)
@[simp] theorem State.modQueue_dir (s : State) (fn q f) : (s.modQueue fn q f).dir = s.dir := (rfl)
@[simp] theorem State.modQueue_train (s : State) (fn q f) : (s.modQueue fn q f).train = s.train := (rfl)
@[simp] theorem State.modQueue_par (s : State) (fn q f) : (s.modQueue fn q f).par = s.par := (rfl)
@[simp] theorem State.modQueue_parts (s : State) (fn q f) : (s.modQueue fn q f).parts = s.parts := (rfl)
@[simp] theorem State.modQueue_mul (s : State) (fn q f) : (s.modQueue fn q f).mul = s.mul := (rfl)
@[simp] theorem State.modQueue_quads (s : State) (fn q f) : (s.modQueue fn q f).quads = s.quads := (rfl)
@[simp] theorem State.modQueue_hbm (s : State) (fn q f) : (s.modQueue fn q f).hbm = s.hbm := (rfl)
@[simp] theorem State.modQueue_hostTier (s : State) (fn q f) : (s.modQueue fn q f).hostTier = s.hostTier := (rfl)
@[simp] theorem State.modQueue_tri (s : State) (fn q f) : (s.modQueue fn q f).tri = s.tri := (rfl)
@[simp] theorem State.modQueue_vault (s : State) (fn q f) : (s.modQueue fn q f).vault = s.vault := (rfl)
@[simp] theorem State.modQueue_jan (s : State) (fn q f) : (s.modQueue fn q f).jan = s.jan := (rfl)
@[simp] theorem State.modQueue_fresh (s : State) (fn q f) : (s.modQueue fn q f).fresh = s.fresh := (rfl)
@[simp] theorem State.modQueue_reply (s : State) (fn q f) : (s.modQueue fn q f).reply = s.reply := (rfl)

/-! ### `State.modRing` -/

@[simp] theorem State.modRing_pending (s : State) (fn f) : (s.modRing fn f).pending = s.pending := (rfl)
@[simp] theorem State.modRing_glb (s : State) (fn f) : (s.modRing fn f).glb = s.glb := (rfl)
@[simp] theorem State.modRing_start (s : State) (fn f) : (s.modRing fn f).start = s.start := (rfl)
@[simp] theorem State.modRing_nvm (s : State) (fn f) : (s.modRing fn f).nvm = s.nvm := (rfl)
@[simp] theorem State.modRing_fuses (s : State) (fn f) : (s.modRing fn f).fuses = s.fuses := (rfl)
@[simp] theorem State.modRing_lc (s : State) (fn f) : (s.modRing fn f).lc = s.lc := (rfl)
@[simp] theorem State.modRing_pwr (s : State) (fn f) : (s.modRing fn f).pwr = s.pwr := (rfl)
@[simp] theorem State.modRing_clk (s : State) (fn f) : (s.modRing fn f).clk = s.clk := (rfl)
@[simp] theorem State.modRing_orbit (s : State) (fn f) : (s.modRing fn f).orbit = s.orbit := (rfl)
@[simp] theorem State.modRing_roo (s : State) (fn f) : (s.modRing fn f).roo = s.roo := (rfl)
@[simp] theorem State.modRing_sdg (s : State) (fn f) : (s.modRing fn f).sdg = s.sdg := (rfl)
@[simp] theorem State.modRing_dir (s : State) (fn f) : (s.modRing fn f).dir = s.dir := (rfl)
@[simp] theorem State.modRing_train (s : State) (fn f) : (s.modRing fn f).train = s.train := (rfl)
@[simp] theorem State.modRing_par (s : State) (fn f) : (s.modRing fn f).par = s.par := (rfl)
@[simp] theorem State.modRing_parts (s : State) (fn f) : (s.modRing fn f).parts = s.parts := (rfl)
@[simp] theorem State.modRing_mul (s : State) (fn f) : (s.modRing fn f).mul = s.mul := (rfl)
@[simp] theorem State.modRing_quads (s : State) (fn f) : (s.modRing fn f).quads = s.quads := (rfl)
@[simp] theorem State.modRing_hbm (s : State) (fn f) : (s.modRing fn f).hbm = s.hbm := (rfl)
@[simp] theorem State.modRing_hostTier (s : State) (fn f) : (s.modRing fn f).hostTier = s.hostTier := (rfl)
@[simp] theorem State.modRing_tri (s : State) (fn f) : (s.modRing fn f).tri = s.tri := (rfl)
@[simp] theorem State.modRing_vault (s : State) (fn f) : (s.modRing fn f).vault = s.vault := (rfl)
@[simp] theorem State.modRing_jan (s : State) (fn f) : (s.modRing fn f).jan = s.jan := (rfl)
@[simp] theorem State.modRing_fresh (s : State) (fn f) : (s.modRing fn f).fresh = s.fresh := (rfl)
@[simp] theorem State.modRing_reply (s : State) (fn f) : (s.modRing fn f).reply = s.reply := (rfl)

/-! ### `State.modCmd` -/

@[simp] theorem State.modCmd_pending (s : State) (j f) : (s.modCmd j f).pending = s.pending := (rfl)
@[simp] theorem State.modCmd_glb (s : State) (j f) : (s.modCmd j f).glb = s.glb := (rfl)
@[simp] theorem State.modCmd_start (s : State) (j f) : (s.modCmd j f).start = s.start := (rfl)
@[simp] theorem State.modCmd_nvm (s : State) (j f) : (s.modCmd j f).nvm = s.nvm := (rfl)
@[simp] theorem State.modCmd_fuses (s : State) (j f) : (s.modCmd j f).fuses = s.fuses := (rfl)
@[simp] theorem State.modCmd_lc (s : State) (j f) : (s.modCmd j f).lc = s.lc := (rfl)
@[simp] theorem State.modCmd_pwr (s : State) (j f) : (s.modCmd j f).pwr = s.pwr := (rfl)
@[simp] theorem State.modCmd_clk (s : State) (j f) : (s.modCmd j f).clk = s.clk := (rfl)
@[simp] theorem State.modCmd_orbit (s : State) (j f) : (s.modCmd j f).orbit = s.orbit := (rfl)
@[simp] theorem State.modCmd_roo (s : State) (j f) : (s.modCmd j f).roo = s.roo := (rfl)
@[simp] theorem State.modCmd_sdg (s : State) (j f) : (s.modCmd j f).sdg = s.sdg := (rfl)
@[simp] theorem State.modCmd_dir (s : State) (j f) : (s.modCmd j f).dir = s.dir := (rfl)
@[simp] theorem State.modCmd_train (s : State) (j f) : (s.modCmd j f).train = s.train := (rfl)
@[simp] theorem State.modCmd_par (s : State) (j f) : (s.modCmd j f).par = s.par := (rfl)
@[simp] theorem State.modCmd_parts (s : State) (j f) : (s.modCmd j f).parts = s.parts := (rfl)
@[simp] theorem State.modCmd_mul (s : State) (j f) : (s.modCmd j f).mul = s.mul := (rfl)
@[simp] theorem State.modCmd_quads (s : State) (j f) : (s.modCmd j f).quads = s.quads := (rfl)
@[simp] theorem State.modCmd_hbm (s : State) (j f) : (s.modCmd j f).hbm = s.hbm := (rfl)
@[simp] theorem State.modCmd_hostTier (s : State) (j f) : (s.modCmd j f).hostTier = s.hostTier := (rfl)
@[simp] theorem State.modCmd_tri (s : State) (j f) : (s.modCmd j f).tri = s.tri := (rfl)
@[simp] theorem State.modCmd_vault (s : State) (j f) : (s.modCmd j f).vault = s.vault := (rfl)
@[simp] theorem State.modCmd_jan (s : State) (j f) : (s.modCmd j f).jan = s.jan := (rfl)
@[simp] theorem State.modCmd_fresh (s : State) (j f) : (s.modCmd j f).fresh = s.fresh := (rfl)
@[simp] theorem State.modCmd_reply (s : State) (j f) : (s.modCmd j f).reply = s.reply := (rfl)

/-! ### `State.finish` -/

@[simp] theorem State.finish_pending (s : State) (j st d) : (s.finish j st d).pending = s.pending := (rfl)
@[simp] theorem State.finish_glb (s : State) (j st d) : (s.finish j st d).glb = s.glb := (rfl)
@[simp] theorem State.finish_start (s : State) (j st d) : (s.finish j st d).start = s.start := (rfl)
@[simp] theorem State.finish_nvm (s : State) (j st d) : (s.finish j st d).nvm = s.nvm := (rfl)
@[simp] theorem State.finish_fuses (s : State) (j st d) : (s.finish j st d).fuses = s.fuses := (rfl)
@[simp] theorem State.finish_lc (s : State) (j st d) : (s.finish j st d).lc = s.lc := (rfl)
@[simp] theorem State.finish_pwr (s : State) (j st d) : (s.finish j st d).pwr = s.pwr := (rfl)
@[simp] theorem State.finish_clk (s : State) (j st d) : (s.finish j st d).clk = s.clk := (rfl)
@[simp] theorem State.finish_orbit (s : State) (j st d) : (s.finish j st d).orbit = s.orbit := (rfl)
@[simp] theorem State.finish_roo (s : State) (j st d) : (s.finish j st d).roo = s.roo := (rfl)
@[simp] theorem State.finish_sdg (s : State) (j st d) : (s.finish j st d).sdg = s.sdg := (rfl)
@[simp] theorem State.finish_dir (s : State) (j st d) : (s.finish j st d).dir = s.dir := (rfl)
@[simp] theorem State.finish_train (s : State) (j st d) : (s.finish j st d).train = s.train := (rfl)
@[simp] theorem State.finish_par (s : State) (j st d) : (s.finish j st d).par = s.par := (rfl)
@[simp] theorem State.finish_parts (s : State) (j st d) : (s.finish j st d).parts = s.parts := (rfl)
@[simp] theorem State.finish_mul (s : State) (j st d) : (s.finish j st d).mul = s.mul := (rfl)
@[simp] theorem State.finish_quads (s : State) (j st d) : (s.finish j st d).quads = s.quads := (rfl)
@[simp] theorem State.finish_hbm (s : State) (j st d) : (s.finish j st d).hbm = s.hbm := (rfl)
@[simp] theorem State.finish_hostTier (s : State) (j st d) : (s.finish j st d).hostTier = s.hostTier := (rfl)
@[simp] theorem State.finish_tri (s : State) (j st d) : (s.finish j st d).tri = s.tri := (rfl)
@[simp] theorem State.finish_vault (s : State) (j st d) : (s.finish j st d).vault = s.vault := (rfl)
@[simp] theorem State.finish_jan (s : State) (j st d) : (s.finish j st d).jan = s.jan := (rfl)
@[simp] theorem State.finish_fresh (s : State) (j st d) : (s.finish j st d).fresh = s.fresh := (rfl)
@[simp] theorem State.finish_reply (s : State) (j st d) : (s.finish j st d).reply = s.reply := (rfl)

/-! ### `State.hostWrite` -/

@[simp] theorem State.hostWrite_pending (s : State) (a bs) : (s.hostWrite a bs).pending = s.pending := (rfl)
@[simp] theorem State.hostWrite_glb (s : State) (a bs) : (s.hostWrite a bs).glb = s.glb := (rfl)
@[simp] theorem State.hostWrite_start (s : State) (a bs) : (s.hostWrite a bs).start = s.start := (rfl)
@[simp] theorem State.hostWrite_nvm (s : State) (a bs) : (s.hostWrite a bs).nvm = s.nvm := (rfl)
@[simp] theorem State.hostWrite_fuses (s : State) (a bs) : (s.hostWrite a bs).fuses = s.fuses := (rfl)
@[simp] theorem State.hostWrite_lc (s : State) (a bs) : (s.hostWrite a bs).lc = s.lc := (rfl)
@[simp] theorem State.hostWrite_pwr (s : State) (a bs) : (s.hostWrite a bs).pwr = s.pwr := (rfl)
@[simp] theorem State.hostWrite_clk (s : State) (a bs) : (s.hostWrite a bs).clk = s.clk := (rfl)
@[simp] theorem State.hostWrite_orbit (s : State) (a bs) : (s.hostWrite a bs).orbit = s.orbit := (rfl)
@[simp] theorem State.hostWrite_roo (s : State) (a bs) : (s.hostWrite a bs).roo = s.roo := (rfl)
@[simp] theorem State.hostWrite_sdg (s : State) (a bs) : (s.hostWrite a bs).sdg = s.sdg := (rfl)
@[simp] theorem State.hostWrite_dir (s : State) (a bs) : (s.hostWrite a bs).dir = s.dir := (rfl)
@[simp] theorem State.hostWrite_train (s : State) (a bs) : (s.hostWrite a bs).train = s.train := (rfl)
@[simp] theorem State.hostWrite_par (s : State) (a bs) : (s.hostWrite a bs).par = s.par := (rfl)
@[simp] theorem State.hostWrite_parts (s : State) (a bs) : (s.hostWrite a bs).parts = s.parts := (rfl)
@[simp] theorem State.hostWrite_mul (s : State) (a bs) : (s.hostWrite a bs).mul = s.mul := (rfl)
@[simp] theorem State.hostWrite_quads (s : State) (a bs) : (s.hostWrite a bs).quads = s.quads := (rfl)
@[simp] theorem State.hostWrite_hbm (s : State) (a bs) : (s.hostWrite a bs).hbm = s.hbm := (rfl)
@[simp] theorem State.hostWrite_hostTier (s : State) (a bs) : (s.hostWrite a bs).hostTier = s.hostTier := (rfl)
@[simp] theorem State.hostWrite_tri (s : State) (a bs) : (s.hostWrite a bs).tri = s.tri := (rfl)
@[simp] theorem State.hostWrite_vault (s : State) (a bs) : (s.hostWrite a bs).vault = s.vault := (rfl)
@[simp] theorem State.hostWrite_jan (s : State) (a bs) : (s.hostWrite a bs).jan = s.jan := (rfl)
@[simp] theorem State.hostWrite_fresh (s : State) (a bs) : (s.hostWrite a bs).fresh = s.fresh := (rfl)
@[simp] theorem State.hostWrite_reply (s : State) (a bs) : (s.hostWrite a bs).reply = s.reply := (rfl)

/-! ### `State.modPort` -/

@[simp] theorem State.modPort_pending (s : State) (p f) : (s.modPort p f).pending = s.pending := (rfl)
@[simp] theorem State.modPort_glb (s : State) (p f) : (s.modPort p f).glb = s.glb := (rfl)
@[simp] theorem State.modPort_start (s : State) (p f) : (s.modPort p f).start = s.start := (rfl)
@[simp] theorem State.modPort_nvm (s : State) (p f) : (s.modPort p f).nvm = s.nvm := (rfl)
@[simp] theorem State.modPort_fuses (s : State) (p f) : (s.modPort p f).fuses = s.fuses := (rfl)
@[simp] theorem State.modPort_lc (s : State) (p f) : (s.modPort p f).lc = s.lc := (rfl)
@[simp] theorem State.modPort_pwr (s : State) (p f) : (s.modPort p f).pwr = s.pwr := (rfl)
@[simp] theorem State.modPort_clk (s : State) (p f) : (s.modPort p f).clk = s.clk := (rfl)
@[simp] theorem State.modPort_orbit (s : State) (p f) : (s.modPort p f).orbit = s.orbit := (rfl)
@[simp] theorem State.modPort_roo (s : State) (p f) : (s.modPort p f).roo = s.roo := (rfl)
@[simp] theorem State.modPort_sdg (s : State) (p f) : (s.modPort p f).sdg = s.sdg := (rfl)
@[simp] theorem State.modPort_host (s : State) (p f) : (s.modPort p f).host = s.host := (rfl)
@[simp] theorem State.modPort_dir (s : State) (p f) : (s.modPort p f).dir = s.dir := (rfl)
@[simp] theorem State.modPort_train (s : State) (p f) : (s.modPort p f).train = s.train := (rfl)
@[simp] theorem State.modPort_par (s : State) (p f) : (s.modPort p f).par = s.par := (rfl)
@[simp] theorem State.modPort_parts (s : State) (p f) : (s.modPort p f).parts = s.parts := (rfl)
@[simp] theorem State.modPort_mul (s : State) (p f) : (s.modPort p f).mul = s.mul := (rfl)
@[simp] theorem State.modPort_quads (s : State) (p f) : (s.modPort p f).quads = s.quads := (rfl)
@[simp] theorem State.modPort_hbm (s : State) (p f) : (s.modPort p f).hbm = s.hbm := (rfl)
@[simp] theorem State.modPort_hostTier (s : State) (p f) : (s.modPort p f).hostTier = s.hostTier := (rfl)
@[simp] theorem State.modPort_tri (s : State) (p f) : (s.modPort p f).tri = s.tri := (rfl)
@[simp] theorem State.modPort_vault (s : State) (p f) : (s.modPort p f).vault = s.vault := (rfl)
@[simp] theorem State.modPort_fresh (s : State) (p f) : (s.modPort p f).fresh = s.fresh := (rfl)
@[simp] theorem State.modPort_reply (s : State) (p f) : (s.modPort p f).reply = s.reply := (rfl)

/-! ### `State.modSess` -/

@[simp] theorem State.modSess_pending (s : State) (n f) : (s.modSess n f).pending = s.pending := (rfl)
@[simp] theorem State.modSess_glb (s : State) (n f) : (s.modSess n f).glb = s.glb := (rfl)
@[simp] theorem State.modSess_start (s : State) (n f) : (s.modSess n f).start = s.start := (rfl)
@[simp] theorem State.modSess_nvm (s : State) (n f) : (s.modSess n f).nvm = s.nvm := (rfl)
@[simp] theorem State.modSess_fuses (s : State) (n f) : (s.modSess n f).fuses = s.fuses := (rfl)
@[simp] theorem State.modSess_lc (s : State) (n f) : (s.modSess n f).lc = s.lc := (rfl)
@[simp] theorem State.modSess_pwr (s : State) (n f) : (s.modSess n f).pwr = s.pwr := (rfl)
@[simp] theorem State.modSess_clk (s : State) (n f) : (s.modSess n f).clk = s.clk := (rfl)
@[simp] theorem State.modSess_orbit (s : State) (n f) : (s.modSess n f).orbit = s.orbit := (rfl)
@[simp] theorem State.modSess_roo (s : State) (n f) : (s.modSess n f).roo = s.roo := (rfl)
@[simp] theorem State.modSess_sdg (s : State) (n f) : (s.modSess n f).sdg = s.sdg := (rfl)
@[simp] theorem State.modSess_host (s : State) (n f) : (s.modSess n f).host = s.host := (rfl)
@[simp] theorem State.modSess_dir (s : State) (n f) : (s.modSess n f).dir = s.dir := (rfl)
@[simp] theorem State.modSess_train (s : State) (n f) : (s.modSess n f).train = s.train := (rfl)
@[simp] theorem State.modSess_par (s : State) (n f) : (s.modSess n f).par = s.par := (rfl)
@[simp] theorem State.modSess_parts (s : State) (n f) : (s.modSess n f).parts = s.parts := (rfl)
@[simp] theorem State.modSess_mul (s : State) (n f) : (s.modSess n f).mul = s.mul := (rfl)
@[simp] theorem State.modSess_quads (s : State) (n f) : (s.modSess n f).quads = s.quads := (rfl)
@[simp] theorem State.modSess_hbm (s : State) (n f) : (s.modSess n f).hbm = s.hbm := (rfl)
@[simp] theorem State.modSess_hostTier (s : State) (n f) : (s.modSess n f).hostTier = s.hostTier := (rfl)
@[simp] theorem State.modSess_tri (s : State) (n f) : (s.modSess n f).tri = s.tri := (rfl)
@[simp] theorem State.modSess_vault (s : State) (n f) : (s.modSess n f).vault = s.vault := (rfl)
@[simp] theorem State.modSess_fresh (s : State) (n f) : (s.modSess n f).fresh = s.fresh := (rfl)
@[simp] theorem State.modSess_reply (s : State) (n f) : (s.modSess n f).reply = s.reply := (rfl)

/-! ### `State.modBinding` -/

@[simp] theorem State.modBinding_pending (s : State) (b f) : (s.modBinding b f).pending = s.pending := (rfl)
@[simp] theorem State.modBinding_glb (s : State) (b f) : (s.modBinding b f).glb = s.glb := (rfl)
@[simp] theorem State.modBinding_start (s : State) (b f) : (s.modBinding b f).start = s.start := (rfl)
@[simp] theorem State.modBinding_nvm (s : State) (b f) : (s.modBinding b f).nvm = s.nvm := (rfl)
@[simp] theorem State.modBinding_fuses (s : State) (b f) : (s.modBinding b f).fuses = s.fuses := (rfl)
@[simp] theorem State.modBinding_lc (s : State) (b f) : (s.modBinding b f).lc = s.lc := (rfl)
@[simp] theorem State.modBinding_pwr (s : State) (b f) : (s.modBinding b f).pwr = s.pwr := (rfl)
@[simp] theorem State.modBinding_clk (s : State) (b f) : (s.modBinding b f).clk = s.clk := (rfl)
@[simp] theorem State.modBinding_orbit (s : State) (b f) : (s.modBinding b f).orbit = s.orbit := (rfl)
@[simp] theorem State.modBinding_roo (s : State) (b f) : (s.modBinding b f).roo = s.roo := (rfl)
@[simp] theorem State.modBinding_sdg (s : State) (b f) : (s.modBinding b f).sdg = s.sdg := (rfl)
@[simp] theorem State.modBinding_host (s : State) (b f) : (s.modBinding b f).host = s.host := (rfl)
@[simp] theorem State.modBinding_dir (s : State) (b f) : (s.modBinding b f).dir = s.dir := (rfl)
@[simp] theorem State.modBinding_train (s : State) (b f) : (s.modBinding b f).train = s.train := (rfl)
@[simp] theorem State.modBinding_par (s : State) (b f) : (s.modBinding b f).par = s.par := (rfl)
@[simp] theorem State.modBinding_parts (s : State) (b f) : (s.modBinding b f).parts = s.parts := (rfl)
@[simp] theorem State.modBinding_mul (s : State) (b f) : (s.modBinding b f).mul = s.mul := (rfl)
@[simp] theorem State.modBinding_quads (s : State) (b f) : (s.modBinding b f).quads = s.quads := (rfl)
@[simp] theorem State.modBinding_hbm (s : State) (b f) : (s.modBinding b f).hbm = s.hbm := (rfl)
@[simp] theorem State.modBinding_hostTier (s : State) (b f) : (s.modBinding b f).hostTier = s.hostTier := (rfl)
@[simp] theorem State.modBinding_tri (s : State) (b f) : (s.modBinding b f).tri = s.tri := (rfl)
@[simp] theorem State.modBinding_vault (s : State) (b f) : (s.modBinding b f).vault = s.vault := (rfl)
@[simp] theorem State.modBinding_fresh (s : State) (b f) : (s.modBinding b f).fresh = s.fresh := (rfl)
@[simp] theorem State.modBinding_reply (s : State) (b f) : (s.modBinding b f).reply = s.reply := (rfl)

/-! ### `State.modDomain` -/

@[simp] theorem State.modDomain_pending (s : State) (n f) : (s.modDomain n f).pending = s.pending := (rfl)
@[simp] theorem State.modDomain_glb (s : State) (n f) : (s.modDomain n f).glb = s.glb := (rfl)
@[simp] theorem State.modDomain_start (s : State) (n f) : (s.modDomain n f).start = s.start := (rfl)
@[simp] theorem State.modDomain_nvm (s : State) (n f) : (s.modDomain n f).nvm = s.nvm := (rfl)
@[simp] theorem State.modDomain_fuses (s : State) (n f) : (s.modDomain n f).fuses = s.fuses := (rfl)
@[simp] theorem State.modDomain_lc (s : State) (n f) : (s.modDomain n f).lc = s.lc := (rfl)
@[simp] theorem State.modDomain_pwr (s : State) (n f) : (s.modDomain n f).pwr = s.pwr := (rfl)
@[simp] theorem State.modDomain_orbit (s : State) (n f) : (s.modDomain n f).orbit = s.orbit := (rfl)
@[simp] theorem State.modDomain_roo (s : State) (n f) : (s.modDomain n f).roo = s.roo := (rfl)
@[simp] theorem State.modDomain_sdg (s : State) (n f) : (s.modDomain n f).sdg = s.sdg := (rfl)
@[simp] theorem State.modDomain_host (s : State) (n f) : (s.modDomain n f).host = s.host := (rfl)
@[simp] theorem State.modDomain_dir (s : State) (n f) : (s.modDomain n f).dir = s.dir := (rfl)
@[simp] theorem State.modDomain_train (s : State) (n f) : (s.modDomain n f).train = s.train := (rfl)
@[simp] theorem State.modDomain_par (s : State) (n f) : (s.modDomain n f).par = s.par := (rfl)
@[simp] theorem State.modDomain_parts (s : State) (n f) : (s.modDomain n f).parts = s.parts := (rfl)
@[simp] theorem State.modDomain_mul (s : State) (n f) : (s.modDomain n f).mul = s.mul := (rfl)
@[simp] theorem State.modDomain_quads (s : State) (n f) : (s.modDomain n f).quads = s.quads := (rfl)
@[simp] theorem State.modDomain_hbm (s : State) (n f) : (s.modDomain n f).hbm = s.hbm := (rfl)
@[simp] theorem State.modDomain_hostTier (s : State) (n f) : (s.modDomain n f).hostTier = s.hostTier := (rfl)
@[simp] theorem State.modDomain_tri (s : State) (n f) : (s.modDomain n f).tri = s.tri := (rfl)
@[simp] theorem State.modDomain_vault (s : State) (n f) : (s.modDomain n f).vault = s.vault := (rfl)
@[simp] theorem State.modDomain_jan (s : State) (n f) : (s.modDomain n f).jan = s.jan := (rfl)
@[simp] theorem State.modDomain_fresh (s : State) (n f) : (s.modDomain n f).fresh = s.fresh := (rfl)
@[simp] theorem State.modDomain_reply (s : State) (n f) : (s.modDomain n f).reply = s.reply := (rfl)

/-! ### `State.draw` -/

@[simp] theorem State.draw_pending (s : State) (w : Nat) : (s.draw w).2.pending = s.pending := (rfl)
@[simp] theorem State.draw_glb (s : State) (w : Nat) : (s.draw w).2.glb = s.glb := (rfl)
@[simp] theorem State.draw_start (s : State) (w : Nat) : (s.draw w).2.start = s.start := (rfl)
@[simp] theorem State.draw_nvm (s : State) (w : Nat) : (s.draw w).2.nvm = s.nvm := (rfl)
@[simp] theorem State.draw_fuses (s : State) (w : Nat) : (s.draw w).2.fuses = s.fuses := (rfl)
@[simp] theorem State.draw_lc (s : State) (w : Nat) : (s.draw w).2.lc = s.lc := (rfl)
@[simp] theorem State.draw_pwr (s : State) (w : Nat) : (s.draw w).2.pwr = s.pwr := (rfl)
@[simp] theorem State.draw_clk (s : State) (w : Nat) : (s.draw w).2.clk = s.clk := (rfl)
@[simp] theorem State.draw_orbit (s : State) (w : Nat) : (s.draw w).2.orbit = s.orbit := (rfl)
@[simp] theorem State.draw_roo (s : State) (w : Nat) : (s.draw w).2.roo = s.roo := (rfl)
@[simp] theorem State.draw_sdg (s : State) (w : Nat) : (s.draw w).2.sdg = s.sdg := (rfl)
@[simp] theorem State.draw_host (s : State) (w : Nat) : (s.draw w).2.host = s.host := (rfl)
@[simp] theorem State.draw_dir (s : State) (w : Nat) : (s.draw w).2.dir = s.dir := (rfl)
@[simp] theorem State.draw_train (s : State) (w : Nat) : (s.draw w).2.train = s.train := (rfl)
@[simp] theorem State.draw_par (s : State) (w : Nat) : (s.draw w).2.par = s.par := (rfl)
@[simp] theorem State.draw_parts (s : State) (w : Nat) : (s.draw w).2.parts = s.parts := (rfl)
@[simp] theorem State.draw_mul (s : State) (w : Nat) : (s.draw w).2.mul = s.mul := (rfl)
@[simp] theorem State.draw_quads (s : State) (w : Nat) : (s.draw w).2.quads = s.quads := (rfl)
@[simp] theorem State.draw_hbm (s : State) (w : Nat) : (s.draw w).2.hbm = s.hbm := (rfl)
@[simp] theorem State.draw_hostTier (s : State) (w : Nat) : (s.draw w).2.hostTier = s.hostTier := (rfl)
@[simp] theorem State.draw_tri (s : State) (w : Nat) : (s.draw w).2.tri = s.tri := (rfl)
@[simp] theorem State.draw_vault (s : State) (w : Nat) : (s.draw w).2.vault = s.vault := (rfl)
@[simp] theorem State.draw_jan (s : State) (w : Nat) : (s.draw w).2.jan = s.jan := (rfl)
@[simp] theorem State.draw_reply (s : State) (w : Nat) : (s.draw w).2.reply = s.reply := (rfl)
@[simp] theorem State.draw_fresh (s : State) (w : Nat) : (s.draw w).2.fresh = s.fresh + 1 := (rfl)
@[simp] theorem State.draw_value (s : State) (w : Nat) : (s.draw w).1 = Config.free w s.fresh := (rfl)

/-! ### What was written reads back, and nothing beside it changed -/

/-- A partition reads as changed; every other reads as before. -/
@[simp] theorem State.part_modPart (s : State) (p q : Nat) (f : Part → Part) :
    (s.modPart p f).part q = if q = p then f (s.part p) else s.part q := by simp [State.part, State.modPart]

/-- A directory entry reads as changed; every other reads as before. -/
@[simp] theorem State.entry_modEntry (s : State) (h k : Nat) (f : DirEntry → DirEntry) :
    (s.modEntry h f).entry k = if k = h then f (s.entry h) else s.entry k := by simp [State.entry, State.modEntry]

/-- A domain reads as changed; every other reads as before. -/
@[simp] theorem State.dom_modDom (s : State) (d e : Nat) (f : Domain → Domain) :
    (s.modDom d f).dom e = if e = d then f (s.dom d) else s.dom e := by simp [State.dom, State.modDom]

/-- A change of an entry leaves the domains, and a change of a domain leaves the entries. -/
@[simp] theorem State.dom_modEntry (s : State) (h d : Nat) (f : DirEntry → DirEntry) :
    (s.modEntry h f).dom d = s.dom d := rfl
@[simp] theorem State.entry_modDom (s : State) (d h : Nat) (f : Domain → Domain) :
    (s.modDom d f).entry h = s.entry h := rfl

/-- A training slot reads as changed; every other reads as before. -/
@[simp] theorem State.slot_modSlot (s : State) (p k p' k' : Nat) (f : TrSlot → TrSlot) :
    (s.modSlot p k f).slot p' k' = if p' * 16 + k' = p * 16 + k then f (s.slot p k) else s.slot p' k' := by
  simp [State.slot, State.modSlot]

/-- The queue that was changed reads as changed. -/
@[simp] theorem State.queue_modQueue (s : State) (fn : Fn) (q : Nat) (f : Queue → Queue) :
    (s.modQueue fn q f).queue fn q = f (s.queue fn q) := by simp [State.queue, State.modQueue]

/-- The ring that was changed reads as changed. -/
@[simp] theorem State.ring_modRing (s : State) (fn : Fn) (f : EventRing → EventRing) :
    (s.modRing fn f).ring fn = f (s.ring fn) := by simp [State.ring, State.modRing]

/-- A quadrant that exists reads as changed; every other reads as before. -/
theorem State.quad_modQuad (s : State) (q r : Nat) (f : Quad → Quad) (h : q < s.quads.length) :
    (s.modQuad q f).quad r = if r = q then f (s.quad q) else s.quad r := by
  unfold State.quad State.modQuad
  by_cases hr : r = q
  · subst hr; simp [List.getD, h]
  · simp [List.getD, hr, Ne.symm hr]

/-- A tile of a quadrant that exists reads as changed; every other reads as before. -/
theorem State.tile_modTile (s : State) (t u : TileId) (f : Tile → Tile) (h : t.q < s.quads.length) :
    (s.modTile t f).tile u = if u = t then f (s.tile t) else s.tile u := by
  obtain ⟨q, i⟩ := t
  obtain ⟨r, j⟩ := u
  simp only [State.tile, State.modTile, State.quad_modQuad s q r _ h]
  by_cases hr : r = q
  · subst hr; by_cases hj : j = i <;> simp [hj]
  · simp [hr]

/-- A stack that exists reads as changed; every other reads as before. -/
theorem State.stack_modStack (s : State) (k l : Nat) (f : Stack → Stack) (h : k < s.hbm.length) :
    (s.modStack k f).stack l = if l = k then f (s.stack k) else s.stack l := by
  unfold State.stack State.modStack
  by_cases hr : l = k
  · subst hr; simp [List.getD, h]
  · simp [List.getD, hr, Ne.symm hr]

/-- A port that exists reads as changed; every other reads as before. -/
theorem State.port_modPort (s : State) (p q : Nat) (f : JPort → JPort) (h : p < s.jan.ports.length) :
    (s.modPort p f).port q = if q = p then f (s.port p) else s.port q := by
  unfold State.port State.modPort
  by_cases hr : q = p
  · subst hr; simp [List.getD, h]
  · simp [List.getD, hr, Ne.symm hr]

/-- Bytes of host memory outside a write read as before. -/
theorem State.hostWrite_outside (s : State) (a b : Nat) (bs : List Byte) (h : b < a ∨ a + bs.length ≤ b) :
    Mem.read (s.hostWrite a bs).host.mem b = Mem.read s.host.mem b := Mem.read_writeN_outside bs _ a b h

/-- A write of host memory keeps it canonical. -/
theorem State.hostWrite_wf (s : State) (a : Nat) (bs : List Byte) (h : Mem.wf s.host.mem = true) :
    Mem.wf (s.hostWrite a bs).host.mem = true := Mem.wf_writeN bs _ a h

/-- Reset's memories are canonical. -/
theorem State.reset_mem_wf : Mem.wf State.reset.host.mem = true ∧ Mem.wf State.reset.nvm.bytes = true := ⟨rfl, rfl⟩

/-! ### The outcomes of Table 14.4 -/

/-- A fire of an inactive source makes it pending, and one of an active source active and pending; a source that is
pending already coalesces. -/
@[simp] theorem Source.fire_phase (t : Nat) (c : Source) :
    (c.fire t).1.phase = match c.phase with
      | .inactive => .pending
      | .pending => .pending
      | .active => .activePending
      | .activePending => .activePending := by
  unfold Source.fire; split <;> simp_all

end Sys2Proof.Machine
end

