-- ==== Sys2Proof/Laws/Frames.lean ====
section
/-! SUPPORT. The frame of each shared operation: the parts of the state that it may change, and no other. -/

namespace Sys2Proof.Machine

/-- A fire changes the source registers and their counter alone (R518, R530). -/
theorem State.fire_frame (s : State) (n : Nat) : s.fire n = { s with sdg := (s.fire n).sdg } := by
  unfold State.fire; dsimp only; split <;> rfl

/-- Raising an event changes the delivery state and the rings alone (R511, R512). -/
theorem State.raise_frame (s : State) (code source part a0 a1 a2 a3 : Nat) :
    s.raise code source part a0 a1 a2 a3 =
      { s with
        sdg := (s.raise code source part a0 a1 a2 a3).sdg
        host := { s.host with rings := (s.raise code source part a0 a1 a2 a3).host.rings } } := by
  unfold State.raise; dsimp only
  split <;> rw [State.fire_frame]

/-- A swap decision changes partitions and the swap counters alone (R377). -/
theorem State.swapDecide_frame (s : State) (p : Nat) :
    s.swapDecide p = { s with
      parts := (s.swapDecide p).parts
      par := (s.swapDecide p).par } := by
  unfold State.swapDecide; dsimp only
  repeat' split
  all_goals rfl

/-- Activities and the swap decision after them change partitions and the swap counters alone (R373, R377). -/
theorem State.resched_frame (s : State) (p : Nat) :
    s.resched p = { s with
      parts := (s.resched p).parts
      par := (s.resched p).par } := by
  unfold State.resched
  rw [State.swapDecide_frame]; rfl

/-- Leaving L2 changes the power state alone (R584). -/
theorem State.l2Wake_frame (s : State) : s.l2Wake = { s with clk := s.l2Wake.clk } := by
  unfold State.l2Wake; split <;> rfl

/-- Two queues that differ have different keys. -/
theorem queueKey_ne {fn fn' : Fn} {q q' : Nat} (hq : q < Config.queues) (hq' : q' < Config.queues)
    (h : (fn', q') ≠ (fn, q)) : fnKey fn' * 64 + q' ≠ fnKey fn * 64 + q := by
  unfold Config.queues at hq hq'
  intro e; apply h
  have h1 : fnKey fn' = fnKey fn := by omega
  have h2 : q' = q := by omega
  cases fn <;> cases fn' <;> simp_all [fnKey]

/-- Every other queue reads as before. -/
theorem State.queue_modQueue_other (s : State) {fn fn' : Fn} {q q' : Nat} (f : Queue → Queue)
    (hq : q < Config.queues) (hq' : q' < Config.queues) (h : (fn', q') ≠ (fn, q)) :
    (s.modQueue fn q f).queue fn' q' = s.queue fn' q' := by
  unfold State.modQueue State.queue; rw [mget_mmod, if_neg]; exact queueKey_ne hq hq' h

end Sys2Proof.Machine
end

