-- ==== Sys2Proof/Laws/Keeps.lean ====
section
/-! SUPPORT. What nearly every operation keeps: the queue, the life cycle, the fuses and the life-cycle request in
progress. The rules that the operations' lemmas rest on. -/

namespace Sys2Proof.Machine

/-- `t` has the queue, the life cycle and the fuses of `s`. -/
abbrev Persists (s t : State) : Prop := t.pending = s.pending ∧ t.lc = s.lc ∧ t.fuses = s.fuses

/-- `t` has, besides, the life-cycle request of `s`. -/
abbrev Keeps (s t : State) : Prop :=
  t.pending = s.pending ∧ t.lc = s.lc ∧ t.fuses = s.fuses ∧ t.tri.lcBusy = s.tri.lcBusy ∧ t.tri.lcTarget = s.tri.lcTarget

/-- The same, for proofs that must not look into `t`. -/
def Kept (s t : State) : Prop := Keeps s t

theorem Kept.refl (s : State) : Kept s s := ⟨rfl, rfl, rfl, rfl, rfl⟩

theorem Kept.trans {s t u : State} (h : Kept s t) (h' : Kept t u) : Kept s u :=
  ⟨h'.1.trans h.1, h'.2.1.trans h.2.1, h'.2.2.1.trans h.2.2.1, h'.2.2.2.1.trans h.2.2.2.1, h'.2.2.2.2.trans h.2.2.2.2⟩

/-- A next state is reached. -/
@[simp] theorem reached_next (t s0 : State) : reached (.next t) s0 = t := rfl

/-- A choice between two states that keep them keeps them. -/
theorem Kept.next_ite (s s0 a b : State) (c : Prop) [Decidable c] (ha : Kept s a) (hb : Kept s b) :
    Kept s (reached (.next (if c then a else b)) s0) := by
  show Kept s (if c then a else b)
  split <;> assumption

/-- A choice between two states that keep them. -/
theorem Kept.ite {s a b : State} (c : Prop) [Decidable c] (ha : Kept s a) (hb : Kept s b) : Kept s (if c then a else b) := by
  split <;> assumption

/-- A fold of steps that keep them keeps them. -/
theorem Kept.foldl {α : Type} (g : State → α → State) (l : List α) (s : State) (h : ∀ s a, Kept s (g s a)) : Kept s (l.foldl g s) := by
  induction l generalizing s with
  | nil => exact Kept.refl s
  | cons a l ih => exact (h s a).trans (ih (g s a))

/-- The same with an accumulator beside the state. -/
theorem Kept.foldl_fst {α β : Type} (g : State × β → α → State × β) (l : List α) (s : State × β)
    (h : ∀ s a, Kept s.1 (g s a).1) : Kept s.1 (l.foldl g s).1 := by
  induction l generalizing s with
  | nil => exact Kept.refl s.1
  | cons a l ih => exact (h s a).trans (ih (g s a))

/-- A change of the host interface keeps them. -/
theorem Kept.host {s t : State} (h : Kept s t) (x : HostIf) : Kept s { t with host := x } := h

/-! ### `pending` along a fold and through a choice -/

@[simp] theorem foldl_pending {α : Type} (g : State → α → State) (l : List α) (s : State)
    (h : ∀ s a, (g s a).pending = s.pending) : (l.foldl g s).pending = s.pending := by
  induction l generalizing s with
  | nil => rfl
  | cons a l ih => rw [List.foldl_cons, ih, h]

@[simp] theorem foldl_fst_pending {α β : Type} (g : State × β → α → State × β) (l : List α) (s : State × β)
    (h : ∀ s a, (g s a).1.pending = s.1.pending) : (l.foldl g s).1.pending = s.1.pending := by
  induction l generalizing s with
  | nil => rfl
  | cons a l ih => rw [List.foldl_cons, ih, h]

@[simp] theorem foldl_snd_pending {α β : Type} (g : β × State → α → β × State) (l : List α) (s : β × State)
    (h : ∀ s a, (g s a).2.pending = s.2.pending) : (l.foldl g s).2.pending = s.2.pending := by
  induction l generalizing s with
  | nil => rfl
  | cons a l ih => rw [List.foldl_cons, ih, h]

theorem foldl_eq_pending {α : Type} (g : State → α → State) (l : List α) (s : State)
    (h : ∀ s a t, g s a = t → t.pending = s.pending) : (l.foldl g s).pending = s.pending :=
  foldl_pending g l s (fun s a => h s a _ rfl)

@[simp] theorem ite_pending (c : Prop) [Decidable c] (a b : State) :
    (if c then a else b).pending = if c then a.pending else b.pending := by split <;> rfl

@[simp] theorem ite_fst_pending {β : Type} (c : Prop) [Decidable c] (a b : State × β) :
    (if c then a else b).1.pending = if c then a.1.pending else b.1.pending := by split <;> rfl

/-! ### `lc` along a fold and through a choice -/

@[simp] theorem foldl_lc {α : Type} (g : State → α → State) (l : List α) (s : State)
    (h : ∀ s a, (g s a).lc = s.lc) : (l.foldl g s).lc = s.lc := by
  induction l generalizing s with
  | nil => rfl
  | cons a l ih => rw [List.foldl_cons, ih, h]

@[simp] theorem foldl_fst_lc {α β : Type} (g : State × β → α → State × β) (l : List α) (s : State × β)
    (h : ∀ s a, (g s a).1.lc = s.1.lc) : (l.foldl g s).1.lc = s.1.lc := by
  induction l generalizing s with
  | nil => rfl
  | cons a l ih => rw [List.foldl_cons, ih, h]

@[simp] theorem foldl_snd_lc {α β : Type} (g : β × State → α → β × State) (l : List α) (s : β × State)
    (h : ∀ s a, (g s a).2.lc = s.2.lc) : (l.foldl g s).2.lc = s.2.lc := by
  induction l generalizing s with
  | nil => rfl
  | cons a l ih => rw [List.foldl_cons, ih, h]

theorem foldl_eq_lc {α : Type} (g : State → α → State) (l : List α) (s : State)
    (h : ∀ s a t, g s a = t → t.lc = s.lc) : (l.foldl g s).lc = s.lc :=
  foldl_lc g l s (fun s a => h s a _ rfl)

@[simp] theorem ite_lc (c : Prop) [Decidable c] (a b : State) :
    (if c then a else b).lc = if c then a.lc else b.lc := by split <;> rfl

@[simp] theorem ite_fst_lc {β : Type} (c : Prop) [Decidable c] (a b : State × β) :
    (if c then a else b).1.lc = if c then a.1.lc else b.1.lc := by split <;> rfl

/-! ### `fuses` along a fold and through a choice -/

@[simp] theorem foldl_fuses {α : Type} (g : State → α → State) (l : List α) (s : State)
    (h : ∀ s a, (g s a).fuses = s.fuses) : (l.foldl g s).fuses = s.fuses := by
  induction l generalizing s with
  | nil => rfl
  | cons a l ih => rw [List.foldl_cons, ih, h]

@[simp] theorem foldl_fst_fuses {α β : Type} (g : State × β → α → State × β) (l : List α) (s : State × β)
    (h : ∀ s a, (g s a).1.fuses = s.1.fuses) : (l.foldl g s).1.fuses = s.1.fuses := by
  induction l generalizing s with
  | nil => rfl
  | cons a l ih => rw [List.foldl_cons, ih, h]

@[simp] theorem foldl_snd_fuses {α β : Type} (g : β × State → α → β × State) (l : List α) (s : β × State)
    (h : ∀ s a, (g s a).2.fuses = s.2.fuses) : (l.foldl g s).2.fuses = s.2.fuses := by
  induction l generalizing s with
  | nil => rfl
  | cons a l ih => rw [List.foldl_cons, ih, h]

theorem foldl_eq_fuses {α : Type} (g : State → α → State) (l : List α) (s : State)
    (h : ∀ s a t, g s a = t → t.fuses = s.fuses) : (l.foldl g s).fuses = s.fuses :=
  foldl_fuses g l s (fun s a => h s a _ rfl)

@[simp] theorem ite_fuses (c : Prop) [Decidable c] (a b : State) :
    (if c then a else b).fuses = if c then a.fuses else b.fuses := by split <;> rfl

@[simp] theorem ite_fst_fuses {β : Type} (c : Prop) [Decidable c] (a b : State × β) :
    (if c then a else b).1.fuses = if c then a.1.fuses else b.1.fuses := by split <;> rfl

/-! ### `tri.lcBusy` along a fold and through a choice -/

@[simp] theorem foldl_tri_lcBusy {α : Type} (g : State → α → State) (l : List α) (s : State)
    (h : ∀ s a, (g s a).tri.lcBusy = s.tri.lcBusy) : (l.foldl g s).tri.lcBusy = s.tri.lcBusy := by
  induction l generalizing s with
  | nil => rfl
  | cons a l ih => rw [List.foldl_cons, ih, h]

@[simp] theorem foldl_fst_tri_lcBusy {α β : Type} (g : State × β → α → State × β) (l : List α) (s : State × β)
    (h : ∀ s a, (g s a).1.tri.lcBusy = s.1.tri.lcBusy) : (l.foldl g s).1.tri.lcBusy = s.1.tri.lcBusy := by
  induction l generalizing s with
  | nil => rfl
  | cons a l ih => rw [List.foldl_cons, ih, h]

@[simp] theorem foldl_snd_tri_lcBusy {α β : Type} (g : β × State → α → β × State) (l : List α) (s : β × State)
    (h : ∀ s a, (g s a).2.tri.lcBusy = s.2.tri.lcBusy) : (l.foldl g s).2.tri.lcBusy = s.2.tri.lcBusy := by
  induction l generalizing s with
  | nil => rfl
  | cons a l ih => rw [List.foldl_cons, ih, h]

theorem foldl_eq_tri_lcBusy {α : Type} (g : State → α → State) (l : List α) (s : State)
    (h : ∀ s a t, g s a = t → t.tri.lcBusy = s.tri.lcBusy) : (l.foldl g s).tri.lcBusy = s.tri.lcBusy :=
  foldl_tri_lcBusy g l s (fun s a => h s a _ rfl)

@[simp] theorem ite_tri_lcBusy (c : Prop) [Decidable c] (a b : State) :
    (if c then a else b).tri.lcBusy = if c then a.tri.lcBusy else b.tri.lcBusy := by split <;> rfl

@[simp] theorem ite_fst_tri_lcBusy {β : Type} (c : Prop) [Decidable c] (a b : State × β) :
    (if c then a else b).1.tri.lcBusy = if c then a.1.tri.lcBusy else b.1.tri.lcBusy := by split <;> rfl

/-! ### `tri.lcTarget` along a fold and through a choice -/

@[simp] theorem foldl_tri_lcTarget {α : Type} (g : State → α → State) (l : List α) (s : State)
    (h : ∀ s a, (g s a).tri.lcTarget = s.tri.lcTarget) : (l.foldl g s).tri.lcTarget = s.tri.lcTarget := by
  induction l generalizing s with
  | nil => rfl
  | cons a l ih => rw [List.foldl_cons, ih, h]

@[simp] theorem foldl_fst_tri_lcTarget {α β : Type} (g : State × β → α → State × β) (l : List α) (s : State × β)
    (h : ∀ s a, (g s a).1.tri.lcTarget = s.1.tri.lcTarget) : (l.foldl g s).1.tri.lcTarget = s.1.tri.lcTarget := by
  induction l generalizing s with
  | nil => rfl
  | cons a l ih => rw [List.foldl_cons, ih, h]

@[simp] theorem foldl_snd_tri_lcTarget {α β : Type} (g : β × State → α → β × State) (l : List α) (s : β × State)
    (h : ∀ s a, (g s a).2.tri.lcTarget = s.2.tri.lcTarget) : (l.foldl g s).2.tri.lcTarget = s.2.tri.lcTarget := by
  induction l generalizing s with
  | nil => rfl
  | cons a l ih => rw [List.foldl_cons, ih, h]

theorem foldl_eq_tri_lcTarget {α : Type} (g : State → α → State) (l : List α) (s : State)
    (h : ∀ s a t, g s a = t → t.tri.lcTarget = s.tri.lcTarget) : (l.foldl g s).tri.lcTarget = s.tri.lcTarget :=
  foldl_tri_lcTarget g l s (fun s a => h s a _ rfl)

@[simp] theorem ite_tri_lcTarget (c : Prop) [Decidable c] (a b : State) :
    (if c then a else b).tri.lcTarget = if c then a.tri.lcTarget else b.tri.lcTarget := by split <;> rfl

@[simp] theorem ite_fst_tri_lcTarget {β : Type} (c : Prop) [Decidable c] (a b : State × β) :
    (if c then a else b).1.tri.lcTarget = if c then a.1.tri.lcTarget else b.1.tri.lcTarget := by split <;> rfl

end Sys2Proof.Machine
end

