-- ==== Sys2Proof/Laws/KeepsOps.lean ====
section
/-! SUPPORT. What the operations and commands of the named operations, the stacks and the scheduler keep. -/

namespace Sys2Proof.Machine

/-! ### Ops -/

@[simp] theorem State.modQuad_keeps (s : State) (q f) : Keeps s (State.modQuad s q f) := by
  unfold Keeps State.modQuad
  simp

@[simp] theorem State.modTile_keeps (s : State) (t f) : Keeps s (State.modTile s t f) := by
  unfold Keeps State.modTile
  simp

@[simp] theorem State.modStack_keeps (s : State) (k f) : Keeps s (State.modStack s k f) := by
  unfold Keeps State.modStack
  simp

@[simp] theorem State.modPart_keeps (s : State) (p f) : Keeps s (State.modPart s p f) := by
  unfold Keeps State.modPart
  simp

@[simp] theorem State.modEntry_keeps (s : State) (h : ℕ) (f) : Keeps s (State.modEntry s h f) := by
  unfold Keeps State.modEntry
  simp

@[simp] theorem State.modDom_keeps (s : State) (d f) : Keeps s (State.modDom s d f) := by
  unfold Keeps State.modDom
  simp

@[simp] theorem State.modSlot_keeps (s : State) (p k f) : Keeps s (State.modSlot s p k f) := by
  unfold Keeps State.modSlot
  simp

@[simp] theorem State.modQueue_keeps (s : State) (fn q f) : Keeps s (State.modQueue s fn q f) := by
  unfold Keeps State.modQueue
  simp

@[simp] theorem State.modRing_keeps (s : State) (fn f) : Keeps s (State.modRing s fn f) := by
  unfold Keeps State.modRing
  simp

@[simp] theorem State.draw_keeps (s : State) (w) : Keeps s (State.draw s w).2 := by
  unfold Keeps State.draw
  simp

@[simp] theorem State.fire_keeps (s : State) (n) : Keeps s (State.fire s n) := by
  unfold Keeps State.fire
  simp

@[simp] theorem State.raise_keeps (s : State) (code source part a0 a1 a2 a3) :
    Keeps s (State.raise s code source part a0 a1 a2 a3) := by
  unfold Keeps State.raise
  simp

@[simp] theorem State.hostWrite_keeps (s : State) (a bs) : Keeps s (State.hostWrite s a bs) := by
  unfold Keeps State.hostWrite
  simp

@[simp] theorem State.sendMsix_keeps (s : State) (fn v) : Keeps s (State.sendMsix s fn v) := by
  unfold Keeps State.sendMsix
  simp

@[simp] theorem State.completionMsg_keeps (s : State) (fn v) : Keeps s (State.completionMsg s fn v) := by
  unfold Keeps State.completionMsg
  simp

@[simp] theorem State.modCmd_keeps (s : State) (j f) : Keeps s (State.modCmd s j f) := by
  unfold Keeps State.modCmd
  simp

@[simp] theorem State.finish_keeps (s : State) (j status detail) : Keeps s (State.finish s j status detail) := by
  unfold Keeps State.finish
  simp

@[simp] theorem State.dropRefs_keeps (s : State) (c) : Keeps s (State.dropRefs s c) := by
  unfold Keeps State.dropRefs
  simp

@[simp] theorem State.closeBinding_keeps (s : State) (b) : Keeps s (State.closeBinding s b) := by
  unfold Keeps State.closeBinding
  dsimp only
  (repeat' split) <;> simp

@[simp] theorem State.l2Wake_keeps (s : State) : Keeps s (State.l2Wake s) := by
  unfold Keeps State.l2Wake
  dsimp only
  (repeat' split) <;> simp

/-! ### Errors -/

@[simp] theorem State.countCe_keeps (s : State) (cls x1) : Keeps s (State.countCe s cls x1).1 := by
  unfold Keeps State.countCe
  dsimp only
  (repeat' split) <;> simp

@[simp] theorem State.noteCe_keeps (s : State) (u cls part) : Keeps s (State.noteCe s u cls part) := by
  unfold Keeps State.noteCe
  simp

@[simp] theorem State.noteUe_keeps (s : State) (u cls part job loc) :
    Keeps s (State.noteUe s u cls part job loc) := by
  unfold Keeps State.noteUe
  dsimp only
  (repeat' split) <;> simp

/-! ### StackOps -/

@[simp] theorem State.storeRaw_keeps (s : State) (l v) : Keeps s (State.storeRaw s l v) := by
  unfold Keeps State.storeRaw
  simp

@[simp] theorem State.logPage_keeps (s : State) (k pch page) : Keeps s (State.logPage s k pch page) := by
  unfold Keeps State.logPage
  simp

@[simp] theorem State.putLine_keeps (s : State) (l v) : Keeps s (State.putLine s l v) := by
  unfold Keeps State.putLine
  simp

@[simp] theorem State.stackMarks_keeps (s : State) (l part job) : Keeps s (State.stackMarks s l part job) := by
  unfold Keeps State.stackMarks
  simp

@[simp] theorem State.stackUpset_keeps (a : State × CipherRead) (l part job u) :
    Keeps a.1 (State.stackUpset a l part job u).1 := by
  unfold Keeps State.stackUpset
  dsimp only
  (repeat' split) <;> simp

@[simp] theorem State.stackUpsets_keeps (s : State) (l part job us) : Keeps s (State.stackUpsets s l part job us).1 :=
  Kept.foldl_fst _ _ _ (fun a u => State.stackUpset_keeps a l part job u)

@[simp] theorem State.stackRead_keeps (s : State) (l part job us) : Keeps s (State.stackRead s l part job us).1 := by
  unfold Keeps State.stackRead
  dsimp only
  (repeat' split) <;> simp

@[simp] theorem State.setPage_keeps (s : State) (k pch page a) : Keeps s (State.setPage s k pch page a) := by
  unfold Keeps State.setPage
  simp

@[simp] theorem State.dropPage_keeps (s : State) (k pch page) : Keeps s (State.dropPage s k pch page) := by
  unfold Keeps State.dropPage
  simp

@[simp] theorem State.setStripes_keeps (s : State) (p lq r a n at_) :
    Keeps s (State.setStripes s p lq r a n at_) := by
  unfold Keeps State.setStripes
  simp

@[simp] theorem State.dropStripes_keeps (s : State) (p lq r a n) : Keeps s (State.dropStripes s p lq r a n) := by
  unfold Keeps State.dropStripes
  simp

@[simp] theorem State.placeLines_keeps (s : State) (p lq r off x5) : Keeps s (State.placeLines s p lq r off x5) := by
  unfold Keeps
  induction x5 generalizing s off with
  | nil => simp [State.placeLines]
  | cons l ls ih =>
    simp only [State.placeLines, ih]
    split <;> simp

@[simp] theorem State.placeBytes_keeps (s : State) (p lq r off x5) : Keeps s (State.placeBytes s p lq r off x5) :=
  State.placeLines_keeps s p lq r off (cleanLines x5)

@[simp] theorem State.regionMarks_keeps (s : State) (p job lq r off n) : Keeps s (State.regionMarks s p job lq r off n) :=
  Kept.foldl _ _ _ (fun s a => by unfold Kept Keeps; (repeat' split) <;> simp)

@[simp] theorem State.logSave_keeps (s : State) (p ctx) : Keeps s (State.logSave s p ctx) := by
  unfold Keeps State.logSave
  dsimp only
  split <;> simp

@[simp] theorem State.hostUnits_keeps (s : State) (k index gen bad us) : Keeps s (State.hostUnits s k index gen bad us) := by
  unfold Keeps State.hostUnits
  simp

@[simp] theorem State.hostAnswers_keeps (s : State) (us) : Keeps s (State.hostAnswers s us) := by
  unfold Keeps State.hostAnswers
  simp

@[simp] theorem State.hostFree_keeps (s : State) (p index units) : Keeps s (State.hostFree s p index units) := by
  unfold Keeps State.hostFree
  simp

@[simp] theorem State.cfgWrite_keeps (s : State) (p a x3) : Keeps s (State.cfgWrite s p a x3) := by
  unfold Keeps
  induction x3 generalizing s a with
  | nil => simp [State.cfgWrite]
  | cons l ls ih =>
    simp only [State.cfgWrite, ih]
    split <;> simp

@[simp] theorem State.cfgTable_keeps (s : State) (p) : Keeps s (State.cfgTable s p) := by
  unfold Keeps State.cfgTable
  simp

theorem State.hostPlace_keeps (s : State) (p index : Nat) (d : Option Nat) (bad : List Nat) (bs : List Byte) (t : State)
    (h : s.hostPlace p index d bad bs = some t) : Keeps s t := by
  unfold Keeps
  unfold State.hostPlace at h
  dsimp only at h
  split at h
  · cases h
  · simp only [Option.some.injEq] at h; subst h; simp

/-! ### Sched -/

@[simp] theorem State.countStall_keeps (s : State) (p tl n) : Keeps s (State.countStall s p tl n) := by
  unfold Keeps State.countStall
  dsimp only
  (repeat' split) <;> simp

@[simp] theorem State.countStalls_keeps (s : State) (n) : Keeps s (State.countStalls s n) := by
  unfold Keeps State.countStalls
  simp

@[simp] theorem State.refresh_keeps (s : State) (p) : Keeps s (State.refresh s p) := by
  unfold Keeps State.refresh
  simp

@[simp] theorem State.swapDecide_keeps (s : State) (p) : Keeps s (State.swapDecide s p) := by
  unfold Keeps State.swapDecide
  dsimp only
  (repeat' split) <;> simp

@[simp] theorem State.resched_keeps (s : State) (p) : Keeps s (State.resched s p) := by
  unfold Keeps State.resched
  simp

@[simp] theorem execSwapBlockTimer_keeps (p) (s : State) (s0 : State) :
    Keeps s (reached (execSwapBlockTimer p s) s0) := by
  unfold Keeps execSwapBlockTimer reached
  simp

@[simp] theorem execPriorityWrite_keeps (v i value) (s : State) (s0 : State) :
    Keeps s (reached (execPriorityWrite v i value s) s0) := by
  unfold Keeps execPriorityWrite reached
  dsimp only
  (repeat' split) <;> simp

@[simp] theorem execSwitchStart_keeps (p) (s : State) (s0 : State) : Keeps s (reached (execSwitchStart p s) s0) := by
  unfold Keeps execSwitchStart reached
  dsimp only
  (repeat' split) <;> simp

@[simp] theorem execContextSaveDone_keeps (p) (s : State) (s0 : State) :
    Keeps s (reached (execContextSaveDone p s) s0) := by
  unfold Keeps execContextSaveDone reached
  dsimp only
  (repeat' split) <;> simp

@[simp] theorem State.scrubCtx_keeps (s : State) (p i) : Keeps s (State.scrubCtx s p i) := by
  unfold Keeps State.scrubCtx
  simp


end Sys2Proof.Machine
end

