-- ==== Sys2Proof/Laws/KeepsHost.lean ====
section
/-! SUPPORT. What the operations and commands of the directory, SHEEPDOG and the queues keep. -/

namespace Sys2Proof.Machine

/-! ### Dir -/

@[simp] theorem State.storeClaim_keeps (s : State) (p m offs d) : Keeps s (State.storeClaim s p m offs d) := by
  unfold Keeps
  unfold State.storeClaim
  refine ⟨foldl_eq_pending _ _ _ ?_, foldl_eq_lc _ _ _ ?_, foldl_eq_fuses _ _ _ ?_, foldl_eq_tri_lcBusy _ _ _ ?_, foldl_eq_tri_lcTarget _ _ _ ?_⟩ <;> (intro s x t ht; beta_reduce at ht; rw [← ht]; simp)

@[simp] theorem State.storeDrop_keeps (s : State) (p m offs) : Keeps s (State.storeDrop s p m offs) := by
  unfold Keeps
  unfold State.storeDrop
  refine ⟨foldl_eq_pending _ _ _ ?_, foldl_eq_lc _ _ _ ?_, foldl_eq_fuses _ _ _ ?_, foldl_eq_tri_lcBusy _ _ _ ?_, foldl_eq_tri_lcTarget _ _ _ ?_⟩ <;> (intro s x t ht; beta_reduce at ht; rw [← ht]; simp)

@[simp] theorem State.storeWrite_keeps (s : State) (p offs imgs) : Keeps s (State.storeWrite s p offs imgs) := by
  unfold Keeps State.storeWrite
  simp

@[simp] theorem State.countLost_keeps (s : State) : Keeps s (State.countLost s) := by
  unfold Keeps State.countLost
  simp

@[simp] theorem State.domainFault_keeps (s : State) (p job row cause) :
    Keeps s (State.domainFault s p job row cause) := by
  unfold Keeps State.domainFault
  simp

@[simp] theorem State.staleDrop_keeps (s : State) (word source) : Keeps s (State.staleDrop s word source) := by
  unfold Keeps State.staleDrop
  simp

@[simp] theorem State.toRetiring_keeps (s : State) (h : ℕ) : Keeps s (State.toRetiring s h) := by
  unfold Keeps State.toRetiring
  simp

@[simp] theorem State.evictsDone_keeps (s : State) (h : ℕ) (status) : Keeps s (State.evictsDone s h status) := by
  unfold Keeps State.evictsDone
  simp

@[simp] theorem State.beginEvict_keeps (s : State) (h : ℕ) (mode force) :
    Keeps s (State.beginEvict s h mode force) := by
  unfold Keeps State.beginEvict
  simp

@[simp] theorem State.drain_keeps (s : State) (h : ℕ) : Keeps s (State.drain s h) := by
  unfold Keeps State.drain
  simp

@[simp] theorem execEvictionDrained_keeps (h : ℕ) (s : State) (s0 : State) :
    Keeps s (reached (execEvictionDrained h s) s0) := by
  unfold Keeps execEvictionDrained reached
  simp

@[simp] theorem State.evictsAbort_keeps (s : State) (h : ℕ) (detail) : Keeps s (State.evictsAbort s h detail) := by
  unfold Keeps State.evictsAbort
  simp

@[simp] theorem State.storeMarks_keeps (s : State) (p : Nat) (m : List Byte) (offs : List Nat) :
    Keeps s (State.storeMarks s p m offs) := by
  unfold Keeps State.storeMarks
  simp

@[simp] theorem execOffloadCopyDone_keeps (h : ℕ) (s : State) (s0 : State) :
    Keeps s (reached (execOffloadCopyDone h s) s0) := by
  unfold Keeps
  unfold execOffloadCopyDone reached
  dsimp only
  split
  · split
    · simp
    · split
      · simp
      · next h =>
        have k := State.hostPlace_keeps _ _ _ _ _ _ _ h
        unfold Keeps at k
        simpa using k
  · simp

@[simp] theorem State.evictAfterReload_keeps (s : State) (h : ℕ) : Keeps s (State.evictAfterReload s h) := by
  unfold Keeps State.evictAfterReload
  dsimp only
  (repeat' split) <;> simp

@[simp] theorem execAdapterReloadDone_keeps (h : ℕ) (ok) (s : State) (s0 : State) :
    Keeps s (reached (execAdapterReloadDone h ok s) s0) := by
  unfold Keeps execAdapterReloadDone reached
  dsimp only
  (repeat' split) <;> simp

@[simp] theorem State.freeCheck_keeps (s : State) (p) : Keeps s (State.freeCheck s p) := by
  unfold Keeps State.freeCheck
  simp

@[simp] theorem execHandleRetired_keeps (h : ℕ) (s : State) (s0 : State) :
    Keeps s (reached (execHandleRetired h s) s0) := by
  unfold Keeps execHandleRetired reached
  simp

@[simp] theorem State.forceRemove_keeps (s : State) (h : ℕ) : Keeps s (State.forceRemove s h) := by
  unfold Keeps State.forceRemove
  dsimp only
  (repeat' split) <;> simp

@[simp] theorem State.releaseReg_keeps (s : State) (p r) : Keeps s (State.releaseReg s p r) := by
  unfold Keeps State.releaseReg
  simp

@[simp] theorem State.failReg_keeps (s : State) (j status detail) : Keeps s (State.failReg s j status detail) := by
  unfold Keeps State.failReg
  (repeat' split) <;> simp_all

@[simp] theorem State.pageFilled_keeps (s : State) (x : Nat × Nat × Nat) :
    Keeps s (State.pageFilled s x) := by
  unfold Keeps State.pageFilled
  simp

@[simp] theorem State.regClosed_keeps (s : State) (c : Cmd) :
    Keeps s (State.regClosed s c) := by
  unfold Keeps State.regClosed
  simp

@[simp] theorem State.dropDomainPages_keeps (s : State) (d) : Keeps s (State.dropDomainPages s d) := by
  unfold Keeps State.dropDomainPages
  simp

@[simp] theorem State.eraseDomain_keeps (s : State) (d) : Keeps s (State.eraseDomain s d) := by
  unfold Keeps State.eraseDomain
  simp

@[simp] theorem State.noteRows_keeps (s : State) (p job rows) : Keeps s (State.noteRows s p job rows) := by
  unfold Keeps State.noteRows
  simp

@[simp] theorem execAdapterBind_keeps (j) (s : State) (s0 : State) : Keeps s (reached (execAdapterBind j s) s0) := by
  unfold Keeps execAdapterBind reached
  dsimp only
  (repeat' split) <;> simp

@[simp] theorem execAdapterBindRelease_keeps (j) (s : State) (s0 : State) :
    Keeps s (reached (execAdapterBindRelease j s) s0) := by
  unfold Keeps execAdapterBindRelease reached
  dsimp only
  (repeat' split) <;> simp

@[simp] theorem State.evict_keeps (s : State) (c mode) : Keeps s (State.evict s c mode) := by
  unfold Keeps State.evict
  dsimp only
  (repeat' split) <;> simp

@[simp] theorem execAdapterEvictOffload_keeps (j) (s : State) (s0 : State) :
    Keeps s (reached (execAdapterEvictOffload j s) s0) := by
  unfold Keeps execAdapterEvictOffload reached
  dsimp only
  (repeat' split) <;> simp

@[simp] theorem execAdapterEvictRemove_keeps (j) (s : State) (s0 : State) :
    Keeps s (reached (execAdapterEvictRemove j s) s0) := by
  unfold Keeps execAdapterEvictRemove reached
  dsimp only
  (repeat' split) <;> simp

@[simp] theorem State.regGo_keeps (s : State) (c m r) : Keeps s (State.regGo s c m r) := by
  unfold Keeps State.regGo
  simp

@[simp] theorem State.regSpace_keeps (s : State) (c m) (h : ℕ) : Keeps s (State.regSpace s c m h) := by
  unfold Keeps State.regSpace
  dsimp only
  (repeat' split) <;> simp

@[simp] theorem State.regClaim_keeps (s : State) (c m) : Keeps s (State.regClaim s c m) := by
  unfold Keeps State.regClaim
  dsimp only
  (repeat' split) <;> simp

@[simp] theorem State.regCommit_keeps (s : State) (j) : Keeps s (State.regCommit s j) := by
  unfold Keeps State.regCommit
  dsimp only
  (repeat' split) <;> simp

@[simp] theorem State.regCommitOrWait_keeps (s : State) (j) : Keeps s (State.regCommitOrWait s j) := by
  unfold Keeps State.regCommitOrWait
  simp

@[simp] theorem execAdapterRegister_keeps (j) (s : State) (s0 : State) :
    Keeps s (reached (execAdapterRegister j s) s0) := by
  unfold Keeps execAdapterRegister reached
  dsimp only
  (repeat' split) <;> simp

@[simp] theorem State.placeAdapter_keeps (s : State) (p r w) : Keeps s (State.placeAdapter s p r w) := by
  unfold Keeps State.placeAdapter
  simp

@[simp] theorem execAdapterImportDone_keeps (j) (s : State) (s0 : State) :
    Keeps s (reached (execAdapterImportDone j s) s0) := by
  unfold Keeps execAdapterImportDone reached
  dsimp only
  (repeat' split) <;> simp

/-! ### Events -/

@[simp] theorem State.ringError_keeps (s : State) (fn) : Keeps s (State.ringError s fn) := by
  unfold Keeps State.ringError
  simp

@[simp] theorem State.ringPut_keeps (s : State) (fn e) : Keeps s (State.ringPut s fn e) := by
  unfold Keeps State.ringPut
  dsimp only
  (repeat' split) <;> simp

@[simp] theorem execEventRingWrite_keeps (s : State) (s0 : State) : Keeps s (reached (execEventRingWrite s) s0) := by
  unfold Keeps
  unfold execEventRingWrite
  split
  · simp [reached]
  · split
    · simp [reached]
    · dsimp only [reached]
      split <;> simp

@[simp] theorem State.sendHeld_keeps (s : State) (m) : Keeps s (State.sendHeld s m) := by
  unfold Keeps State.sendHeld
  simp

@[simp] theorem State.deliver_keeps (s : State) (n) : Keeps s (State.deliver s n) := by
  unfold Keeps State.deliver
  dsimp only
  (repeat' split) <;> simp

@[simp] theorem execDeliveryDecision_keeps (s : State) (s0 : State) :
    Keeps s (reached (execDeliveryDecision s) s0) := by
  unfold Keeps execDeliveryDecision reached
  dsimp only
  (repeat' split) <;> simp

@[simp] theorem State.eoi_keeps (s : State) (n) : Keeps s (State.eoi s n) := by
  unfold Keeps State.eoi
  simp

@[simp] theorem execSdgEoi_keeps (value) (s : State) (s0 : State) : Keeps s (reached (execSdgEoi value s) s0) := by
  unfold Keeps execSdgEoi reached
  simp

@[simp] theorem execSdgVfEvrEoi_keeps (fn) (s : State) (s0 : State) :
    Keeps s (reached (execSdgVfEvrEoi fn s) s0) := by
  unfold Keeps execSdgVfEvrEoi reached
  dsimp only
  (repeat' split) <;> simp

@[simp] theorem execSdgVfEvrHead_keeps (fn value) (s : State) (s0 : State) :
    Keeps s (reached (execSdgVfEvrHead fn value s) s0) := by
  unfold Keeps execSdgVfEvrHead reached
  dsimp only
  (repeat' split) <;> simp

@[simp] theorem State.ringCfg_keeps (s : State) (fn cfg e) : Keeps s (State.ringCfg s fn cfg e) := by
  unfold Keeps State.ringCfg
  dsimp only
  repeat' split
  all_goals simp

@[simp] theorem execEventRingEnable_keeps (fn cfg) (s : State) (s0 : State) :
    Keeps s (reached (execEventRingEnable fn cfg s) s0) := by
  unfold Keeps execEventRingEnable reached
  dsimp only
  (repeat' split) <;> simp

@[simp] theorem execEventRingDisable_keeps (fn cfg) (s : State) (s0 : State) :
    Keeps s (reached (execEventRingDisable fn cfg s) s0) := by
  unfold Keeps execEventRingDisable reached
  simp

@[simp] theorem execGdisWrite_keeps (value) (s : State) (s0 : State) :
    Keeps s (reached (execGdisWrite value s) s0) := by
  unfold Keeps execGdisWrite reached
  simp

@[simp] theorem execSrcCfgWrite_keeps (n value) (s : State) (s0 : State) :
    Keeps s (reached (execSrcCfgWrite n value s) s0) := by
  unfold Keeps execSrcCfgWrite reached
  simp

@[simp] theorem execSdgClear_keeps (s : State) (s0 : State) : Keeps s (reached (execSdgClear s) s0) := by
  unfold Keeps execSdgClear reached
  simp

@[simp] theorem State.fireHeld_keeps (s : State) (q ps) : Keeps s (State.fireHeld s q ps) := by
  unfold Keeps State.fireHeld
  simp

@[simp] theorem execCollectorAccept_keeps (q posts) (s : State) (s0 : State) :
    Keeps s (reached (execCollectorAccept q posts s) s0) := by
  unfold Keeps execCollectorAccept reached
  simp

@[simp] theorem execCcCountersClear_keeps (q) (s : State) (s0 : State) :
    Keeps s (reached (execCcCountersClear q s) s0) := by
  unfold Keeps execCcCountersClear reached
  simp

/-! ### Queues -/

@[simp] theorem State.queueError_keeps (s : State) (fn q err) : Keeps s (State.queueError s fn q err) := by
  unfold Keeps State.queueError
  simp

@[simp] theorem State.drainQueue_keeps (s : State) (fn q) : Keeps s (State.drainQueue s fn q) := by
  unfold Keeps State.drainQueue
  simp

@[simp] theorem execSqDoorbell_keeps (fn q value) (s : State) (s0 : State) :
    Keeps s (reached (execSqDoorbell fn q value s) s0) := by
  unfold Keeps execSqDoorbell reached
  dsimp only
  (repeat' split) <;> simp

@[simp] theorem execCqDoorbell_keeps (fn q value) (s : State) (s0 : State) :
    Keeps s (reached (execCqDoorbell fn q value s) s0) := by
  unfold Keeps execCqDoorbell reached
  simp

@[simp] theorem execQueueEnable_keeps (fn q cfg) (s : State) (s0 : State) :
    Keeps s (reached (execQueueEnable fn q cfg s) s0) := by
  unfold Keeps execQueueEnable reached
  simp

@[simp] theorem execQueueDisable_keeps (fn q cfg) (s : State) (s0 : State) :
    Keeps s (reached (execQueueDisable fn q cfg s) s0) := by
  unfold Keeps execQueueDisable reached
  dsimp only
  (repeat' split) <;> simp

@[simp] theorem execDescriptorFetch_keeps (fn q) (s : State) (s0 : State) :
    Keeps s (reached (execDescriptorFetch fn q s) s0) := by
  unfold Keeps execDescriptorFetch reached
  dsimp only
  (repeat' split) <;> simp

@[simp] theorem State.writeOutput_keeps (s : State) (c i r) : Keeps s (State.writeOutput s c i r) := by
  unfold Keeps State.writeOutput
  simp

@[simp] theorem State.writeRows_keeps (s : State) (c) : Keeps s (State.writeRows s c).1 := by
  unfold Keeps State.writeRows
  simp

@[simp] theorem State.dropCmd_keeps (s : State) (c) : Keeps s (State.dropCmd s c) := by
  unfold Keeps State.dropCmd
  simp

@[simp] theorem execCommandComplete_keeps (j) (s : State) (s0 : State) :
    Keeps s (reached (execCommandComplete j s) s0) := by
  unfold Keeps execCommandComplete reached
  dsimp only
  (repeat' split) <;> simp


end Sys2Proof.Machine
end

