-- ==== Sys2Proof/Laws/KeepsTrain.lean ====
section
/-! SUPPORT. What the operations and commands of training, the seeding kernel and the runs keep. -/

namespace Sys2Proof.Machine

/-! ### Commit -/

@[simp] theorem State.modBinding_keeps (s : State) (b f) : Keeps s (State.modBinding s b f) := by
  unfold Keeps State.modBinding
  simp

@[simp] theorem State.queueMsg_keeps (s : State) (b cls ms) : Keeps s (State.queueMsg s b cls ms) := by
  unfold Keeps State.queueMsg
  simp

@[simp] theorem State.sendPeer_keeps (s : State) (p d peer cls m) : Keeps s (State.sendPeer s p d peer cls m) := by
  unfold Keeps State.sendPeer
  (repeat' split) <;> simp_all

@[simp] theorem State.bufMarks_keeps (s : State) (p : Nat) (job : Nat) (lq : Nat) (l : Nat) :
    Keeps s (State.bufMarks s p job lq l) := by
  unfold Keeps State.bufMarks
  try dsimp only
  (repeat' split) <;> simp

@[simp] theorem State.bufWrite_keeps (s : State) (p lq l v) : Keeps s (State.bufWrite s p lq l v) := by
  unfold Keeps State.bufWrite
  dsimp only
  (repeat' split) <;> simp

@[simp] theorem State.listFail_keeps (s : State) (c f) : Keeps s (State.listFail s c f) := by
  unfold Keeps State.listFail
  simp

@[simp] theorem execGabZeroDone_keeps (p slot) (s : State) (s0 : State) :
    Keeps s (reached (execGabZeroDone p slot s) s0) := by
  unfold Keeps execGabZeroDone reached
  simp

@[simp] theorem State.planeMarks_keeps (s : State) (job : Nat) (h : Nat) (i : Nat) (copy : Nat) (isB : Bool) :
    Keeps s (State.planeMarks s job h i copy isB) := by
  unfold Keeps State.planeMarks
  try dsimp only
  simp

@[simp] theorem State.writePlanes_keeps (s : State) (h : ℕ) (i copy isB x) :
    Keeps s (State.writePlanes s h i copy isB x) := by
  unfold Keeps State.writePlanes
  simp

@[simp] theorem State.modUpu_keeps (s : State) (q f) : Keeps s (State.modUpu s q f) := by
  unfold Keeps State.modUpu
  simp

@[simp] theorem State.updPart_keeps (s : State) (p t cm acc g) : Keeps s (State.updPart s p t cm acc g).1 := by
  unfold Keeps State.updPart
  simp

@[simp] theorem State.updMarks_keeps (s : State) (p : Nat) (t : TrSlot) (cm : Commit) (g : GabPart) :
    Keeps s (State.updMarks s p t cm g) := by
  unfold Keeps State.updMarks
  try dsimp only
  (repeat' split) <;> simp

@[simp] theorem State.upuBusy_keeps (s : State) (q) : Keeps s (State.upuBusy s q) := by
  unfold Keeps State.upuBusy
  simp

@[simp] theorem State.sendCommit_keeps (s : State) (p d peer typ m) :
    Keeps s (State.sendCommit s p d peer typ m) := by
  unfold Keeps State.sendCommit
  simp

@[simp] theorem State.clearSlot_keeps (s : State) (p k) : Keeps s (State.clearSlot s p k) := by
  unfold Keeps State.clearSlot
  simp

@[simp] theorem State.dropHeld_keeps (s : State) (p k) : Keeps s (State.dropHeld s p k) := by
  unfold Keeps State.dropHeld
  simp

@[simp] theorem State.commitPoint_keeps (s : State) (p k) : Keeps s (State.commitPoint s p k) := by
  unfold Keeps State.commitPoint
  simp

@[simp] theorem State.commitNow_keeps (s : State) (p k) : Keeps s (State.commitNow s p k) := by
  unfold Keeps State.commitNow
  dsimp only
  (repeat' split) <;> simp

@[simp] theorem State.commitOrWait_keeps (s : State) (p k) : Keeps s (State.commitOrWait s p k) := by
  unfold Keeps State.commitOrWait
  simp

@[simp] theorem State.tryDecide_keeps (s : State) (p k) : Keeps s (State.tryDecide s p k) := by
  unfold Keeps State.tryDecide
  (repeat' split) <;> simp_all

@[simp] theorem State.rollBack_keeps (s : State) (p k cause status) :
    Keeps s (State.rollBack s p k cause status) := by
  unfold Keeps State.rollBack
  dsimp only
  (repeat' split) <;> simp

@[simp] theorem State.commitStepSlot_pending (s : State) (c : Cmd) (k : State → ℕ → State) (hk : ∀ s n, (k s n).pending = s.pending) :
    (State.commitStepSlot s c k).pending = s.pending := by
  unfold State.commitStepSlot
  simp_all

@[simp] theorem State.commitStepSlot_lc (s : State) (c : Cmd) (k : State → ℕ → State) (hk : ∀ s n, (k s n).lc = s.lc) :
    (State.commitStepSlot s c k).lc = s.lc := by
  unfold State.commitStepSlot
  simp_all

@[simp] theorem State.commitStepSlot_fuses (s : State) (c : Cmd) (k : State → ℕ → State) (hk : ∀ s n, (k s n).fuses = s.fuses) :
    (State.commitStepSlot s c k).fuses = s.fuses := by
  unfold State.commitStepSlot
  simp_all

@[simp] theorem State.commitStepSlot_tri_lcBusy (s : State) (c : Cmd) (k : State → ℕ → State) (hk : ∀ s n, (k s n).tri.lcBusy = s.tri.lcBusy) :
    (State.commitStepSlot s c k).tri.lcBusy = s.tri.lcBusy := by
  unfold State.commitStepSlot
  simp_all

@[simp] theorem State.commitStepSlot_tri_lcTarget (s : State) (c : Cmd) (k : State → ℕ → State) (hk : ∀ s n, (k s n).tri.lcTarget = s.tri.lcTarget) :
    (State.commitStepSlot s c k).tri.lcTarget = s.tri.lcTarget := by
  unfold State.commitStepSlot
  simp_all

@[simp] theorem execCommitStepCommit_keeps (j) (s : State) (s0 : State) :
    Keeps s (reached (execCommitStepCommit j s) s0) := by
  unfold Keeps execCommitStepCommit reached
  dsimp only
  (repeat' split) <;> simp

@[simp] theorem State.sendParts_keeps (s : State) (p t cm) : Keeps s (State.sendParts s p t cm) := by
  unfold Keeps
  unfold State.sendParts
  refine ⟨foldl_eq_pending _ _ _ ?_, foldl_eq_lc _ _ _ ?_, foldl_eq_fuses _ _ _ ?_, foldl_eq_tri_lcBusy _ _ _ ?_, foldl_eq_tri_lcTarget _ _ _ ?_⟩ <;> (intro s x t ht; (try dsimp only at ht); (repeat' split at ht) <;> (subst ht; simp))

@[simp] theorem State.partsMarks_keeps (s : State) (p t cm) : Keeps s (State.partsMarks s p t cm) := by
  unfold Keeps
  unfold State.partsMarks
  refine ⟨foldl_eq_pending _ _ _ ?_, foldl_eq_lc _ _ _ ?_, foldl_eq_fuses _ _ _ ?_, foldl_eq_tri_lcBusy _ _ _ ?_, foldl_eq_tri_lcTarget _ _ _ ?_⟩ <;> (intro s x t ht; (repeat' split at ht) <;> (subst ht; simp))

@[simp] theorem State.beginAttempt_keeps (s : State) (p k t cm) : Keeps s (State.beginAttempt s p k t cm) := by
  unfold Keeps State.beginAttempt
  (repeat' split) <;> simp

@[simp] theorem State.refuseGroup_keeps (s : State) (c ms) : Keeps s (State.refuseGroup s c ms) := by
  unfold Keeps State.refuseGroup
  dsimp only
  split
  · simp
  · split
    · simp
    · split
      · simp only [State.modSlot_keeps]
        refine ⟨foldl_eq_pending _ _ _ ?_, foldl_eq_lc _ _ _ ?_, foldl_eq_fuses _ _ _ ?_, foldl_eq_tri_lcBusy _ _ _ ?_, foldl_eq_tri_lcTarget _ _ _ ?_⟩ <;> (intro s x t ht; subst ht; simp)
      · simp

@[simp] theorem execCommitStepStart_keeps (j) (s : State) (s0 : State) :
    Keeps s (reached (execCommitStepStart j s) s0) := by
  unfold Keeps execCommitStepStart reached
  dsimp only
  (repeat' split) <;> simp

@[simp] theorem execCommitStepDiscard_keeps (j) (s : State) (s0 : State) :
    Keeps s (reached (execCommitStepDiscard j s) s0) := by
  unfold Keeps
  unfold execCommitStepDiscard reached
  dsimp only
  split
  · simp
  · split
    · simp
    · refine ⟨State.commitStepSlot_pending _ _ _ ?_, State.commitStepSlot_lc _ _ _ ?_, State.commitStepSlot_fuses _ _ _ ?_, State.commitStepSlot_tri_lcBusy _ _ _ ?_, State.commitStepSlot_tri_lcTarget _ _ _ ?_⟩ <;>
        (intro s k; (repeat' split) <;> simp)

@[simp] theorem execResolveCommit_keeps (j) (s : State) (s0 : State) :
    Keeps s (reached (execResolveCommit j s) s0) := by
  unfold Keeps execResolveCommit reached
  dsimp only
  (repeat' split) <;> simp

@[simp] theorem execResolveRollback_keeps (j) (s : State) (s0 : State) :
    Keeps s (reached (execResolveRollback j s) s0) := by
  unfold Keeps execResolveRollback reached
  dsimp only
  (repeat' split) <;> simp

@[simp] theorem State.exchangeDone_keeps (s : State) (p k) : Keeps s (State.exchangeDone s p k) := by
  unfold Keeps State.exchangeDone
  dsimp only
  (repeat' split) <;> simp

@[simp] theorem State.exchDrop_keeps (s : State) (p : Nat) (k : Nat) (line : Nat) :
    Keeps s (State.exchDrop s p k line) := by
  unfold Keeps State.exchDrop
  try dsimp only
  (repeat' split) <;> simp

@[simp] theorem execExchPart_keeps (binding line elems bad) (s : State) (s0 : State) :
    Keeps s (reached (execExchPart binding line elems bad s) s0) := by
  unfold Keeps execExchPart reached
  dsimp only
  (repeat' split) <;> simp

@[simp] theorem execExchangeSumDone_keeps (p slot line) (s : State) (s0 : State) :
    Keeps s (reached (execExchangeSumDone p slot line s) s0) := by
  unfold Keeps execExchangeSumDone reached
  dsimp only
  (repeat' split) <;> simp

@[simp] theorem execExchSum_keeps (binding line elems bad) (s : State) (s0 : State) :
    Keeps s (reached (execExchSum binding line elems bad s) s0) := by
  unfold Keeps execExchSum reached
  dsimp only
  (repeat' split) <;> simp

@[simp] theorem execUpuUpdateStart_keeps (p slot) (s : State) (s0 : State) :
    Keeps s (reached (execUpuUpdateStart p slot s) s0) := by
  unfold Keeps execUpuUpdateStart reached
  dsimp only
  (repeat' split) <;> simp

@[simp] theorem execUpuUpdateDone_keeps (p slot uncorrectable) (s : State) (s0 : State) :
    Keeps s (reached (execUpuUpdateDone p slot uncorrectable s) s0) := by
  unfold Keeps execUpuUpdateDone reached
  dsimp only
  (repeat' split) <;> simp

@[simp] theorem execReady_keeps (p slot m) (s : State) (s0 : State) :
    Keeps s (reached (execReady p slot m s) s0) := by
  unfold Keeps execReady reached
  dsimp only
  (repeat' split) <;> simp

@[simp] theorem execCommit_keeps (p slot m) (s : State) (s0 : State) :
    Keeps s (reached (execCommit p slot m s) s0) := by
  unfold Keeps execCommit reached
  dsimp only
  (repeat' split) <;> simp

@[simp] theorem State.ackEnd_keeps (s : State) (p slot cm) : Keeps s (State.ackEnd s p slot cm) := by
  unfold Keeps State.ackEnd
  simp

@[simp] theorem execAck_keeps (p slot m) (s : State) (s0 : State) : Keeps s (reached (execAck p slot m s) s0) := by
  unfold Keeps execAck reached
  dsimp only
  (repeat' split) <;> simp

@[simp] theorem execAckTimeout_keeps (p slot) (s : State) (s0 : State) :
    Keeps s (reached (execAckTimeout p slot s) s0) := by
  unfold Keeps execAckTimeout reached
  dsimp only
  (repeat' split) <;> simp

@[simp] theorem execRollbackVote_keeps (p slot m) (s : State) (s0 : State) :
    Keeps s (reached (execRollbackVote p slot m s) s0) := by
  unfold Keeps execRollbackVote reached
  dsimp only
  (repeat' split) <;> simp

@[simp] theorem execRollback_keeps (p slot m) (s : State) (s0 : State) :
    Keeps s (reached (execRollback p slot m s) s0) := by
  unfold Keeps execRollback reached
  dsimp only
  (repeat' split) <;> simp

@[simp] theorem execQuery_keeps (p slot m) (s : State) (s0 : State) :
    Keeps s (reached (execQuery p slot m s) s0) := by
  unfold Keeps execQuery reached
  dsimp only
  (repeat' split) <;> simp

@[simp] theorem execUnknown_keeps (_p _slot _m) (s : State) (s0 : State) :
    Keeps s (reached (execUnknown _p _slot _m s) s0) := by
  unfold Keeps execUnknown reached
  simp

@[simp] theorem execCommitQueryTimer_keeps (p slot) (s : State) (s0 : State) :
    Keeps s (reached (execCommitQueryTimer p slot s) s0) := by
  unfold Keeps execCommitQueryTimer reached
  dsimp only
  (repeat' split) <;> simp

@[simp] theorem execCommitTimeout_keeps (p slot) (s : State) (s0 : State) :
    Keeps s (reached (execCommitTimeout p slot s) s0) := by
  unfold Keeps execCommitTimeout reached
  dsimp only
  (repeat' split) <;> simp

@[simp] theorem execExchangePartTimeout_keeps (p slot) (s : State) (s0 : State) :
    Keeps s (reached (execExchangePartTimeout p slot s) s0) := by
  unfold Keeps execExchangePartTimeout reached
  dsimp only
  (repeat' split) <;> simp

@[simp] theorem execInDoubtTimeout_keeps (p slot) (s : State) (s0 : State) :
    Keeps s (reached (execInDoubtTimeout p slot s) s0) := by
  unfold Keeps execInDoubtTimeout reached
  dsimp only
  (repeat' split) <;> simp

@[simp] theorem State.linkLostCommits_keeps (s : State) (peer) : Keeps s (State.linkLostCommits s peer) := by
  unfold Keeps
  unfold State.linkLostCommits
  refine ⟨foldl_eq_pending _ _ _ ?_, foldl_eq_lc _ _ _ ?_, foldl_eq_fuses _ _ _ ?_, foldl_eq_tri_lcBusy _ _ _ ?_, foldl_eq_tri_lcTarget _ _ _ ?_⟩ <;> (intro s x t ht; (try dsimp only at ht); (repeat' split at ht) <;> (subst ht; simp))

@[simp] theorem State.abortCommit_keeps (s : State) (c) : Keeps s (State.abortCommit s c).1 := by
  unfold Keeps State.abortCommit
  dsimp only
  (repeat' split) <;> simp

/-! ### Run -/

@[simp] theorem State.dropBase_keeps (s : State) (p c) : Keeps s (State.dropBase s p c) := by
  unfold Keeps
  unfold State.dropBase
  refine ⟨foldl_eq_pending _ _ _ ?_, foldl_eq_lc _ _ _ ?_, foldl_eq_fuses _ _ _ ?_, foldl_eq_tri_lcBusy _ _ _ ?_, foldl_eq_tri_lcTarget _ _ _ ?_⟩ <;> (intro s x t ht; beta_reduce at ht; rw [← ht]; simp)

@[simp] theorem State.dropCfgStore_keeps (s : State) (p) : Keeps s (State.dropCfgStore s p) := by
  unfold Keeps
  unfold State.dropCfgStore
  refine ⟨foldl_eq_pending _ _ _ ?_, foldl_eq_lc _ _ _ ?_, foldl_eq_fuses _ _ _ ?_, foldl_eq_tri_lcBusy _ _ _ ?_, foldl_eq_tri_lcTarget _ _ _ ?_⟩ <;> (intro s x t ht; beta_reduce at ht; rw [← ht]; simp)

@[simp] theorem State.removeSet_keeps (s : State) (p c) : Keeps s (State.removeSet s p c) := by
  unfold Keeps State.removeSet
  simp

@[simp] theorem State.retireSweep_keeps (s : State) (p) : Keeps s (State.retireSweep s p) := by
  unfold Keeps State.retireSweep
  simp

@[simp] theorem State.dropRecord_keeps (s : State) (p n r) : Keeps s (State.dropRecord s p n r) := by
  unfold Keeps
  unfold State.dropRecord
  split
  · simp
  · refine ⟨foldl_eq_pending _ _ _ ?_, foldl_eq_lc _ _ _ ?_, foldl_eq_fuses _ _ _ ?_, foldl_eq_tri_lcBusy _ _ _ ?_, foldl_eq_tri_lcTarget _ _ _ ?_⟩ <;> (intro s x t ht; beta_reduce at ht; rw [← ht]; simp)

@[simp] theorem State.releaseStash_keeps (s : State) (p k j) : Keeps s (State.releaseStash s p k j) := by
  unfold Keeps State.releaseStash
  simp

@[simp] theorem State.fixJob_keeps (s : State) (j) : Keeps s (State.fixJob s j) := by
  unfold Keeps State.fixJob
  dsimp only
  (repeat' split) <;> simp

@[simp] theorem execCollectorDrain_keeps (q) (s : State) (s0 : State) :
    Keeps s (reached (execCollectorDrain q s) s0) := by
  unfold Keeps
  unfold execCollectorDrain
  split
  · simp [reached]
  · dsimp only [reached]
    split
    · split <;> simp
    · simp

@[simp] theorem State.checkInputs_keeps (s : State) (c input inBytes rows) :
    Keeps s (State.checkInputs s c input inBytes rows).1 := by
  unfold Keeps
  unfold State.checkInputs
  refine ⟨foldl_fst_pending _ _ _ ?_, foldl_fst_lc _ _ _ ?_, foldl_fst_fuses _ _ _ ?_, foldl_fst_tri_lcBusy _ _ _ ?_, foldl_fst_tri_lcTarget _ _ _ ?_⟩ <;>
    (intro a x; (repeat' split) <;> simp)

@[simp] theorem State.takeRefs_keeps (s : State) (refs) : Keeps s (State.takeRefs s refs) := by
  unfold Keeps State.takeRefs
  simp

@[simp] theorem State.resolveJob_pending (s : State) (c : Cmd) (set : CfgSet) (nRows : ℕ) (table : ℕ) (input : ℕ) (inBytes : ℕ) (only : Option (List ℕ)) (k : State → State) (hk : ∀ s, (k s).pending = s.pending) :
    (State.resolveJob s c set nRows table input inBytes only k).pending = s.pending := by
  unfold State.resolveJob
  (repeat' split) <;> simp_all

@[simp] theorem State.resolveJob_lc (s : State) (c : Cmd) (set : CfgSet) (nRows : ℕ) (table : ℕ) (input : ℕ) (inBytes : ℕ) (only : Option (List ℕ)) (k : State → State) (hk : ∀ s, (k s).lc = s.lc) :
    (State.resolveJob s c set nRows table input inBytes only k).lc = s.lc := by
  unfold State.resolveJob
  (repeat' split) <;> simp_all

@[simp] theorem State.resolveJob_fuses (s : State) (c : Cmd) (set : CfgSet) (nRows : ℕ) (table : ℕ) (input : ℕ) (inBytes : ℕ) (only : Option (List ℕ)) (k : State → State) (hk : ∀ s, (k s).fuses = s.fuses) :
    (State.resolveJob s c set nRows table input inBytes only k).fuses = s.fuses := by
  unfold State.resolveJob
  (repeat' split) <;> simp_all

@[simp] theorem State.resolveJob_tri_lcBusy (s : State) (c : Cmd) (set : CfgSet) (nRows : ℕ) (table : ℕ) (input : ℕ) (inBytes : ℕ) (only : Option (List ℕ)) (k : State → State) (hk : ∀ s, (k s).tri.lcBusy = s.tri.lcBusy) :
    (State.resolveJob s c set nRows table input inBytes only k).tri.lcBusy = s.tri.lcBusy := by
  unfold State.resolveJob
  (repeat' split) <;> simp_all

@[simp] theorem State.resolveJob_tri_lcTarget (s : State) (c : Cmd) (set : CfgSet) (nRows : ℕ) (table : ℕ) (input : ℕ) (inBytes : ℕ) (only : Option (List ℕ)) (k : State → State) (hk : ∀ s, (k s).tri.lcTarget = s.tri.lcTarget) :
    (State.resolveJob s c set nRows table input inBytes only k).tri.lcTarget = s.tri.lcTarget := by
  unfold State.resolveJob
  (repeat' split) <;> simp_all

@[simp] theorem execRun_keeps (j) (s : State) (s0 : State) : Keeps s (reached (execRun j s) s0) := by
  unfold Keeps execRun reached
  dsimp only
  (repeat' split) <;> simp

@[simp] theorem execTrainStep_keeps (j) (s : State) (s0 : State) : Keeps s (reached (execTrainStep j s) s0) := by
  unfold Keeps execTrainStep reached
  dsimp only
  (repeat' split) <;> simp

@[simp] theorem State.nextRing_keeps (s : State) (p tl ctx) : Keeps s (State.nextRing s p tl ctx) := by
  unfold Keeps State.nextRing
  (repeat' split) <;> simp

@[simp] theorem execJobDispatch_keeps (j) (s : State) (s0 : State) : Keeps s (reached (execJobDispatch j s) s0) := by
  unfold Keeps execJobDispatch reached
  dsimp only
  (repeat' split) <;> simp

/-! ### Seed -/

@[simp] theorem State.seedSlices_keeps (s : State) (tl : TileId) :
    Keeps s (State.seedSlices s tl) := by
  unfold Keeps State.seedSlices
  try dsimp only
  simp

@[simp] theorem State.seedTensor_keeps (s : State) (c : Cmd) (r : RegWork) (out : SeedOut) :
    Keeps s (State.seedTensor s c r out) := by
  unfold Keeps State.seedTensor
  try dsimp only
  (repeat' split) <;> simp

@[simp] theorem execSeedingKernelDone_keeps (j lay) (s : State) (s0 : State) :
    Keeps s (reached (execSeedingKernelDone j lay s) s0) := by
  unfold Keeps execSeedingKernelDone reached
  dsimp only
  (repeat' split) <;> simp


end Sys2Proof.Machine
end

