-- ==== Sys2Proof/Laws/KeepsBase.lean ====
section
/-! SUPPORT. What the operations and commands of bases, patches, flags and the commands of order keep. -/

namespace Sys2Proof.Machine

/-! ### Base -/

@[simp] theorem State.sigFail_keeps (s : State) : Keeps s (State.sigFail s) := by
  unfold Keeps State.sigFail
  simp

@[simp] theorem State.placeBase_keeps (s : State) (p off) (h : ImgHdr) (m) :
    Keeps s (State.placeBase s p off h m) := by
  unfold Keeps State.placeBase
  simp

theorem State.loadHostBlock_keeps (s : State) (p units ix : Nat) (bs : List Byte) (t : State) (h : s.loadHostBlock p units ix bs = some t) :
    Keeps s t := by
  unfold Keeps
  unfold State.loadHostBlock at h
  split at h
  · simp only [Option.some.injEq] at h; subst h; simp
  · exact State.hostPlace_keeps _ _ _ _ _ _ _ h
@[simp] theorem State.loadPlaced_keeps (s : State) (c f r m off at_ ix) :
    Keeps s (State.loadPlaced s c f r m off at_ ix) := by
  unfold Keeps
  unfold State.loadPlaced
  simp only [State.finish_keeps, State.cfgTable_keeps, State.cfgWrite_keeps, State.modPart_keeps, State.placeBase_keeps, and_self]

@[simp] theorem State.loadAt_keeps (s : State) (c f r m x5 x6 x7) : Keeps s (State.loadAt s c f r m x5 x6 x7) := by
  unfold Keeps
  unfold State.loadAt
  split
  · split
    · simp
    · next h => simpa using State.loadHostBlock_keeps _ _ _ _ _ _ h
  · simp
  · simp

theorem State.loadAt_K (s : State) (c f r m a b d) : Keeps s (s.loadAt c f r m a b d) := State.loadAt_keeps ..
theorem State.loadSet_K (s : State) (c : Cmd) (f : CfgFile) (bs m : List Byte) : Keeps s (s.loadSet c f bs m) := by
  rw [State.loadSet.eq_1]
  exact State.loadAt_K ..
@[simp] theorem State.loadSet_keeps (s : State) (c f bs m) : Keeps s (State.loadSet s c f bs m) := by
  unfold Keeps
  exact State.loadSet_K ..

@[simp] theorem execLoadBase_keeps (j) (s : State) (s0 : State) : Keeps s (reached (execLoadBase j s) s0) := by
  unfold Keeps execLoadBase reached
  dsimp only
  (repeat' split) <;> simp

@[simp] theorem State.satRetire_keeps (s : State) (p n) : Keeps s (State.satRetire s p n) := by
  unfold Keeps State.satRetire
  simp

@[simp] theorem State.retireNow_keeps (s : State) (p n j) : Keeps s (State.retireNow s p n j) := by
  unfold Keeps State.retireNow
  dsimp only
  (repeat' split) <;> simp

@[simp] theorem execRetireBase_keeps (j) (s : State) (s0 : State) : Keeps s (reached (execRetireBase j s) s0) := by
  unfold Keeps execRetireBase reached
  dsimp only
  (repeat' split) <;> simp

@[simp] theorem State.stageBytes_keeps (s : State) (p : Nat) (x : Patch) (bs : List (List Byte)) :
    Keeps s (State.stageBytes s p x bs) := by
  unfold Keeps State.stageBytes
  try dsimp only
  simp

@[simp] theorem State.unstage_keeps (s : State) (p : Nat) (x : Patch) :
    Keeps s (State.unstage s p x) := by
  unfold Keeps State.unstage
  try dsimp only
  simp

@[simp] theorem State.patchNew_keeps (s : State) (p : Nat) (x : Patch) :
    Keeps s (State.patchNew s p x) := by
  unfold Keeps State.patchNew
  try dsimp only
  (repeat' split) <;> simp

@[simp] theorem State.stagePatch_keeps (s : State) (c : Cmd) (n : Nat) (layer : Nat) (dig : Digest) (rs : List (Nat × Nat × List Byte)) :
    Keeps s (State.stagePatch s c n layer dig rs) := by
  unfold Keeps State.stagePatch
  try dsimp only
  (repeat' split) <;> simp

@[simp] theorem execPatchLayer_keeps (j) (s : State) (s0 : State) : Keeps s (reached (execPatchLayer j s) s0) := by
  unfold Keeps execPatchLayer reached
  dsimp only
  (repeat' split) <;> simp

@[simp] theorem State.patchShow_keeps (s : State) (x phase p) : Keeps s (State.patchShow s x phase p) := by
  unfold Keeps State.patchShow
  simp

@[simp] theorem State.modPatch_keeps (s : State) (p f) : Keeps s (State.modPatch s p f) := by
  unfold Keeps State.modPatch
  simp

@[simp] theorem State.requeueHeld_keeps (s : State) (p set layer) : Keeps s (State.requeueHeld s p set layer) := by
  unfold Keeps State.requeueHeld
  simp

@[simp] theorem execPatchPlacement_keeps (p) (s : State) (s0 : State) :
    Keeps s (reached (execPatchPlacement p s) s0) := by
  unfold Keeps execPatchPlacement reached
  dsimp only
  (repeat' split) <;> simp

@[simp] theorem State.markWord_keeps (s : State) (l w) : Keeps s (State.markWord s l w) := by
  unfold Keeps State.markWord
  simp

@[simp] theorem State.patchMark_keeps (s : State) (p x b) : Keeps s (State.patchMark s p x b) := by
  unfold Keeps State.patchMark
  (repeat' split) <;> simp_all

@[simp] theorem State.patchCopy_keeps (s : State) (p x off) : Keeps s (State.patchCopy s p x off) := by
  unfold Keeps
  unfold State.patchCopy
  refine ⟨?_, ?_, ?_, ?_, ?_⟩ <;> simp

@[simp] theorem State.patchRelease_keeps (s : State) (p) : Keeps s (State.patchRelease s p) := by
  unfold Keeps State.patchRelease
  dsimp only
  (repeat' split) <;> simp

@[simp] theorem execPatchCopyDone_keeps (p badWords) (s : State) (s0 : State) :
    Keeps s (reached (execPatchCopyDone p badWords s) s0) := by
  unfold Keeps execPatchCopyDone reached
  dsimp only
  (repeat' split) <;> simp

/-! ### Flags -/

@[simp] theorem State.tileUe_keeps (s : State) (t part job line word) :
    Keeps s (State.tileUe s t part job line word) := by
  unfold Keeps State.tileUe
  simp

@[simp] theorem State.modLine_keeps (s : State) (t : TileId) (line : Nat) (f : Line → Line) :
    Keeps s (State.modLine s t line f) := by
  unfold Keeps State.modLine
  try dsimp only
  simp

@[simp] theorem State.tileUpset_keeps (s : State) (t part job u) : Keeps s (State.tileUpset s t part job u) := by
  unfold Keeps State.tileUpset
  dsimp only
  (repeat' split) <;> simp

@[simp] theorem State.tileUpsets_keeps (s : State) (t part job us) : Keeps s (State.tileUpsets s t part job us) := by
  unfold Keeps State.tileUpsets
  simp

@[simp] theorem State.tileMarks_keeps (s : State) (t part job lines) :
    Keeps s (State.tileMarks s t part job lines) := by
  unfold Keeps State.tileMarks
  simp

@[simp] theorem State.poisonRow_keeps (s : State) (t j x cause) : Keeps s (State.poisonRow s t j x cause) := by
  unfold Keeps State.poisonRow
  dsimp only
  (repeat' split) <;> simp

@[simp] theorem State.failJob_keeps (s : State) (j status detail) : Keeps s (State.failJob s j status detail) := by
  unfold Keeps State.failJob
  simp

@[simp] theorem State.rangeDrop_keeps (s : State) (t j) : Keeps s (State.rangeDrop s t j) := by
  unfold Keeps State.rangeDrop
  dsimp only
  (repeat' split) <;> simp

@[simp] theorem State.collide_keeps (s : State) (t) : Keeps s (State.collide s t) := by
  unfold Keeps State.collide
  simp

@[simp] theorem State.satAdd_keeps (s : State) (q i n) : Keeps s (State.satAdd s q i n) := by
  unfold Keeps State.satAdd
  simp

@[simp] theorem State.satCount_keeps (s : State) (q part cfg n) : Keeps s (State.satCount s q part cfg n) := by
  unfold Keeps State.satCount
  dsimp only
  (repeat' split) <;> simp

@[simp] theorem execSatWindowStart_keeps (q e) (s : State) (s0 : State) :
    Keeps s (reached (execSatWindowStart q e s) s0) := by
  unfold Keeps execSatWindowStart reached
  simp

@[simp] theorem execSatEntryFree_keeps (q e value) (s : State) (s0 : State) :
    Keeps s (reached (execSatEntryFree q e value s) s0) := by
  unfold Keeps execSatEntryFree reached
  simp

/-! ### Order -/

@[simp] theorem State.leaveTile_keeps (s : State) (p : Nat) (tl : TileId) (ctx : Nat) (j : JobRef) :
    Keeps s (State.leaveTile s p tl ctx j) := by
  unfold Keeps State.leaveTile
  try dsimp only
  simp

@[simp] theorem State.leaveIdle_keeps (s : State) (c : Cmd) :
    Keeps s (State.leaveIdle s c) := by
  unfold Keeps State.leaveIdle
  try dsimp only
  simp

@[simp] theorem State.abortJob_keeps (s : State) (c) : Keeps s (State.abortJob s c) := by
  unfold Keeps State.abortJob
  simp

@[simp] theorem State.abortEvict_keeps (s : State) (c) : Keeps s (State.abortEvict s c).1 := by
  unfold Keeps State.abortEvict
  simp

@[simp] theorem State.abortBind_keeps (s : State) (c) : Keeps s (State.abortBind s c).1 := by
  unfold Keeps State.abortBind
  simp

@[simp] theorem State.abortPatch_keeps (s : State) (c) : Keeps s (State.abortPatch s c).1 := by
  unfold Keeps State.abortPatch
  dsimp only
  (repeat' split) <;> simp

@[simp] theorem State.abortRetire_keeps (s : State) (c) : Keeps s (State.abortRetire s c).1 := by
  unfold Keeps State.abortRetire
  simp

@[simp] theorem State.abortTarget_keeps (s : State) (c) : Keeps s (State.abortTarget s c).1 := by
  unfold Keeps State.abortTarget
  simp

@[simp] theorem State.abortLate_keeps (s : State) (j) : Keeps s (State.abortLate s j) := by
  unfold Keeps State.abortLate
  simp

@[simp] theorem execAbort_keeps (j) (s : State) (s0 : State) : Keeps s (reached (execAbort j s) s0) := by
  unfold Keeps execAbort reached
  dsimp only
  (repeat' split) <;> simp

@[simp] theorem execFence_keeps (j) (s : State) (s0 : State) : Keeps s (reached (execFence j s) s0) := by
  unfold Keeps execFence reached
  dsimp only
  (repeat' split) <;> simp

@[simp] theorem execScrubContext_keeps (j) (s : State) (s0 : State) :
    Keeps s (reached (execScrubContext j s) s0) := by
  unfold Keeps execScrubContext reached
  dsimp only
  (repeat' split) <;> simp

@[simp] theorem execScrubAlloc_keeps (j) (s : State) (s0 : State) : Keeps s (reached (execScrubAlloc j s) s0) := by
  unfold Keeps execScrubAlloc reached
  dsimp only
  (repeat' split) <;> simp

@[simp] theorem execScrubFree_keeps (j) (s : State) (s0 : State) : Keeps s (reached (execScrubFree j s) s0) := by
  unfold Keeps execScrubFree reached
  dsimp only
  (repeat' split) <;> simp

@[simp] theorem State.answerQuery_keeps (s : State) (c bs) : Keeps s (State.answerQuery s c bs) := by
  unfold Keeps State.answerQuery
  simp

@[simp] theorem execQuerySeed_keeps (j) (s : State) (s0 : State) : Keeps s (reached (execQuerySeed j s) s0) := by
  unfold Keeps execQuerySeed reached
  dsimp only
  (repeat' split) <;> simp

@[simp] theorem execQueryHandle_keeps (j) (s : State) (s0 : State) : Keeps s (reached (execQueryHandle j s) s0) := by
  unfold Keeps execQueryHandle reached
  dsimp only
  (repeat' split) <;> simp

@[simp] theorem execQueryPartition_keeps (j) (s : State) (s0 : State) :
    Keeps s (reached (execQueryPartition j s) s0) := by
  unfold Keeps execQueryPartition reached
  dsimp only
  (repeat' split) <;> simp


end Sys2Proof.Machine
end

