-- ==== Sys2Proof/Laws/KeepsTile.lean ====
section
/-! SUPPORT. What the operations and commands of slices, tile memory and MULE keep. -/

namespace Sys2Proof.Machine

/-! ### Slice -/

@[simp] theorem execSlotFillStart_keeps (tl set id) (s : State) (s0 : State) :
    Keeps s (reached (execSlotFillStart tl set id s) s0) := by
  unfold Keeps execSlotFillStart reached
  dsimp only
  (repeat' split) <;> simp

@[simp] theorem execSlotFillDone_keeps (tl) (s : State) (s0 : State) :
    Keeps s (reached (execSlotFillDone tl s) s0) := by
  unfold Keeps execSlotFillDone reached
  dsimp only
  (repeat' split) <;> simp

@[simp] theorem State.tregUpset_keeps (s : State) (p tl job u) : Keeps s (State.tregUpset s p tl job u) := by
  show Kept s _
  unfold State.tregUpset
  refine Kept.ite _ (Kept.refl s) ?_
  extract_lets e ent put
  split
  · exact State.modTile_keeps _ _ _
  · exact Kept.trans (State.modTile_keeps s tl _) (State.noteCe_keeps _ _ _ _)
  · exact State.noteUe_keeps _ _ _ _ _ _

@[simp] theorem State.poisonRows_keeps (s : State) (tl run o bad) : Keeps s (State.poisonRows s tl run o bad) := by
  unfold Keeps
  unfold State.poisonRows
  refine ⟨foldl_eq_pending _ _ _ ?_, foldl_eq_lc _ _ _ ?_, foldl_eq_fuses _ _ _ ?_, foldl_eq_tri_lcBusy _ _ _ ?_, foldl_eq_tri_lcTarget _ _ _ ?_⟩ <;> (intro s x t ht; (repeat' split at ht) <;> (subst ht; simp))

@[simp] theorem State.beginRun_keeps (s : State) (p tl run) : Keeps s (State.beginRun s p tl run) := by
  unfold Keeps State.beginRun
  dsimp only
  (repeat' split) <;> simp

@[simp] theorem State.countWaits_keeps (s : State) (tl : TileId) (idle : Nat) (fillWait : Nat) :
    Keeps s (State.countWaits s tl idle fillWait) := by
  unfold Keeps State.countWaits
  try dsimp only
  simp

@[simp] theorem execSliceStart_keeps (tl : TileId) (lay : SliceLayout) (idle : Nat) (fillWait : Nat) (upsets : List Upset) (s : State) (s0 : State) :
    Keeps s (reached (execSliceStart tl lay idle fillWait upsets s) s0) := by
  unfold Keeps execSliceStart reached
  try dsimp only
  (repeat' split) <;> simp

@[simp] theorem execSlotSwitchDone_keeps (tl) (s : State) (s0 : State) :
    Keeps s (reached (execSlotSwitchDone tl s) s0) := by
  unfold Keeps execSlotSwitchDone reached
  dsimp only
  (repeat' split) <;> simp

@[simp] theorem State.runSlice_keeps (s : State) (p tl run o) : Keeps s (State.runSlice s p tl run o) := by
  unfold Keeps State.runSlice
  simp

@[simp] theorem State.takeOutput_keeps (s : State) (tl run o shares mv) :
    Keeps s (State.takeOutput s tl run o shares mv) := by
  unfold Keeps State.takeOutput
  dsimp only
  (repeat' split) <;> simp

@[simp] theorem State.takeOutputs_keeps (s : State) (p tl run o) : Keeps s (State.takeOutputs s p tl run o) := by
  unfold Keeps State.takeOutputs
  simp

@[simp] theorem State.offerPost_keeps (s : State) (q x) : Keeps s (State.offerPost s q x) := by
  unfold Keeps State.offerPost
  simp

@[simp] theorem State.postJob_keeps (s : State) (p tl ctx j) : Keeps s (State.postJob s p tl ctx j) := by
  unfold Keeps State.postJob
  simp

@[simp] theorem State.advanceJob_keeps (s : State) (p tl run o tj) : Keeps s (State.advanceJob s p tl run o tj) := by
  unfold Keeps State.advanceJob
  dsimp only
  (repeat' split) <;> simp

@[simp] theorem State.dropAborted_keeps (s : State) (p tl) : Keeps s (State.dropAborted s p tl) := by
  unfold Keeps State.dropAborted
  simp

@[simp] theorem State.refillOne_keeps (s : State) (p tl live n) : Keeps s (State.refillOne s p tl live n) := by
  unfold Keeps State.refillOne
  (repeat' split) <;> simp

@[simp] theorem State.refillLive_keeps (s : State) (p tl live) : Keeps s (State.refillLive s p tl live) := by
  unfold Keeps State.refillLive
  simp

@[simp] theorem execContextRestoreDone_keeps (p) (s : State) (s0 : State) :
    Keeps s (reached (execContextRestoreDone p s) s0) := by
  unfold Keeps execContextRestoreDone reached
  dsimp only
  (repeat' split) <;> simp

@[simp] theorem State.scrubDomain_keeps (s : State) (p tl d) : Keeps s (State.scrubDomain s p tl d) := by
  unfold Keeps State.scrubDomain
  simp

@[simp] theorem State.clearClosed_keeps (s : State) (p tl) : Keeps s (State.clearClosed s p tl) := by
  unfold Keeps State.clearClosed
  simp

@[simp] theorem execSliceBoundary_keeps (tl) (s : State) (s0 : State) :
    Keeps s (reached (execSliceBoundary tl s) s0) := by
  unfold Keeps execSliceBoundary reached
  dsimp only
  (repeat' split) <;> simp

/-! ### TileMem -/

@[simp] theorem State.atomicMarks_keeps (s : State) (tl : TileId) (part : Nat) (line : Nat) (mask : Nat) :
    Keeps s (State.atomicMarks s tl part line mask) := by
  unfold Keeps State.atomicMarks
  try dsimp only
  simp

@[simp] theorem State.bankDo_keeps (s : State) (tl : TileId) (w : LostWrite) :
    Keeps s (State.bankDo s tl w) := by
  unfold Keeps State.bankDo
  try dsimp only
  (repeat' split) <;> simp

@[simp] theorem execBankAtomic_keeps (tl port req upsets) (s : State) (s0 : State) :
    Keeps s (reached (execBankAtomic tl port req upsets s) s0) := by
  unfold Keeps execBankAtomic reached
  dsimp only
  (repeat' split) <;> simp

@[simp] theorem execCollideRetry_keeps (tl : TileId) (port : Nat) (lose : Bool) (s : State) (s0 : State) :
    Keeps s (reached (execCollideRetry tl port lose s) s0) := by
  unfold Keeps execCollideRetry reached
  try dsimp only
  (repeat' split) <;> simp

@[simp] theorem State.wayAtomic_keeps (s : State) (q key op mask data) :
    Keeps s (State.wayAtomic s q key op mask data) := by
  unfold Keeps State.wayAtomic
  simp

@[simp] theorem State.sendAdd_keeps (s : State) (p : Nat) (tl : TileId) (ctx : Nat) (j : JobRef) (x : StagedLine) :
    Keeps s (State.sendAdd s p tl ctx j x) := by
  unfold Keeps State.sendAdd
  try dsimp only
  (repeat' split) <;> simp

@[simp] theorem State.sendLine_keeps (s : State) (p tl ctx route j x) :
    Keeps s (State.sendLine s p tl ctx route j x) := by
  unfold Keeps State.sendLine
  dsimp only
  (repeat' split) <;> simp

@[simp] theorem execStagedOutputSent_keeps (tl ctx) (s : State) (s0 : State) :
    Keeps s (reached (execStagedOutputSent tl ctx s) s0) := by
  unfold Keeps execStagedOutputSent reached
  dsimp only
  (repeat' split) <;> simp

@[simp] theorem State.modPQuad_keeps (s : State) (p lq f) : Keeps s (State.modPQuad s p lq f) := by
  unfold Keeps State.modPQuad
  simp

@[simp] theorem State.cacheCount_keeps (s : State) (q : Nat) (hit : Bool) :
    Keeps s (State.cacheCount s q hit) := by
  unfold Keeps State.cacheCount
  try dsimp only
  simp

@[simp] theorem State.cacheFill_keeps (s : State) (p : Nat) (lq : Nat) (l : LineLoc) (write : Bool) (body : Line) :
    Keeps s (State.cacheFill s p lq l write body) := by
  unfold Keeps State.cacheFill
  dsimp only
  (repeat' split) <;> simp

@[simp] theorem State.cacheUpset_keeps (a : State × Line) (q : Nat) (part : Nat) (job : Nat) (loc : Nat) (u : Upset) :
    Keeps a.1 ((State.cacheUpset a q part job loc u).1) := by
  unfold Keeps State.cacheUpset
  try dsimp only
  (repeat' split) <;> simp

@[simp] theorem State.cacheRead_keeps (s : State) (p : Nat) (lq : Nat) (region : Nat) (l : LineLoc) (job : Nat) (us : List Upset) :
    Keeps s ((State.cacheRead s p lq region l job us).1) := by
  unfold Keeps State.cacheRead
  try dsimp only
  (repeat' split) <;> simp

@[simp] theorem State.cacheWrite_keeps (s : State) (p : Nat) (lq : Nat) (region : Nat) (l : LineLoc) (v : StackLine) :
    Keeps s (State.cacheWrite s p lq region l v) := by
  unfold Keeps State.cacheWrite
  try dsimp only
  (repeat' split) <;> simp

@[simp] theorem State.gatherRange_keeps (a : State × List (Byte × Bool) × Nat) (p : Nat) (lq : Nat) (job : Nat) (off : Nat) (len : Nat) (us : List Upset) :
    Keeps a.1 ((State.gatherRange a p lq job off len us).1) :=
  Kept.foldl_fst _ _ (a.1, [], a.2.2) (fun a i => by unfold Kept Keeps; (repeat' split) <;> simp)

@[simp] theorem execSegmentGatherDone_keeps (tl : TileId) (ctx : Nat) (word : Nat) (tensor : Nat) (col : Nat) (len : Nat) (upsets : List Upset) (s : State) (s0 : State) :
    Keeps s (reached (execSegmentGatherDone tl ctx word tensor col len upsets s) s0) := by
  unfold Keeps execSegmentGatherDone reached
  try dsimp only
  (repeat' split) <;> simp

@[simp] theorem State.returnLine_keeps (s : State) (tl ret l) : Keeps s (State.returnLine s tl ret l) := by
  unfold Keeps State.returnLine
  dsimp only
  (repeat' split) <;> simp

@[simp] theorem State.modWay_keeps (s : State) (q : Nat) (key : Nat) (f : Line → Line) :
    Keeps s (State.modWay s q key f) := by
  unfold Keeps State.modWay
  try dsimp only
  simp

@[simp] theorem State.wayMarks_keeps (s : State) (q : Nat) (part : Nat) (line : Nat) (key : Nat) (job : Nat) (mask : Nat) :
    Keeps s (State.wayMarks s q part line key job mask) := by
  unfold Keeps State.wayMarks
  try dsimp only
  simp

@[simp] theorem State.wayUpset_keeps (s : State) (q part way line job u) :
    Keeps s (State.wayUpset s q part way line job u) := by
  unfold Keeps State.wayUpset
  dsimp only
  (repeat' split) <;> simp

@[simp] theorem State.wayUpsets_keeps (s : State) (q part way line job us) :
    Keeps s (State.wayUpsets s q part way line job us) := by
  unfold Keeps State.wayUpsets
  simp

@[simp] theorem execQbWayRequest_keeps (q way part fromTile req upsets) (s : State) (s0 : State) :
    Keeps s (reached (execQbWayRequest q way part fromTile req upsets s) s0) := by
  unfold Keeps execQbWayRequest reached
  dsimp only
  (repeat' split) <;> simp

@[simp] theorem State.reqFail_keeps (s : State) (req status detail) :
    Keeps s (State.reqFail s req status detail) := by
  unfold Keeps State.reqFail
  (repeat' split) <;> simp_all

@[simp] theorem State.pageRefuse_keeps (s : State) (part : Nat) (job : Option JobRef) (row : Option Nat) (l : LineLoc) :
    Keeps s (State.pageRefuse s part job row l) := by
  unfold Keeps State.pageRefuse
  try dsimp only
  (repeat' split) <;> simp

@[simp] theorem State.pageStore_keeps (s : State) (req : StackReq) (l : LineLoc) (kind : LineKind) (v : StackLine) :
    Keeps s (State.pageStore s req l kind v) := by
  unfold Keeps State.pageStore
  try dsimp only
  (repeat' split) <;> simp

@[simp] theorem State.stackAtomic_keeps (s : State) (req : StackReq) (l : LineLoc) (op : Nat) :
    Keeps s (State.stackAtomic s req l op) := by
  unfold Keeps State.stackAtomic
  try dsimp only
  (repeat' split) <;> simp

@[simp] theorem execStackRequest_keeps (stack req) (s : State) (s0 : State) :
    Keeps s (reached (execStackRequest stack req s) s0) := by
  unfold Keeps execStackRequest reached
  dsimp only
  (repeat' split) <;> simp

@[simp] theorem State.cacheDrop_keeps (s : State) (k : Nat) (pch : Nat) (page : Nat) :
    Keeps s (State.cacheDrop s k pch page) := by
  unfold Keeps State.cacheDrop
  try dsimp only
  simp

@[simp] theorem State.zeroPage_keeps (s : State) (k pch page) : Keeps s (State.zeroPage s k pch page) := by
  unfold Keeps State.zeroPage
  simp

@[simp] theorem execPageZeroFillDone_keeps (stack pch page) (s : State) (s0 : State) :
    Keeps s (reached (execPageZeroFillDone stack pch page s) s0) := by
  unfold Keeps execPageZeroFillDone reached
  dsimp only
  (repeat' split) <;> simp

@[simp] theorem execPatrolScrubLine_keeps (stack pch line upsets) (s : State) (s0 : State) :
    Keeps s (reached (execPatrolScrubLine stack pch line upsets s) s0) := by
  unfold Keeps execPatrolScrubLine reached
  simp

@[simp] theorem execBankZeroFillDone_keeps (tl bank) (s : State) (s0 : State) :
    Keeps s (reached (execBankZeroFillDone tl bank s) s0) := by
  unfold Keeps execBankZeroFillDone reached
  simp

@[simp] theorem execScrubDone_keeps (tl ways) (s : State) (s0 : State) :
    Keeps s (reached (execScrubDone tl ways s) s0) := by
  unfold Keeps execScrubDone reached
  simp

@[simp] theorem execVxuTestEnter_keeps (tl) (s : State) (s0 : State) :
    Keeps s (reached (execVxuTestEnter tl s) s0) := by
  unfold Keeps execVxuTestEnter reached
  simp

@[simp] theorem execVxuTestExit_keeps (tl) (s : State) (s0 : State) :
    Keeps s (reached (execVxuTestExit tl s) s0) := by
  unfold Keeps execVxuTestExit reached
  simp

@[simp] theorem execVxuTestGo_keeps (tl) (s : State) (s0 : State) : Keeps s (reached (execVxuTestGo tl s) s0) := by
  unfold Keeps execVxuTestGo reached
  simp

@[simp] theorem execVxuTestDone_keeps (tl) (s : State) (s0 : State) :
    Keeps s (reached (execVxuTestDone tl s) s0) := by
  unfold Keeps execVxuTestDone reached
  simp

/-! ### Mule -/

@[simp] theorem State.stackFill_keeps (s : State) (p lq job off us) :
    Keeps s (State.stackFill s p lq job off us).1 := by
  unfold Keeps State.stackFill
  (repeat' split) <;> simp

@[simp] theorem State.modRings_keeps (s : State) (tl : TileId) (ctx : Nat) (j : JobRef) (f : Ring → Ring) :
    Keeps s (State.modRings s tl ctx j f) := by
  unfold Keeps State.modRings
  simp

@[simp] theorem State.askPeer_keeps (s : State) (g) : Keeps s (State.askPeer s g) := by
  unfold Keeps State.askPeer
  (repeat' split) <;> simp_all

@[simp] theorem State.stopJob_keeps (s : State) (j status detail) : Keeps s (State.stopJob s j status detail) := by
  unfold Keeps State.stopJob
  dsimp only
  (repeat' split) <;> simp

@[simp] theorem State.gatherFail_keeps (s : State) (g) : Keeps s (State.gatherFail s g) := by
  unfold Keeps State.gatherFail
  simp

@[simp] theorem State.linkLostGathers_keeps (s : State) (peer) : Keeps s (State.linkLostGathers s peer) := by
  unfold Keeps State.linkLostGathers
  simp

@[simp] theorem State.gatherParts_keeps (s : State) (p tl ctx lq t r f e) :
    Keeps s (State.gatherParts s p tl ctx lq t r f e) := by
  unfold Keeps State.gatherParts
  simp

@[simp] theorem State.startFill_keeps (s : State) (p : Nat) (tl : TileId) (ctx : Nat) (lq : Nat) (t : Nat) (r : Ring) (new_ : Bool) (f : Fill) (e : PlanEntry) :
    Keeps s (State.startFill s p tl ctx lq t r new_ f e) := by
  unfold Keeps State.startFill
  try dsimp only
  (repeat' split) <;> simp

@[simp] theorem State.holdFill_keeps (s : State) (tl : TileId) (ctx : Nat) (r : Ring) (new_ : Bool) (f : Fill) :
    Keeps s (State.holdFill s tl ctx r new_ f) := by
  unfold Keeps State.holdFill
  try dsimp only
  (repeat' split) <;> simp

@[simp] theorem execRingFillStart_keeps (tl ctx) (s : State) (s0 : State) :
    Keeps s (reached (execRingFillStart tl ctx s) s0) := by
  unfold Keeps execRingFillStart reached
  dsimp only
  (repeat' split) <;> simp

@[simp] theorem State.localPart_keeps (s : State) (p lq set e src i job us) :
    Keeps s (State.localPart s p lq set e src i job us).1 := by
  unfold Keeps
  unfold State.localPart
  dsimp only
  split
  · simp
  · refine ⟨foldl_fst_pending _ _ _ ?_, foldl_fst_lc _ _ _ ?_, foldl_fst_fuses _ _ _ ?_, foldl_fst_tri_lcBusy _ _ _ ?_, foldl_fst_tri_lcTarget _ _ _ ?_⟩ <;>
      (intro a x; simp)

@[simp] theorem State.unitFaults_keeps (s : State) (p : Nat) (set : CfgSet) (src : Nat) (n : Nat) (job : JobRef) :
    Keeps s (State.unitFaults s p set src n job) := by
  unfold Keeps State.unitFaults
  try dsimp only
  simp

@[simp] theorem State.deliverPart_keeps (s : State) (p : Nat) (tl : TileId) (ctx : Nat) (lq : Nat) (t : Nat) (set : CfgSet) (r : Ring) (f : Fill) (e : PlanEntry) (us : List Upset) (i : Nat) :
    Keeps s (State.deliverPart s p tl ctx lq t set r f e us i) := by
  unfold Keeps State.deliverPart
  try dsimp only
  (repeat' split) <;> simp

@[simp] theorem State.deliverFill_keeps (s : State) (p tl ctx lq t set r f e us) :
    Keeps s (State.deliverFill s p tl ctx lq t set r f e us) := by
  unfold Keeps State.deliverFill
  simp

@[simp] theorem execRingFillDone_keeps (tl : TileId) (ctx : Nat) (upsets : List Upset) (answers : List (Nat × List Byte)) (s : State) (s0 : State) :
    Keeps s (reached (execRingFillDone tl ctx upsets answers s) s0) := by
  unfold Keeps execRingFillDone reached
  try dsimp only
  (repeat' split) <;> simp

@[simp] theorem State.drainOwn_keeps (s : State) (p : Nat) (set : CfgSet) (layer : Nat) :
    Keeps s (State.drainOwn s p set layer) :=
  Kept.foldl _ _ _ (fun s x => Kept.foldl _ _ s (fun s c => Kept.foldl _ _ s (fun s r => by
    split
    · exact Kept.refl s
    · exact Kept.foldl _ _ s (fun s f => by unfold Kept Keeps; (repeat' split) <;> simp))))

@[simp] theorem execPatchDrainDone_keeps (p) (s : State) (s0 : State) :
    Keeps s (reached (execPatchDrainDone p s) s0) := by
  unfold Keeps execPatchDrainDone reached
  dsimp only
  (repeat' split) <;> simp

@[simp] theorem execGatherReq_keeps (binding tag len pre patch lq off) (s : State) (s0 : State) :
    Keeps s (reached (execGatherReq binding tag len pre patch lq off s) s0) := by
  unfold Keeps execGatherReq reached
  dsimp only
  (repeat' split) <;> simp

@[simp] theorem State.modGather_keeps (s : State) (tag f) : Keeps s (State.modGather s tag f) := by
  unfold Keeps State.modGather
  simp

@[simp] theorem execGatherHold_keeps (binding tag) (s : State) (s0 : State) :
    Keeps s (reached (execGatherHold binding tag s) s0) := by
  unfold Keeps execGatherHold reached
  dsimp only
  (repeat' split) <;> simp

@[simp] theorem execGatherRetryTimer_keeps (tag) (s : State) (s0 : State) :
    Keeps s (reached (execGatherRetryTimer tag s) s0) := by
  unfold Keeps execGatherRetryTimer reached
  dsimp only
  (repeat' split) <;> simp

@[simp] theorem execGatherRefuse_keeps (binding tag reason) (s : State) (s0 : State) :
    Keeps s (reached (execGatherRefuse binding tag reason s) s0) := by
  unfold Keeps execGatherRefuse reached
  dsimp only
  (repeat' split) <;> simp

@[simp] theorem execGatherData_keeps (binding tag data poison) (s : State) (s0 : State) :
    Keeps s (reached (execGatherData binding tag data poison s) s0) := by
  unfold Keeps execGatherData reached
  dsimp only
  (repeat' split) <;> simp

@[simp] theorem execGatherTimeout_keeps (tag) (s : State) (s0 : State) :
    Keeps s (reached (execGatherTimeout tag s) s0) := by
  unfold Keeps execGatherTimeout reached
  dsimp only
  (repeat' split) <;> simp

@[simp] theorem State.spillLine_keeps (s : State) (p : Nat) (job : JobRef) (lq : Nat) (off : Nat) (row : Option Nat) (x : Line) :
    Keeps s (State.spillLine s p job lq off row x) := by
  unfold Keeps State.spillLine
  try dsimp only
  (repeat' split) <;> simp

@[simp] theorem State.spillTile_keeps (s : State) (p : Nat) (t : TrSlot) (r : StashRec) (tile : Nat) (ls : List Line) :
    Keeps s (State.spillTile s p t r tile ls) := by
  unfold Keeps State.spillTile
  try dsimp only
  (repeat' split) <;> simp

@[simp] theorem State.stashEvent_keeps (s : State) (c cause) : Keeps s (State.stashEvent s c cause) := by
  unfold Keeps State.stashEvent
  simp

@[simp] theorem State.stashClaim_keeps (s : State) (p t a) : Keeps s (State.stashClaim s p t a) := by
  unfold Keeps
  unfold State.stashClaim
  refine ⟨foldl_eq_pending _ _ _ ?_, foldl_eq_lc _ _ _ ?_, foldl_eq_fuses _ _ _ ?_, foldl_eq_tri_lcBusy _ _ _ ?_, foldl_eq_tri_lcTarget _ _ _ ?_⟩ <;> (intro s x t ht; beta_reduce at ht; rw [← ht]; simp)

@[simp] theorem State.recordWrite_keeps (s : State) (p : Nat) (t : TrSlot) (r : StashRec) (tile : Nat) (ls : List Line) :
    Keeps s (State.recordWrite s p t r tile ls) := by
  unfold Keeps State.recordWrite
  try dsimp only
  (repeat' split) <;> simp

@[simp] theorem State.recordRead_keeps (s : State) (p : Nat) (t : TrSlot) (r : StashRec) (tile : Nat) :
    Keeps s ((State.recordRead s p t r tile).1) := by
  unfold Keeps State.recordRead
  try dsimp only
  (repeat' split) <;> simp

@[simp] theorem State.recordPut_keeps (s : State) (p : Nat) (k : Nat) (j : JobRef) (layer : Nat) (tile : Nat) (rows : List (Option Nat)) (ls : List Line) :
    Keeps s (State.recordPut s p k j layer tile rows ls) := by
  unfold Keeps State.recordPut
  try dsimp only
  (repeat' split) <;> simp

@[simp] theorem State.countStash_keeps (s : State) (c : Cmd) (spill : Bool) :
    Keeps s (State.countStash s c spill) := by
  unfold Keeps State.countStash
  try dsimp only
  (repeat' split) <;> simp

@[simp] theorem State.displace_keeps (s : State) (c k r) : Keeps s (State.displace s c k r) := by
  unfold Keeps State.displace
  dsimp only
  (repeat' split) <;> simp

@[simp] theorem State.holdRecord_keeps (s : State) (c k r) : Keeps s (State.holdRecord s c k r) := by
  unfold Keeps State.holdRecord
  dsimp only
  (repeat' split) <;> simp

@[simp] theorem State.modTJob_keeps (s : State) (tl ctx j f) : Keeps s (State.modTJob s tl ctx j f) := by
  unfold Keeps State.modTJob
  simp

@[simp] theorem execStashCaptureDone_keeps (tl : TileId) (ctx : Nat) (layer : Nat) (rows : List (Option Nat)) (s : State) (s0 : State) :
    Keeps s (reached (execStashCaptureDone tl ctx layer rows s) s0) := by
  unfold Keeps execStashCaptureDone reached
  try dsimp only
  (repeat' split) <;> simp

@[simp] theorem State.replay_keeps (s : State) (c k layer) : Keeps s (State.replay s c k layer) := by
  unfold Keeps State.replay
  simp

@[simp] theorem State.restoreLines_keeps (s : State) (c : Cmd) (t : TrSlot) (r : StashRec) (dropped : Bool) (l : Nat) :
    Keeps s ((State.restoreLines s c t r dropped l).1) := by
  unfold State.restoreLines
  dsimp only
  split
  · exact Kept.refl s
  · split
    · exact State.recordRead_keeps s c.part t r l
    · split
      · exact Kept.refl s
      · exact Kept.foldl_fst _ _ _ (fun a i => by unfold Kept Keeps; (repeat' split) <;> simp)

@[simp] theorem execStashRestoreDone_keeps (tl ctx layer) (s : State) (s0 : State) :
    Keeps s (reached (execStashRestoreDone tl ctx layer s) s0) := by
  unfold Keeps execStashRestoreDone reached
  dsimp only
  (repeat' split) <;> simp


end Sys2Proof.Machine
end

