-- ==== Sys2Proof/Laws/KeepsLink.lean ====
section
/-! SUPPORT. What the operations and commands of bindings, JANUS and the carve keep. -/

namespace Sys2Proof.Machine

/-! ### Bind -/

@[simp] theorem State.modPort_keeps (s : State) (p f) : Keeps s (State.modPort s p f) := by
  unfold Keeps State.modPort
  simp

@[simp] theorem State.modSess_keeps (s : State) (n f) : Keeps s (State.modSess s n f) := by
  unfold Keeps State.modSess
  simp

@[simp] theorem State.portCount_keeps (s : State) (p i n) : Keeps s (State.portCount s p i n) := by
  unfold Keeps State.portCount
  simp

@[simp] theorem State.janCount_keeps (s : State) (i) : Keeps s (State.janCount s i) := by
  unfold Keeps State.janCount
  simp

@[simp] theorem State.setPort_keeps (s : State) (p st) : Keeps s (State.setPort s p st) := by
  unfold Keeps State.setPort
  simp

@[simp] theorem State.setBind_keeps (s : State) (b st) : Keeps s (State.setBind s b st) := by
  unfold Keeps State.setBind
  simp

@[simp] theorem State.setSess_keeps (s : State) (n st) : Keeps s (State.setSess s n st) := by
  unfold Keeps State.setSess
  simp

@[simp] theorem State.freeHop_keeps (s : State) (p) (h : ℕ) : Keeps s (State.freeHop s p h) := by
  unfold Keeps State.freeHop
  simp

@[simp] theorem State.bindCommits_keeps (s : State) (b) : Keeps s (State.bindCommits s b) := by
  unfold Keeps
  unfold State.bindCommits
  refine ⟨foldl_eq_pending _ _ _ ?_, foldl_eq_lc _ _ _ ?_, foldl_eq_fuses _ _ _ ?_, foldl_eq_tri_lcBusy _ _ _ ?_, foldl_eq_tri_lcTarget _ _ _ ?_⟩ <;> (intro s x t ht; (try dsimp only at ht); (repeat' split at ht) <;> (subst ht; simp))

@[simp] theorem State.bindLost_keeps (s : State) (b) : Keeps s (State.bindLost s b) := by
  unfold Keeps State.bindLost
  simp

@[simp] theorem State.reopen_keeps (s : State) (b) : Keeps s (State.reopen s b) := by
  unfold Keeps State.reopen
  simp

@[simp] theorem State.bindDown_keeps (s : State) (b) : Keeps s (State.bindDown s b) := by
  unfold Keeps State.bindDown
  simp

@[simp] theorem State.sessDown_keeps (s : State) (n cause) : Keeps s (State.sessDown s n cause) := by
  unfold Keeps State.sessDown
  simp

@[simp] theorem State.routeLoss_keeps (s : State) (p) : Keeps s (State.routeLoss s p) := by
  unfold Keeps State.routeLoss
  simp

@[simp] theorem State.setSynced_keeps (s : State) (v) : Keeps s (State.setSynced s v) := by
  unfold Keeps State.setSynced
  simp

@[simp] theorem State.orbitTree_keeps (s : State) : Keeps s (State.orbitTree s) := by
  unfold Keeps State.orbitTree
  dsimp only
  (repeat' split) <;> simp

@[simp] theorem State.portDown_keeps (s : State) (p cause) : Keeps s (State.portDown s p cause) := by
  unfold Keeps State.portDown
  simp

@[simp] theorem State.pushFrame_keeps (s : State) (p f) : Keeps s (State.pushFrame s p f) := by
  unfold Keeps State.pushFrame
  simp

@[simp] theorem State.sendSession_keeps (s : State) (n units m) : Keeps s (State.sendSession s n units m) := by
  unfold Keeps State.sendSession
  dsimp only
  (repeat' split) <;> simp

@[simp] theorem State.sendHs_keeps (s : State) (a units m) : Keeps s (State.sendHs s a units m) := by
  unfold Keeps State.sendHs
  dsimp only
  (repeat' split) <;> simp

@[simp] theorem State.makeHello_keeps (s : State) : Keeps s (State.makeHello s).2 := by
  unfold Keeps State.makeHello
  simp

@[simp] theorem State.setHs_keeps (s : State) (a) (h : Option Handshake) : Keeps s (State.setHs s a h) := by
  unfold Keeps State.setHs
  (repeat' split) <;> simp_all

@[simp] theorem State.beginHs_keeps (s : State) (a) : Keeps s (State.beginHs s a) := by
  unfold Keeps State.beginHs
  simp

@[simp] theorem State.openSess_keeps (s : State) (n) : Keeps s (State.openSess s n) := by
  unfold Keeps State.openSess
  simp

@[simp] theorem State.closeSess_keeps (s : State) (n) : Keeps s (State.closeSess s n) := by
  unfold Keeps State.closeSess
  simp

@[simp] theorem State.matchOffer_keeps (s : State) (b o) : Keeps s (State.matchOffer s b o) := by
  unfold Keeps State.matchOffer
  simp

@[simp] theorem State.offer_keeps (s : State) (b) : Keeps s (State.offer s b) := by
  unfold Keeps State.offer
  dsimp only
  (repeat' split) <;> simp

@[simp] theorem State.quarantine_keeps (s : State) (b) : Keeps s (State.quarantine s b) := by
  unfold Keeps State.quarantine
  simp

@[simp] theorem State.closeBindings_keeps (s : State) (f) : Keeps s (State.closeBindings s f) := by
  unfold Keeps State.closeBindings
  simp

@[simp] theorem State.closeDomain_keeps (s : State) (d) : Keeps s (State.closeDomain s d) := by
  unfold Keeps State.closeDomain
  simp

/-! ### Janus -/

@[simp] theorem execPortCalibrationDone_keeps (p ok) (s : State) (s0 : State) :
    Keeps s (reached (execPortCalibrationDone p ok s) s0) := by
  unfold Keeps execPortCalibrationDone reached
  simp

@[simp] theorem execLaneTrainingDone_keeps (p rtt lanes fibreM) (s : State) (s0 : State) :
    Keeps s (reached (execLaneTrainingDone p rtt lanes fibreM s) s0) := by
  unfold Keeps execLaneTrainingDone reached
  simp

@[simp] theorem execNoPeerTimeout_keeps (p) (s : State) (s0 : State) :
    Keeps s (reached (execNoPeerTimeout p s) s0) := by
  unfold Keeps execNoPeerTimeout reached
  simp

@[simp] theorem execNoPeerRetry_keeps (p) (s : State) (s0 : State) : Keeps s (reached (execNoPeerRetry p s) s0) := by
  unfold Keeps execNoPeerRetry reached
  simp

@[simp] theorem State.relight_keeps (s : State) (p) : Keeps s (State.relight s p) := by
  unfold Keeps State.relight
  (repeat' split) <;> simp_all

@[simp] theorem execLaneLockLost_keeps (p lane) (s : State) (s0 : State) :
    Keeps s (reached (execLaneLockLost p lane s) s0) := by
  unfold Keeps execLaneLockLost reached
  simp

@[simp] theorem execPortRxTimeout_keeps (p) (s : State) (s0 : State) :
    Keeps s (reached (execPortRxTimeout p s) s0) := by
  unfold Keeps execPortRxTimeout reached
  simp

@[simp] theorem execRetrain_keeps (p) (s : State) (s0 : State) : Keeps s (reached (execRetrain p s) s0) := by
  unfold Keeps execRetrain reached
  simp

@[simp] theorem State.sendProof_keeps (s : State) (a) : Keeps s (State.sendProof s a) := by
  unfold Keeps State.sendProof
  simp

@[simp] theorem State.takeHello_keeps (s : State) (a m) : Keeps s (State.takeHello s a m) := by
  unfold Keeps State.takeHello
  (repeat' split) <;> simp_all

@[simp] theorem execHello_keeps (at_ m) (s : State) (s0 : State) : Keeps s (reached (execHello at_ m s) s0) := by
  unfold Keeps execHello reached
  dsimp only
  (repeat' split) <;> simp

@[simp] theorem State.giveUp_keeps (s : State) (a) : Keeps s (State.giveUp s a) := by
  unfold Keeps State.giveUp
  dsimp only
  (repeat' split) <;> simp

@[simp] theorem execProof_keeps (at_ m) (s : State) (s0 : State) : Keeps s (reached (execProof at_ m s) s0) := by
  unfold Keeps execProof reached
  dsimp only
  (repeat' split) <;> simp

@[simp] theorem State.portOpened_keeps (s : State) (p t) : Keeps s (State.portOpened s p t) := by
  unfold Keeps State.portOpened
  simp

@[simp] theorem State.sessOpened_keeps (s : State) (n t) : Keeps s (State.sessOpened s n t) := by
  unfold Keeps State.sessOpened
  simp

@[simp] theorem execHandshakeFinish_keeps (at_ macOk) (s : State) (s0 : State) :
    Keeps s (reached (execHandshakeFinish at_ macOk s) s0) := by
  unfold Keeps execHandshakeFinish reached
  dsimp only
  (repeat' split) <;> simp

@[simp] theorem execHandshakeRetry_keeps (at_) (s : State) (s0 : State) :
    Keeps s (reached (execHandshakeRetry at_ s) s0) := by
  unfold Keeps execHandshakeRetry reached
  dsimp only
  (repeat' split) <;> simp

@[simp] theorem execKeepaliveTimer_keeps (n) (s : State) (s0 : State) :
    Keeps s (reached (execKeepaliveTimer n s) s0) := by
  unfold Keeps execKeepaliveTimer reached
  simp

@[simp] theorem execKeepalive_keeps (n) (s : State) (s0 : State) : Keeps s (reached (execKeepalive n s) s0) := by
  unfold Keeps execKeepalive reached
  simp

@[simp] theorem execSessionTimeout_keeps (n) (s : State) (s0 : State) :
    Keeps s (reached (execSessionTimeout n s) s0) := by
  unfold Keeps
  exact Kept.next_ite s s0 _ _ _ (State.sessDown_keeps ..) (Kept.refl s)

@[simp] theorem State.bindResult_keeps (s : State) (op r) : Keeps s (State.bindResult s op r) := by
  unfold Keeps State.bindResult
  simp

@[simp] theorem State.request_keeps (s : State) (op b x) : Keeps s (State.request s op b x) := by
  unfold Keeps State.request
  simp

@[simp] theorem execBindOpenPart_keeps (s : State) (s0 : State) : Keeps s (reached (execBindOpenPart s) s0) := by
  unfold Keeps execBindOpenPart reached
  dsimp only
  (repeat' split) <;> simp

@[simp] theorem execBindOpenDomain_keeps (s : State) (s0 : State) : Keeps s (reached (execBindOpenDomain s) s0) := by
  unfold Keeps execBindOpenDomain reached
  dsimp only
  (repeat' split) <;> simp

@[simp] theorem State.leave_keeps (s : State) (b) : Keeps s (State.leave s b) := by
  unfold Keeps State.leave
  simp

@[simp] theorem execBindClose_keeps (s : State) (s0 : State) : Keeps s (reached (execBindClose s) s0) := by
  unfold Keeps execBindClose reached
  simp

@[simp] theorem execBindOffer_keeps (n o) (s : State) (s0 : State) : Keeps s (reached (execBindOffer n o s) s0) := by
  unfold Keeps execBindOffer reached
  dsimp only
  (repeat' split) <;> simp

@[simp] theorem execBindOfferExpiry_keeps (n o) (s : State) (s0 : State) :
    Keeps s (reached (execBindOfferExpiry n o s) s0) := by
  unfold Keeps execBindOfferExpiry reached
  simp

@[simp] theorem execClose_keeps (binding) (s : State) (s0 : State) : Keeps s (reached (execClose binding s) s0) := by
  unfold Keeps execClose reached
  dsimp only
  (repeat' split) <;> simp

@[simp] theorem execClosingTimeout_keeps (binding) (s : State) (s0 : State) :
    Keeps s (reached (execClosingTimeout binding s) s0) := by
  unfold Keeps execClosingTimeout reached
  simp

@[simp] theorem execQuarantineExpiry_keeps (binding) (s : State) (s0 : State) :
    Keeps s (reached (execQuarantineExpiry binding s) s0) := by
  unfold Keeps execQuarantineExpiry reached
  simp

@[simp] theorem State.modClass_keeps (s : State) (b cls f) : Keeps s (State.modClass s b cls f) := by
  unfold Keeps State.modClass
  simp

@[simp] theorem execRelease_keeps (binding cls slots) (s : State) (s0 : State) :
    Keeps s (reached (execRelease binding cls slots s) s0) := by
  unfold Keeps execRelease reached
  simp

@[simp] theorem execCreditIdleTimer_keeps (binding) (s : State) (s0 : State) :
    Keeps s (reached (execCreditIdleTimer binding s) s0) := by
  unfold Keeps execCreditIdleTimer reached
  simp

@[simp] theorem execSeqGapTimeout_keeps (binding) (s : State) (s0 : State) :
    Keeps s (reached (execSeqGapTimeout binding s) s0) := by
  unfold Keeps execSeqGapTimeout reached
  simp

@[simp] theorem State.hopAccept_keeps (s : State) (p f) : Keeps s (State.hopAccept s p f).1 := by
  unfold Keeps State.hopAccept
  simp

@[simp] theorem State.takeCommit_keeps (s : State) (b t m) : Keeps s (State.takeCommit s b t m) := by
  unfold Keeps State.takeCommit
  dsimp only
  (repeat' split) <;> simp

@[simp] theorem State.takeMsg_keeps (s : State) (b m) : Keeps s (State.takeMsg s b m) := by
  unfold Keeps State.takeMsg
  (repeat' split) <;> simp_all

@[simp] theorem State.takeMsgs_keeps (s : State) (b ms) : Keeps s (State.takeMsgs s b ms) := by
  unfold Keeps State.takeMsgs
  simp

@[simp] theorem State.inOrder_keeps (s : State) (b cls units ms) : Keeps s (State.inOrder s b cls units ms) := by
  unfold Keeps State.inOrder
  simp

@[simp] theorem State.fillGap_keeps (b cls x2) (x3 : State) : Keeps x3 (State.fillGap b cls x2 x3) := by
  unfold Keeps
  induction x2 generalizing x3 with
  | zero => simp [State.fillGap]
  | succ n ih =>
    unfold State.fillGap
    dsimp only
    split
    · simp
    · simp [ih]

@[simp] theorem State.takeBinding_keeps (s : State) (f) : Keeps s (State.takeBinding s f) := by
  unfold Keeps State.takeBinding
  simp

@[simp] theorem State.takeSess_keeps (s : State) (n ms) : Keeps s (State.takeSess s n ms) := by
  unfold Keeps
  unfold State.takeSess
  refine ⟨foldl_eq_pending _ _ _ ?_, foldl_eq_lc _ _ _ ?_, foldl_eq_fuses _ _ _ ?_, foldl_eq_tri_lcBusy _ _ _ ?_, foldl_eq_tri_lcTarget _ _ _ ?_⟩ <;> (intro s x t ht; (repeat' split at ht) <;> (subst ht; simp))

@[simp] theorem State.fillSess_keeps (n x1) (x2 : State) : Keeps x2 (State.fillSess n x1 x2) := by
  unfold Keeps
  induction x1 generalizing x2 with
  | zero => simp [State.fillSess]
  | succ n ih =>
    unfold State.fillSess
    split
    · simp
    · simp [ih]

@[simp] theorem State.takeSession_keeps (s : State) (f) : Keeps s (State.takeSession s f) := by
  unfold Keeps State.takeSession
  simp

@[simp] theorem State.takeFrame_keeps (s : State) (f) : Keeps s (State.takeFrame s f) := by
  unfold Keeps State.takeFrame
  simp

@[simp] theorem State.forward_keeps (s : State) (p f) : Keeps s (State.forward s p f) := by
  unfold Keeps State.forward
  dsimp only
  (repeat' split) <;> simp

@[simp] theorem State.frameIn_keeps (s : State) (p f) : Keeps s (State.frameIn s p f) := by
  unfold Keeps State.frameIn
  simp

@[simp] theorem execRoutedFrame_keeps (p f) (s : State) (s0 : State) :
    Keeps s (reached (execRoutedFrame p f s) s0) := by
  unfold Keeps execRoutedFrame reached
  simp

@[simp] theorem execForwardedFrame_keeps (p f) (s : State) (s0 : State) :
    Keeps s (reached (execForwardedFrame p f s) s0) := by
  unfold Keeps execForwardedFrame reached
  simp

@[simp] theorem State.nakked_keeps (s : State) (p) : Keeps s (State.nakked s p) := by
  unfold Keeps State.nakked
  simp

@[simp] theorem execLinkFrame_keeps (p f u) (s : State) (s0 : State) :
    Keeps s (reached (execLinkFrame p f u s) s0) := by
  unfold Keeps execLinkFrame reached
  simp

@[simp] theorem execLinkFrameDue_keeps (p) (s : State) (s0 : State) :
    Keeps s (reached (execLinkFrameDue p s) s0) := by
  unfold Keeps execLinkFrameDue reached
  simp

@[simp] theorem State.sendOut_keeps (s : State) (p f) : Keeps s (State.sendOut s p f) := by
  unfold Keeps State.sendOut
  dsimp only
  (repeat' split) <;> simp

@[simp] theorem State.sendLink_keeps (s : State) (p) : Keeps s (State.sendLink s p) := by
  unfold Keeps State.sendLink
  simp

@[simp] theorem State.sendClass_keeps (s : State) (p b cls n) : Keeps s (State.sendClass s p b cls n) := by
  unfold Keeps State.sendClass
  simp

@[simp] theorem State.sendQueued_keeps (s : State) (p f) : Keeps s (State.sendQueued s p f) := by
  unfold Keeps State.sendQueued
  simp

@[simp] theorem State.sendData_keeps (s : State) (p) : Keeps s (State.sendData s p) := by
  unfold Keeps State.sendData
  dsimp only
  (repeat' split) <;> simp

@[simp] theorem State.sendCtrl_keeps (s : State) (p) : Keeps s (State.sendCtrl s p) := by
  unfold Keeps State.sendCtrl
  dsimp only
  (repeat' split) <;> simp

@[simp] theorem execFrameTransmit_keeps (p) (s : State) (s0 : State) :
    Keeps s (reached (execFrameTransmit p s) s0) := by
  unfold Keeps execFrameTransmit reached
  dsimp only
  (repeat' split) <;> simp

@[simp] theorem execOrbitSyncUpdate_keeps (s : State) (s0 : State) :
    Keeps s (reached (execOrbitSyncUpdate s) s0) := by
  unfold Keeps execOrbitSyncUpdate reached
  dsimp only
  (repeat' split) <;> simp

@[simp] theorem execJanBindInfoRead_keeps (s : State) (s0 : State) :
    Keeps s (reached (execJanBindInfoRead s) s0) := by
  unfold Keeps execJanBindInfoRead reached
  simp

/-! ### Carve -/

@[simp] theorem State.parEnd_keeps (s : State) (r lq) : Keeps s (State.parEnd s r lq) := by
  unfold Keeps State.parEnd
  simp

@[simp] theorem State.parGo_pending (s0 : State) (op : ℕ) (p : ℕ) (k : State → State) (hk : ∀ s, (k s).pending = s.pending) :
    (State.parGo s0 op p k).pending = s0.pending := by
  unfold State.parGo
  simp_all

@[simp] theorem State.parGo_lc (s0 : State) (op : ℕ) (p : ℕ) (k : State → State) (hk : ∀ s, (k s).lc = s.lc) :
    (State.parGo s0 op p k).lc = s0.lc := by
  unfold State.parGo
  simp_all

@[simp] theorem State.parGo_fuses (s0 : State) (op : ℕ) (p : ℕ) (k : State → State) (hk : ∀ s, (k s).fuses = s.fuses) :
    (State.parGo s0 op p k).fuses = s0.fuses := by
  unfold State.parGo
  simp_all

@[simp] theorem State.parGo_tri_lcBusy (s0 : State) (op : ℕ) (p : ℕ) (k : State → State) (hk : ∀ s, (k s).tri.lcBusy = s.tri.lcBusy) :
    (State.parGo s0 op p k).tri.lcBusy = s0.tri.lcBusy := by
  unfold State.parGo
  simp_all

@[simp] theorem State.parGo_tri_lcTarget (s0 : State) (op : ℕ) (p : ℕ) (k : State → State) (hk : ∀ s, (k s).tri.lcTarget = s.tri.lcTarget) :
    (State.parGo s0 op p k).tri.lcTarget = s0.tri.lcTarget := by
  unfold State.parGo
  simp_all

@[simp] theorem State.tdiError_keeps (s : State) (p) : Keeps s (State.tdiError s p) := by
  unfold Keeps State.tdiError
  dsimp only
  (repeat' split) <;> simp

@[simp] theorem State.ungate_keeps (s : State) (q) : Keeps s (State.ungate s q) := by
  unfold Keeps State.ungate
  simp

@[simp] theorem State.createGo_keeps (s : State) (p) : Keeps s (State.createGo s p) := by
  unfold Keeps
  unfold State.createGo
  split
  · simp
  · split
    · simp
    · dsimp only
      split
      · simp
      · simp (disch := (intros; split <;> simp))

@[simp] theorem execParCmdCreate_keeps (p) (s : State) (s0 : State) :
    Keeps s (reached (execParCmdCreate p s) s0) := by
  unfold Keeps
  unfold execParCmdCreate reached
  exact ⟨State.parGo_pending _ _ _ _ (by simp), State.parGo_lc _ _ _ _ (by simp), State.parGo_fuses _ _ _ _ (by simp), State.parGo_tri_lcBusy _ _ _ _ (by simp), State.parGo_tri_lcTarget _ _ _ _ (by simp)⟩

@[simp] theorem State.disableCmds_keeps (s : State) (p mute but) : Keeps s (State.disableCmds s p mute but) := by
  unfold Keeps State.disableCmds
  simp

@[simp] theorem State.disableCommits_keeps (s : State) (p) : Keeps s (State.disableCommits s p) := by
  unfold Keeps
  unfold State.disableCommits
  refine ⟨foldl_eq_pending _ _ _ ?_, foldl_eq_lc _ _ _ ?_, foldl_eq_fuses _ _ _ ?_, foldl_eq_tri_lcBusy _ _ _ ?_, foldl_eq_tri_lcTarget _ _ _ ?_⟩ <;> (intro s x t ht; (repeat' split at ht) <;> (subst ht; simp))

@[simp] theorem State.scrubWays_keeps (s : State) (p : Nat) :
    Keeps s (State.scrubWays s p) := by
  unfold Keeps State.scrubWays
  try dsimp only
  simp

@[simp] theorem State.disable_keeps (s : State) (p cause destroy but) :
    Keeps s (State.disable s p cause destroy but) := by
  unfold Keeps State.disable
  simp

@[simp] theorem State.endDomain_keeps (s : State) (d) : Keeps s (State.endDomain s d) := by
  unfold Keeps State.endDomain
  simp

@[simp] theorem State.dropPages_keeps (s : State) (p) : Keeps s (State.dropPages s p) := by
  unfold Keeps State.dropPages
  simp

@[simp] theorem State.emptyPart_keeps (s : State) (p) : Keeps s (State.emptyPart s p) := by
  unfold Keeps State.emptyPart
  simp

@[simp] theorem State.scrubPart_keeps (s : State) (p) : Keeps s (State.scrubPart s p) := by
  unfold Keeps State.scrubPart
  simp

@[simp] theorem State.enable_keeps (s : State) (p) : Keeps s (State.enable s p) := by
  unfold Keeps State.enable
  simp

@[simp] theorem State.dropChannel_keeps (s : State) (stack pch) : Keeps s (State.dropChannel s stack pch) := by
  unfold Keeps
  unfold State.dropChannel
  refine ⟨foldl_eq_pending _ _ _ ?_, foldl_eq_lc _ _ _ ?_, foldl_eq_fuses _ _ _ ?_, foldl_eq_tri_lcBusy _ _ _ ?_, foldl_eq_tri_lcTarget _ _ _ ?_⟩ <;> (intro s x t ht; beta_reduce at ht; rw [← ht]; simp)

@[simp] theorem State.destroyNow_keeps (s : State) (p) : Keeps s (State.destroyNow s p) := by
  unfold Keeps State.destroyNow
  simp

@[simp] theorem State.disabled_keeps (s : State) (p) : Keeps s (State.disabled s p) := by
  unfold Keeps State.disabled
  simp

@[simp] theorem execPartitionDisabled_keeps (p) (s : State) (s0 : State) :
    Keeps s (reached (execPartitionDisabled p s) s0) := by
  unfold Keeps execPartitionDisabled reached
  simp

@[simp] theorem execParCmdDisable_keeps (p) (s : State) (s0 : State) :
    Keeps s (reached (execParCmdDisable p s) s0) := by
  unfold Keeps execParCmdDisable reached
  simp

@[simp] theorem execParCmdEnable_keeps (p) (s : State) (s0 : State) :
    Keeps s (reached (execParCmdEnable p s) s0) := by
  unfold Keeps execParCmdEnable reached
  simp

@[simp] theorem State.destroyGo_keeps (s : State) (p) : Keeps s (State.destroyGo s p) := by
  unfold Keeps State.destroyGo
  dsimp only
  (repeat' split) <;> simp

@[simp] theorem execParCmdDestroy_keeps (p) (s : State) (s0 : State) :
    Keeps s (reached (execParCmdDestroy p s) s0) := by
  unfold Keeps
  unfold execParCmdDestroy reached
  exact ⟨State.parGo_pending _ _ _ _ (by simp), State.parGo_lc _ _ _ _ (by simp), State.parGo_fuses _ _ _ _ (by simp), State.parGo_tri_lcBusy _ _ _ _ (by simp), State.parGo_tri_lcTarget _ _ _ _ (by simp)⟩

@[simp] theorem State.queuesOff_keeps (s : State) (fn) : Keeps s (State.queuesOff s fn) := by
  unfold Keeps State.queuesOff
  simp

@[simp] theorem execVfFlr_keeps (v) (s : State) (s0 : State) : Keeps s (reached (execVfFlr v s) s0) := by
  unfold Keeps execVfFlr reached
  dsimp only
  (repeat' split) <;> simp

@[simp] theorem State.returnPart_keeps (s : State) (p cause) : Keeps s (State.returnPart s p cause) := by
  unfold Keeps State.returnPart
  dsimp only
  (repeat' split) <;> simp

@[simp] theorem execVfFlrDone_keeps (v) (s : State) (s0 : State) : Keeps s (reached (execVfFlrDone v s) s0) := by
  unfold Keeps execVfFlrDone reached
  dsimp only
  (repeat' split) <;> simp

@[simp] theorem execPfFlr_keeps (s : State) (s0 : State) : Keeps s (reached (execPfFlr s) s0) := by
  unfold Keeps
  exact Kept.host (State.queuesOff_keeps s .pf) _

@[simp] theorem execVfEnableClear_keeps (s : State) (s0 : State) : Keeps s (reached (execVfEnableClear s) s0) := by
  unfold Keeps execVfEnableClear reached
  simp

@[simp] theorem State.vfReturn_keeps (s : State) (n e) : Keeps s (State.vfReturn s n e) := by
  unfold Keeps State.vfReturn
  (repeat' split) <;> simp_all

@[simp] theorem execVfEnableSet_keeps (numVfs) (s : State) (s0 : State) :
    Keeps s (reached (execVfEnableSet numVfs s) s0) := by
  unfold Keeps execVfEnableSet reached
  simp

@[simp] theorem State.scrubClosed_keeps (s : State) (d) : Keeps s (State.scrubClosed s d) := by
  unfold Keeps State.scrubClosed
  (repeat' split) <;> simp

@[simp] theorem State.endClose_keeps (s : State) (d) : Keeps s (State.endClose s d) := by
  unfold Keeps State.endClose
  split <;> simp

@[simp] theorem execKeySlotErased_keeps (d) (s : State) (s0 : State) :
    Keeps s (reached (execKeySlotErased d s) s0) := by
  unfold Keeps execKeySlotErased reached
  simp

@[simp] theorem execDomainCloseDone_keeps (d) (s : State) (s0 : State) :
    Keeps s (reached (execDomainCloseDone d s) s0) := by
  unfold Keeps execDomainCloseDone reached
  simp


end Sys2Proof.Machine
end

