-- ==== Sys2Proof/Laws/KeepsPower.lean ====
section
/-! SUPPORT. What the operations and commands of the tick, resets, clocks, supply, NVM and the start keep. -/

namespace Sys2Proof.Machine

/-! ### Tick -/

@[simp] theorem aclkTick_keeps (s : State) : Keeps s (aclkTick s) := by
  unfold Keeps aclkTick
  simp

@[simp] theorem idle_keeps (s : State) (s0 : State) : Keeps s (reached (idle s) s0) := by
  unfold Keeps
  unfold idle
  split <;> simp [reached]

/-! ### Reset -/

@[simp] theorem State.modDomain_keeps (s : State) (n f) : Keeps s (State.modDomain s n f) := by
  unfold Keeps State.modDomain
  simp

@[simp] theorem State.mclkRestart_keeps (s : State) : Keeps s (State.mclkRestart s) := by
  unfold Keeps State.mclkRestart
  simp

@[simp] theorem State.abandon_keeps (s : State) (cause cold) : Persists s (State.abandon s cause cold) := by
  unfold Persists State.abandon
  simp

@[simp] theorem State.beginHostLink_keeps (s : State) : Keeps s (State.beginHostLink s) := by
  unfold Keeps State.beginHostLink
  simp

@[simp] theorem State.enterEarly_keeps (s : State) (n) : Keeps s (State.enterEarly s n) := by
  unfold Keeps State.enterEarly
  simp

@[simp] theorem State.resetTrigger_keeps (s : State) (cause) : Persists s (State.resetTrigger s cause) := by
  unfold Persists State.resetTrigger
  simp

@[simp] theorem execGlbResetCold_keeps (value) (s : State) (s0 : State) :
    Persists s (reached (execGlbResetCold value s) s0) := by
  unfold Persists execGlbResetCold reached
  simp

@[simp] theorem execGlbResetWarm_keeps (value) (s : State) (s0 : State) :
    Persists s (reached (execGlbResetWarm value s) s0) := by
  unfold Persists execGlbResetWarm reached
  simp

@[simp] theorem execPllLockLoss_keeps (s : State) (s0 : State) : Persists s (reached (execPllLockLoss s) s0) := by
  unfold Persists execPllLockLoss reached
  simp

@[simp] theorem State.enterL3_keeps (s : State) : Persists s (State.enterL3 s) := by
  unfold Persists State.enterL3
  simp

@[simp] theorem State.wakeUp_keeps (s : State) (n) : Persists s (State.wakeUp s n) := by
  unfold Persists State.wakeUp
  simp

@[simp] theorem State.fireAlways_keeps (s : State) (n) : Persists s (State.fireAlways s n) := by
  unfold Persists State.fireAlways
  simp

@[simp] theorem execL3Wake_keeps (source) (s : State) (s0 : State) :
    Persists s (reached (execL3Wake source s) s0) := by
  unfold Persists execL3Wake reached
  simp

@[simp] theorem execRooTimerExpiry_keeps (s : State) (s0 : State) :
    Persists s (reached (execRooTimerExpiry s) s0) := by
  unfold Persists execRooTimerExpiry reached
  simp

@[simp] theorem execLightDetect_keeps (p) (s : State) (s0 : State) :
    Persists s (reached (execLightDetect p s) s0) := by
  unfold Persists execLightDetect reached
  simp

@[simp] theorem execOrbitSyncEdge_keeps (s : State) (s0 : State) :
    Persists s (reached (execOrbitSyncEdge s) s0) := by
  unfold Persists execOrbitSyncEdge reached
  simp

@[simp] theorem execPeRxActivity_keeps (s : State) (s0 : State) : Persists s (reached (execPeRxActivity s) s0) := by
  unfold Persists execPeRxActivity reached
  simp

@[simp] theorem execHostLinkL0_keeps (s : State) (s0 : State) : Keeps s (reached (execHostLinkL0 s) s0) := by
  unfold Keeps execHostLinkL0 reached
  simp

@[simp] theorem execPerstAssert_keeps (s : State) (s0 : State) : Persists s (reached (execPerstAssert s) s0) := by
  unfold Persists execPerstAssert reached
  simp

@[simp] theorem execPerstDeassert_keeps (s : State) (s0 : State) : Persists s (reached (execPerstDeassert s) s0) := by
  unfold Persists execPerstDeassert reached
  simp

/-! ### Clocks -/

@[simp] theorem State.retarget_keeps (s : State) : Keeps s (State.retarget s) := by
  unfold Keeps State.retarget
  simp

@[simp] theorem State.beginL2_keeps (s : State) : Keeps s (State.beginL2 s) := by
  unfold Keeps State.beginL2
  simp

@[simp] theorem State.pEnd_keeps (s : State) : Keeps s (State.pEnd s) := by
  unfold Keeps State.pEnd
  simp

@[simp] theorem execPstateRequest_keeps (value) (s : State) (s0 : State) :
    Keeps s (reached (execPstateRequest value s) s0) := by
  unfold Keeps execPstateRequest reached
  simp

@[simp] theorem execVddRampUpDone_keeps (s : State) (s0 : State) : Keeps s (reached (execVddRampUpDone s) s0) := by
  unfold Keeps execVddRampUpDone reached
  simp

@[simp] theorem execCclkStopPoint_keeps (s : State) (s0 : State) : Keeps s (reached (execCclkStopPoint s) s0) := by
  unfold Keeps execCclkStopPoint reached
  simp

@[simp] theorem execCclkRestart_keeps (s : State) (s0 : State) : Keeps s (reached (execCclkRestart s) s0) := by
  unfold Keeps execCclkRestart reached
  simp

@[simp] theorem execVddRampDownDone_keeps (s : State) (s0 : State) :
    Keeps s (reached (execVddRampDownDone s) s0) := by
  unfold Keeps execVddRampDownDone reached
  simp

@[simp] theorem State.refuseSwitch_keeps (s : State) (n c) : Keeps s (State.refuseSwitch s n c) := by
  unfold Keeps State.refuseSwitch
  simp

@[simp] theorem execClockSwitch_keeps (n value) (s : State) (s0 : State) :
    Keeps s (reached (execClockSwitch n value s) s0) := by
  unfold Keeps execClockSwitch reached
  simp

@[simp] theorem execClockStopPoint_keeps (n) (s : State) (s0 : State) :
    Keeps s (reached (execClockStopPoint n s) s0) := by
  unfold Keeps execClockStopPoint reached
  simp

@[simp] theorem execClockSwitchDone_keeps (n) (s : State) (s0 : State) :
    Keeps s (reached (execClockSwitchDone n s) s0) := by
  unfold Keeps execClockSwitchDone reached
  simp

@[simp] theorem execRefMonitorTick_keeps (refOk) (s : State) (s0 : State) :
    Persists s (reached (execRefMonitorTick refOk s) s0) := by
  unfold Persists execRefMonitorTick reached
  simp

@[simp] theorem execAclkReturn_keeps (s : State) (s0 : State) : Keeps s (reached (execAclkReturn s) s0) := by
  unfold Keeps execAclkReturn reached
  simp

@[simp] theorem State.beginUngate_keeps (s : State) (q) : Keeps s (State.beginUngate s q) := by
  unfold Keeps State.beginUngate
  simp

@[simp] theorem execQgateWrite_keeps (value) (s : State) (s0 : State) :
    Keeps s (reached (execQgateWrite value s) s0) := by
  unfold Keeps execQgateWrite reached
  simp

@[simp] theorem execQgateEntryStart_keeps (q) (s : State) (s0 : State) :
    Keeps s (reached (execQgateEntryStart q s) s0) := by
  unfold Keeps execQgateEntryStart reached
  simp

@[simp] theorem State.gateOff_keeps (s : State) (q) : Keeps s (State.gateOff s q) := by
  unfold Keeps State.gateOff
  simp

@[simp] theorem execQgateEntryDone_keeps (q) (s : State) (s0 : State) :
    Keeps s (reached (execQgateEntryDone q s) s0) := by
  unfold Keeps execQgateEntryDone reached
  simp

@[simp] theorem execQgateExitDone_keeps (q) (s : State) (s0 : State) :
    Keeps s (reached (execQgateExitDone q s) s0) := by
  unfold Keeps execQgateExitDone reached
  simp

@[simp] theorem State.pmEnd_keeps (s : State) (r) : Keeps s (State.pmEnd s r) := by
  unfold Keeps State.pmEnd
  simp

@[simp] theorem State.pmGo_keeps (s : State) (target) : Keeps s (State.pmGo s target) := by
  unfold Keeps State.pmGo
  simp

@[simp] theorem execPmRequestD0_keeps (s : State) (s0 : State) : Keeps s (reached (execPmRequestD0 s) s0) := by
  unfold Keeps execPmRequestD0 reached
  dsimp only
  (repeat' split) <;> simp

@[simp] theorem execPmRequestL2_keeps (s : State) (s0 : State) : Keeps s (reached (execPmRequestL2 s) s0) := by
  unfold Keeps execPmRequestL2 reached
  simp

@[simp] theorem execPmRequestL3_keeps (s : State) (s0 : State) : Keeps s (reached (execPmRequestL3 s) s0) := by
  unfold Keeps execPmRequestL3 reached
  simp

@[simp] theorem execL2EntryDone_keeps (s : State) (s0 : State) : Keeps s (reached (execL2EntryDone s) s0) := by
  unfold Keeps execL2EntryDone reached
  simp

@[simp] theorem execL2ExitDone_keeps (s : State) (s0 : State) : Keeps s (reached (execL2ExitDone s) s0) := by
  unfold Keeps execL2ExitDone reached
  simp

@[simp] theorem execL3ArmTimeout_keeps (s : State) (s0 : State) : Keeps s (reached (execL3ArmTimeout s) s0) := by
  unfold Keeps execL3ArmTimeout reached
  simp

/-! ### Supply -/

@[simp] theorem State.powerLoss_keeps (s : State) (m) : Persists s (State.powerLoss s m) := by
  unfold Persists State.powerLoss
  simp

@[simp] theorem State.mainFault_keeps (s : State) (runs causes sensor) :
    Persists s (State.mainFault s runs causes sensor) := by
  unfold Persists State.mainFault
  simp

@[simp] theorem execInputSample_keeps (volts amps) (s : State) (s0 : State) :
    Persists s (reached (execInputSample volts amps s) s0) := by
  unfold Persists execInputSample reached
  simp

@[simp] theorem execInputUvloRise_keeps (s : State) (s0 : State) : Keeps s (reached (execInputUvloRise s) s0) := by
  unfold Keeps execInputUvloRise reached
  simp

@[simp] theorem execStandbyReady_keeps (idPins oscPins) (s : State) (s0 : State) :
    Keeps s (reached (execStandbyReady idPins oscPins s) s0) := by
  unfold Keeps execStandbyReady reached
  simp

@[simp] theorem execStandbyShutdown_keeps (s : State) (s0 : State) :
    Persists s (reached (execStandbyShutdown s) s0) := by
  unfold Persists execStandbyShutdown reached
  simp

@[simp] theorem execPwrEnHigh_keeps (s : State) (s0 : State) : Keeps s (reached (execPwrEnHigh s) s0) := by
  unfold Keeps execPwrEnHigh reached
  simp

@[simp] theorem execPwrEnLow_keeps (ms) (s : State) (s0 : State) : Persists s (reached (execPwrEnLow ms s) s0) := by
  unfold Persists execPwrEnLow reached
  simp

@[simp] theorem execPwrgdRelease_keeps (s : State) (s0 : State) : Persists s (reached (execPwrgdRelease s) s0) := by
  unfold Persists execPwrgdRelease reached
  simp

@[simp] theorem execMainRailOutOfRegulation_keeps (s : State) (s0 : State) :
    Persists s (reached (execMainRailOutOfRegulation s) s0) := by
  unfold Persists execMainRailOutOfRegulation reached
  simp

@[simp] theorem execPowerCapTick_keeps (volts amps p1s p10ms) (s : State) (s0 : State) :
    Keeps s (reached (execPowerCapTick volts amps p1s p10ms s) s0) := by
  unfold Keeps execPowerCapTick reached
  simp

@[simp] theorem State.readSensor_keeps (s : State) (n temp) : Keeps s (State.readSensor s n temp) := by
  unfold Keeps State.readSensor
  dsimp only
  (repeat' split) <;> simp

@[simp] theorem execThermalSample_keeps (readings) (s : State) (s0 : State) :
    Persists s (reached (execThermalSample readings s) s0) := by
  unfold Persists execThermalSample reached
  dsimp only
  (repeat' split) <;> simp

@[simp] theorem execThermalCapStep_keeps (s : State) (s0 : State) : Keeps s (reached (execThermalCapStep s) s0) := by
  unfold Keeps execThermalCapStep reached
  simp

@[simp] theorem execClkFaultClear_keeps (value) (s : State) (s0 : State) :
    Keeps s (reached (execClkFaultClear value s) s0) := by
  unfold Keeps execClkFaultClear reached
  simp

@[simp] theorem execLaserArraySensorSample_keeps (temp) (s : State) (s0 : State) :
    Keeps s (reached (execLaserArraySensorSample temp s) s0) := by
  unfold Keeps execLaserArraySensorSample reached
  simp

@[simp] theorem State.smbAnswer_keeps (s : State) (a) : Persists s (State.smbAnswer s a) := by
  unfold Persists State.smbAnswer
  simp

@[simp] theorem execSmbStatus_keeps (s : State) (s0 : State) : Persists s (reached (execSmbStatus s) s0) := by
  unfold Persists execSmbStatus reached
  simp

@[simp] theorem execSmbVin_keeps (s : State) (s0 : State) : Persists s (reached (execSmbVin s) s0) := by
  unfold Persists execSmbVin reached
  simp

@[simp] theorem execSmbIin_keeps (s : State) (s0 : State) : Persists s (reached (execSmbIin s) s0) := by
  unfold Persists execSmbIin reached
  simp

@[simp] theorem execSmbPin_keeps (s : State) (s0 : State) : Persists s (reached (execSmbPin s) s0) := by
  unfold Persists execSmbPin reached
  simp

@[simp] theorem execSmbThermal_keeps (s : State) (s0 : State) : Persists s (reached (execSmbThermal s) s0) := by
  unfold Persists execSmbThermal reached
  simp

@[simp] theorem execSmbCoolant_keeps (s : State) (s0 : State) : Persists s (reached (execSmbCoolant s) s0) := by
  unfold Persists execSmbCoolant reached
  simp

@[simp] theorem execSmbFault_keeps (s : State) (s0 : State) : Persists s (reached (execSmbFault s) s0) := by
  unfold Persists execSmbFault reached
  simp

@[simp] theorem execSmbIdent_keeps (s : State) (s0 : State) : Persists s (reached (execSmbIdent s) s0) := by
  unfold Persists execSmbIdent reached
  simp

@[simp] theorem execSmbAlertResponse_keeps (again) (s : State) (s0 : State) :
    Keeps s (reached (execSmbAlertResponse again s) s0) := by
  unfold Keeps execSmbAlertResponse reached
  simp

/-! ### Nvm -/

@[simp] theorem State.loadSettings_keeps (s : State) (b) : Keeps s (State.loadSettings s b) := by
  unfold Keeps State.loadSettings
  simp

@[simp] theorem State.writeLog_keeps (s : State) (result stage detail) :
    Keeps s (State.writeLog s result stage detail) := by
  unfold Keeps State.writeLog
  simp

@[simp] theorem State.storeSettings_keeps (s : State) (c verifyOk) : Keeps s (State.storeSettings s c verifyOk) := by
  unfold Keeps
  show Kept s _
  unfold State.storeSettings
  dsimp only
  split
  · exact State.finish_keeps ..
  · exact State.finish_keeps ..

@[simp] theorem State.storeImage_keeps (s : State) (c img verifyOk) :
    Keeps s (State.storeImage s c img verifyOk) := by
  unfold Keeps
  show Kept s _
  unfold State.storeImage
  dsimp only
  split
  · exact State.finish_keeps ..
  · exact State.finish_keeps ..

@[simp] theorem State.storeStructure_keeps (s : State) (c verifyOk) :
    Keeps s (State.storeStructure s c verifyOk) := by
  unfold Keeps State.storeStructure
  dsimp only
  (repeat' split) <;> simp

@[simp] theorem execStoreStructure_keeps (j verifyOk) (s : State) (s0 : State) :
    Keeps s (reached (execStoreStructure j verifyOk s) s0) := by
  unfold Keeps execStoreStructure reached
  dsimp only
  (repeat' split) <;> simp

@[simp] theorem execStoreSettings_keeps (j verifyOk) (s : State) (s0 : State) :
    Keeps s (reached (execStoreSettings j verifyOk s) s0) := by
  unfold Keeps execStoreSettings reached
  dsimp only
  (repeat' split) <;> simp

/-! ### Start -/

@[simp] theorem State.halt_keeps (s : State) (stage detail loc) : Keeps s (State.halt s stage detail loc) := by
  unfold Keeps State.halt
  simp

@[simp] theorem State.enter_keeps (s : State) (n) : Keeps s (State.enter s n) := by
  unfold Keeps State.enter
  simp

@[simp] theorem State.portsTo_keeps (s : State) (st) : Keeps s (State.portsTo s st) := by
  unfold Keeps State.portsTo
  simp

@[simp] theorem State.enterGroup_keeps (s : State) (aged) : Keeps s (State.enterGroup s aged) := by
  unfold Keeps State.enterGroup
  simp

@[simp] theorem State.endSettle_keeps (s : State) : Keeps s (State.endSettle s) := by
  unfold Keeps State.endSettle
  simp

@[simp] theorem State.endHostLink_keeps (s : State) (parityFail) : Keeps s (State.endHostLink s parityFail) := by
  unfold Keeps State.endHostLink
  simp

@[simp] theorem State.endFuse_keeps (s : State) : Keeps s (State.endFuse s) := by
  unfold Keeps State.endFuse
  simp

@[simp] theorem State.endPll_keeps (s : State) : Keeps s (State.endPll s) := by
  unfold Keeps State.endPll
  simp

@[simp] theorem State.endFirmware_keeps (s : State) (o) : Keeps s (State.endFirmware s o) := by
  unfold Keeps State.endFirmware
  simp

@[simp] theorem State.endNvm_keeps (s : State) (sealedFail) : Keeps s (State.endNvm s sealedFail) := by
  unfold Keeps State.endNvm
  dsimp only
  (repeat' split) <;> simp

@[simp] theorem State.refuseStruct_keeps (s : State) (reason frame) :
    Keeps s (State.refuseStruct s reason frame) := by
  unfold Keeps State.refuseStruct
  simp

@[simp] theorem State.endStructure_keeps (s : State) (aged) : Keeps s (State.endStructure s aged) := by
  unfold Keeps State.endStructure
  dsimp only
  (repeat' split) <;> simp

@[simp] theorem State.wipe_keeps (s : State) : Keeps s (State.wipe s) := by
  unfold Keeps State.wipe
  simp

@[simp] theorem State.endOptics_keeps (s : State) (banks) : Keeps s (State.endOptics s banks) := by
  unfold Keeps State.endOptics
  simp

@[simp] theorem State.makeChain_keeps (s : State) : Keeps s (State.makeChain s) := by
  unfold Keeps State.makeChain
  simp

@[simp] theorem State.becomeReady_keeps (s : State) : Keeps s (State.becomeReady s) := by
  unfold Keeps State.becomeReady
  simp

@[simp] theorem State.spend_keeps (s : State) (code us) : Keeps s (State.spend s code us) := by
  unfold Keeps State.spend
  simp

@[simp] theorem State.endMember_keeps (s : State) (o) : Keeps s (State.endMember s o) := by
  unfold Keeps State.endMember
  dsimp only
  (repeat' split) <;> simp

@[simp] theorem State.endStage_keeps (s : State) (o) : Keeps s (State.endStage s o) := by
  unfold Keeps State.endStage
  dsimp only
  (repeat' split) <;> simp

@[simp] theorem execStartStageEnd_keeps (o) (s : State) (s0 : State) :
    Keeps s (reached (execStartStageEnd o s) s0) := by
  unfold Keeps execStartStageEnd reached
  simp


end Sys2Proof.Machine
end

