-- ==== Sys2Proof/Laws/KeepsTriton.lean ====
section
/-! SUPPORT. What the operations and commands of TRITON and its reports keep. -/

namespace Sys2Proof.Machine

/-! ### Report -/

@[simp] theorem State.akSign_keeps (s : State) (h : Digest) : Keeps s (State.akSign s h).2 := by
  unfold Keeps State.akSign
  dsimp only
  split <;> simp

@[simp] theorem State.spdmSign_keeps (s : State) :
    Keeps s ((State.spdmSign s).2) := by
  unfold Keeps State.spdmSign
  simp

@[simp] theorem State.report_keeps (s : State) (scope id nonce) : Keeps s (State.report s scope id nonce).2 := by
  unfold Keeps State.report
  simp

@[simp] theorem State.takeSnapshot_keeps (s : State) : Keeps s (State.takeSnapshot s) := by
  unfold Keeps State.takeSnapshot
  simp

@[simp] theorem execSnapshotCopyDone_keeps (s : State) (s0 : State) :
    Keeps s (reached (execSnapshotCopyDone s) s0) := by
  unfold Keeps
  unfold execSnapshotCopyDone reached
  dsimp only
  split
  · simp
  · refine ⟨foldl_pending _ _ _ ?_, foldl_lc _ _ _ ?_, foldl_fuses _ _ _ ?_, foldl_tri_lcBusy _ _ _ ?_, foldl_tri_lcTarget _ _ _ ?_⟩ <;> (intro s d; cases d <;> simp)

/-! ### Triton -/

@[simp] theorem State.answer_keeps (s : State) (c secured a) : Keeps s (State.answer s c secured a) := by
  unfold Keeps State.answer
  dsimp only
  (repeat' split) <;> simp

@[simp] theorem State.requestx_pending (s : State) (c : Carrier) (secured : Bool) (early : Bool) (k : State → State × Answer) (hk : ∀ s, (k s).1.pending = s.pending) :
    (State.request! s c secured early k).pending = s.pending := by
  unfold State.request!
  (repeat' split) <;> simp_all

@[simp] theorem State.requestx_lc (s : State) (c : Carrier) (secured : Bool) (early : Bool) (k : State → State × Answer) (hk : ∀ s, (k s).1.lc = s.lc) :
    (State.request! s c secured early k).lc = s.lc := by
  unfold State.request!
  (repeat' split) <;> simp_all

@[simp] theorem State.requestx_fuses (s : State) (c : Carrier) (secured : Bool) (early : Bool) (k : State → State × Answer) (hk : ∀ s, (k s).1.fuses = s.fuses) :
    (State.request! s c secured early k).fuses = s.fuses := by
  unfold State.request!
  (repeat' split) <;> simp_all

@[simp] theorem State.requestx_tri_lcBusy (s : State) (c : Carrier) (secured : Bool) (early : Bool) (k : State → State × Answer) (hk : ∀ s, (k s).1.tri.lcBusy = s.tri.lcBusy) :
    (State.request! s c secured early k).tri.lcBusy = s.tri.lcBusy := by
  unfold State.request!
  (repeat' split) <;> simp_all

@[simp] theorem State.requestx_tri_lcTarget (s : State) (c : Carrier) (secured : Bool) (early : Bool) (k : State → State × Answer) (hk : ∀ s, (k s).1.tri.lcTarget = s.tri.lcTarget) :
    (State.request! s c secured early k).tri.lcTarget = s.tri.lcTarget := by
  unfold State.request!
  (repeat' split) <;> simp_all

@[simp] theorem State.setConn_keeps (s : State) (c n) : Keeps s (State.setConn s c n) := by
  unfold Keeps State.setConn
  simp

@[simp] theorem State.endSessions_keeps (s : State) (p) : Keeps s (State.endSessions s p) := by
  unfold Keeps State.endSessions
  simp

@[simp] theorem State.needs_pending (s : State) (c : Carrier) (n : ℕ) (k : State → State × Answer) (hk : ∀ s, (k s).1.pending = s.pending) :
    (State.needs s c n k).1.pending = s.pending := by
  unfold State.needs
  (repeat' split) <;> simp_all

@[simp] theorem State.needs_lc (s : State) (c : Carrier) (n : ℕ) (k : State → State × Answer) (hk : ∀ s, (k s).1.lc = s.lc) :
    (State.needs s c n k).1.lc = s.lc := by
  unfold State.needs
  (repeat' split) <;> simp_all

@[simp] theorem State.needs_fuses (s : State) (c : Carrier) (n : ℕ) (k : State → State × Answer) (hk : ∀ s, (k s).1.fuses = s.fuses) :
    (State.needs s c n k).1.fuses = s.fuses := by
  unfold State.needs
  (repeat' split) <;> simp_all

@[simp] theorem State.needs_tri_lcBusy (s : State) (c : Carrier) (n : ℕ) (k : State → State × Answer) (hk : ∀ s, (k s).1.tri.lcBusy = s.tri.lcBusy) :
    (State.needs s c n k).1.tri.lcBusy = s.tri.lcBusy := by
  unfold State.needs
  (repeat' split) <;> simp_all

@[simp] theorem State.needs_tri_lcTarget (s : State) (c : Carrier) (n : ℕ) (k : State → State × Answer) (hk : ∀ s, (k s).1.tri.lcTarget = s.tri.lcTarget) :
    (State.needs s c n k).1.tri.lcTarget = s.tri.lcTarget := by
  unfold State.needs
  (repeat' split) <;> simp_all

@[simp] theorem State.drawBytes_keeps (s : State) (n) : Keeps s (State.drawBytes s n).2 := by
  unfold Keeps State.drawBytes
  simp

@[simp] theorem execGetVersion_keeps (c) (s : State) (s0 : State) : Keeps s (reached (execGetVersion c s) s0) := by
  unfold Keeps execGetVersion reached
  simp

@[simp] theorem execGetCapabilities_keeps (c) (s : State) (s0 : State) :
    Keeps s (reached (execGetCapabilities c s) s0) := by
  unfold Keeps execGetCapabilities reached
  simp

@[simp] theorem execNegotiateAlgorithms_keeps (c supported) (s : State) (s0 : State) :
    Keeps s (reached (execNegotiateAlgorithms c supported s) s0) := by
  unfold Keeps execNegotiateAlgorithms reached
  simp

@[simp] theorem execGetDigests_keeps (c) (s : State) (s0 : State) : Keeps s (reached (execGetDigests c s) s0) := by
  unfold Keeps execGetDigests reached
  simp

@[simp] theorem execGetCertificate_keeps (c slot off len) (s : State) (s0 : State) :
    Keeps s (reached (execGetCertificate c slot off len s) s0) := by
  unfold Keeps execGetCertificate reached
  simp

@[simp] theorem execChallenge_keeps (c slot) (s : State) (s0 : State) :
    Keeps s (reached (execChallenge c slot s) s0) := by
  unfold Keeps execChallenge reached
  simp

theorem State.measurement_keeps (s : State) (i n : Nat) (m : List Byte × State) (h : s.measurement i n = some m) :
    Keeps s m.2 := by
  unfold Keeps
  unfold State.measurement at h
  split at h <;> first | (cases h; simp) | cases h
@[simp] theorem State.measBlocks_keeps (s : State) (ixs nonce) : Keeps s (State.measBlocks s ixs nonce).2 := by
  unfold Keeps
  unfold State.measBlocks
  refine ⟨foldl_snd_pending _ _ _ ?_, foldl_snd_lc _ _ _ ?_, foldl_snd_fuses _ _ _ ?_, foldl_snd_tri_lcBusy _ _ _ ?_, foldl_snd_tri_lcTarget _ _ _ ?_⟩ <;>
    (intro r i; split
     · next h => simp [State.measurement_keeps _ _ _ _ h]
     · rfl)

@[simp] theorem execGetMeasurements_keeps (c slot index nonce) (s : State) (s0 : State) :
    Keeps s (reached (execGetMeasurements c slot index nonce s) s0) := by
  unfold Keeps execGetMeasurements reached
  simp

@[simp] theorem execKeyExchange_keeps (c slot needsMutual) (s : State) (s0 : State) :
    Keeps s (reached (execKeyExchange c slot needsMutual s) s0) := by
  unfold Keeps execKeyExchange reached
  simp

@[simp] theorem execSpdmFinish_keeps (c session macOk) (s : State) (s0 : State) :
    Keeps s (reached (execSpdmFinish c session macOk s) s0) := by
  unfold Keeps
  unfold execSpdmFinish reached
  refine ⟨State.requestx_pending _ _ _ _ _ ?_, State.requestx_lc _ _ _ _ _ ?_, State.requestx_fuses _ _ _ _ _ ?_, State.requestx_tri_lcBusy _ _ _ _ _ ?_, State.requestx_tri_lcTarget _ _ _ _ _ ?_⟩ <;> (intro s; (repeat' split) <;> simp)

@[simp] theorem State.inSession_pending (s : State) (c : Carrier) (id : ℕ) (k : State → State × Answer) (hk : ∀ s, (k s).1.pending = s.pending) :
    (State.inSession s c id k).1.pending = s.pending := by
  unfold State.inSession
  (repeat' split) <;> simp_all

@[simp] theorem State.inSession_lc (s : State) (c : Carrier) (id : ℕ) (k : State → State × Answer) (hk : ∀ s, (k s).1.lc = s.lc) :
    (State.inSession s c id k).1.lc = s.lc := by
  unfold State.inSession
  (repeat' split) <;> simp_all

@[simp] theorem State.inSession_fuses (s : State) (c : Carrier) (id : ℕ) (k : State → State × Answer) (hk : ∀ s, (k s).1.fuses = s.fuses) :
    (State.inSession s c id k).1.fuses = s.fuses := by
  unfold State.inSession
  (repeat' split) <;> simp_all

@[simp] theorem State.inSession_tri_lcBusy (s : State) (c : Carrier) (id : ℕ) (k : State → State × Answer) (hk : ∀ s, (k s).1.tri.lcBusy = s.tri.lcBusy) :
    (State.inSession s c id k).1.tri.lcBusy = s.tri.lcBusy := by
  unfold State.inSession
  (repeat' split) <;> simp_all

@[simp] theorem State.inSession_tri_lcTarget (s : State) (c : Carrier) (id : ℕ) (k : State → State × Answer) (hk : ∀ s, (k s).1.tri.lcTarget = s.tri.lcTarget) :
    (State.inSession s c id k).1.tri.lcTarget = s.tri.lcTarget := by
  unfold State.inSession
  (repeat' split) <;> simp_all

@[simp] theorem execHeartbeat_keeps (c session) (s : State) (s0 : State) :
    Keeps s (reached (execHeartbeat c session s) s0) := by
  unfold Keeps execHeartbeat reached
  simp

@[simp] theorem execKeyUpdate_keeps (c session) (s : State) (s0 : State) :
    Keeps s (reached (execKeyUpdate c session s) s0) := by
  unfold Keeps execKeyUpdate reached
  simp

@[simp] theorem execEndSession_keeps (c session) (s : State) (s0 : State) :
    Keeps s (reached (execEndSession c session s) s0) := by
  unfold Keeps execEndSession reached
  simp

@[simp] theorem execRespondIfReady_keeps (c session) (s : State) (s0 : State) :
    Keeps s (reached (execRespondIfReady c session s) s0) := by
  unfold Keeps
  unfold execRespondIfReady reached
  refine ⟨State.requestx_pending _ _ _ _ _ (fun s => State.inSession_pending _ _ _ _ ?_), State.requestx_lc _ _ _ _ _ (fun s => State.inSession_lc _ _ _ _ ?_), State.requestx_fuses _ _ _ _ _ (fun s => State.inSession_fuses _ _ _ _ ?_), State.requestx_tri_lcBusy _ _ _ _ _ (fun s => State.inSession_tri_lcBusy _ _ _ _ ?_), State.requestx_tri_lcTarget _ _ _ _ _ (fun s => State.inSession_tri_lcTarget _ _ _ _ ?_)⟩ <;> (intro s; (repeat' split) <;> simp)

@[simp] theorem State.vendor_pending (s : State) (r : VReq) (op : ℕ) (needSession : Bool) (reserved : Bool) (k : State → VRes) (hk : ∀ s, (k s).after.pending = s.pending) :
    (State.vendor s r op needSession reserved k).pending = s.pending := by
  unfold State.vendor
  refine State.requestx_pending _ _ _ _ _ (fun s => ?_)
  dsimp only
  split
  · refine State.inSession_pending _ _ _ _ (fun s => ?_)
    dsimp only
    (repeat' split) <;> simp_all
  · dsimp only
    (repeat' split) <;> simp_all

@[simp] theorem State.vendor_lc (s : State) (r : VReq) (op : ℕ) (needSession : Bool) (reserved : Bool) (k : State → VRes) (hk : ∀ s, (k s).after.lc = s.lc) :
    (State.vendor s r op needSession reserved k).lc = s.lc := by
  unfold State.vendor
  refine State.requestx_lc _ _ _ _ _ (fun s => ?_)
  dsimp only
  split
  · refine State.inSession_lc _ _ _ _ (fun s => ?_)
    dsimp only
    (repeat' split) <;> simp_all
  · dsimp only
    (repeat' split) <;> simp_all

@[simp] theorem State.vendor_fuses (s : State) (r : VReq) (op : ℕ) (needSession : Bool) (reserved : Bool) (k : State → VRes) (hk : ∀ s, (k s).after.fuses = s.fuses) :
    (State.vendor s r op needSession reserved k).fuses = s.fuses := by
  unfold State.vendor
  refine State.requestx_fuses _ _ _ _ _ (fun s => ?_)
  dsimp only
  split
  · refine State.inSession_fuses _ _ _ _ (fun s => ?_)
    dsimp only
    (repeat' split) <;> simp_all
  · dsimp only
    (repeat' split) <;> simp_all

@[simp] theorem State.vendor_tri_lcBusy (s : State) (r : VReq) (op : ℕ) (needSession : Bool) (reserved : Bool) (k : State → VRes) (hk : ∀ s, (k s).after.tri.lcBusy = s.tri.lcBusy) :
    (State.vendor s r op needSession reserved k).tri.lcBusy = s.tri.lcBusy := by
  unfold State.vendor
  refine State.requestx_tri_lcBusy _ _ _ _ _ (fun s => ?_)
  dsimp only
  split
  · refine State.inSession_tri_lcBusy _ _ _ _ (fun s => ?_)
    dsimp only
    (repeat' split) <;> simp_all
  · dsimp only
    (repeat' split) <;> simp_all

@[simp] theorem State.vendor_tri_lcTarget (s : State) (r : VReq) (op : ℕ) (needSession : Bool) (reserved : Bool) (k : State → VRes) (hk : ∀ s, (k s).after.tri.lcTarget = s.tri.lcTarget) :
    (State.vendor s r op needSession reserved k).tri.lcTarget = s.tri.lcTarget := by
  unfold State.vendor
  refine State.requestx_tri_lcTarget _ _ _ _ _ (fun s => ?_)
  dsimp only
  split
  · refine State.inSession_tri_lcTarget _ _ _ _ (fun s => ?_)
    dsimp only
    (repeat' split) <;> simp_all
  · dsimp only
    (repeat' split) <;> simp_all

@[simp] theorem execDomainOpen_keeps (r d flags key seed) (s : State) (s0 : State) :
    Keeps s (reached (execDomainOpen r d flags key seed s) s0) := by
  unfold Keeps
  unfold execDomainOpen reached
  refine ⟨State.vendor_pending _ _ _ _ _ _ ?_, State.vendor_lc _ _ _ _ _ _ ?_, State.vendor_fuses _ _ _ _ _ _ ?_, State.vendor_tri_lcBusy _ _ _ _ _ _ ?_, State.vendor_tri_lcTarget _ _ _ _ _ _ ?_⟩ <;> (intro s; dsimp only; (repeat' split) <;> simp)

@[simp] theorem execDomainClaim_keeps (r d sigR sigS) (s : State) (s0 : State) :
    Keeps s (reached (execDomainClaim r d sigR sigS s) s0) := by
  unfold Keeps
  unfold execDomainClaim reached
  refine ⟨State.vendor_pending _ _ _ _ _ _ ?_, State.vendor_lc _ _ _ _ _ _ ?_, State.vendor_fuses _ _ _ _ _ _ ?_, State.vendor_tri_lcBusy _ _ _ _ _ _ ?_, State.vendor_tri_lcTarget _ _ _ _ _ _ ?_⟩ <;> (intro s; dsimp only; (repeat' split) <;> simp)

@[simp] theorem State.owned_pending (s : State) (r d) (k : State → VRes) (hk : ∀ s, (k s).after.pending = s.pending) :
    (s.owned r d k).after.pending = s.pending := by
  unfold State.owned
  (repeat' split) <;> simp_all
@[simp] theorem State.owned_lc (s : State) (r d) (k : State → VRes) (hk : ∀ s, (k s).after.lc = s.lc) :
    (s.owned r d k).after.lc = s.lc := by
  unfold State.owned
  (repeat' split) <;> simp_all
@[simp] theorem State.owned_fuses (s : State) (r d) (k : State → VRes) (hk : ∀ s, (k s).after.fuses = s.fuses) :
    (s.owned r d k).after.fuses = s.fuses := by
  unfold State.owned
  (repeat' split) <;> simp_all
@[simp] theorem State.owned_tri_lcBusy (s : State) (r d) (k : State → VRes) (hk : ∀ s, (k s).after.tri.lcBusy = s.tri.lcBusy) :
    (s.owned r d k).after.tri.lcBusy = s.tri.lcBusy := by
  unfold State.owned
  (repeat' split) <;> simp_all
@[simp] theorem State.owned_tri_lcTarget (s : State) (r d) (k : State → VRes) (hk : ∀ s, (k s).after.tri.lcTarget = s.tri.lcTarget) :
    (s.owned r d k).after.tri.lcTarget = s.tri.lcTarget := by
  unfold State.owned
  (repeat' split) <;> simp_all
@[simp] theorem execDomainClose_keeps (r d) (s : State) (s0 : State) :
    Keeps s (reached (execDomainClose r d s) s0) := by
  unfold Keeps
  unfold execDomainClose reached
  refine ⟨State.vendor_pending _ _ _ _ _ _ ?_, State.vendor_lc _ _ _ _ _ _ ?_, State.vendor_fuses _ _ _ _ _ _ ?_, State.vendor_tri_lcBusy _ _ _ _ _ _ ?_, State.vendor_tri_lcTarget _ _ _ _ _ _ ?_⟩ <;>
    (intro s; simp)

@[simp] theorem execGetImportKey_keeps (r d) (s : State) (s0 : State) :
    Keeps s (reached (execGetImportKey r d s) s0) := by
  unfold Keeps
  unfold execGetImportKey reached
  refine ⟨State.vendor_pending _ _ _ _ _ _ ?_, State.vendor_lc _ _ _ _ _ _ ?_, State.vendor_fuses _ _ _ _ _ _ ?_, State.vendor_tri_lcBusy _ _ _ _ _ _ ?_, State.vendor_tri_lcTarget _ _ _ _ _ _ ?_⟩ <;>
    (intro s; simp)

@[simp] theorem execSetRules_keeps (r d row rule) (s : State) (s0 : State) :
    Keeps s (reached (execSetRules r d row rule s) s0) := by
  unfold Keeps
  unfold execSetRules reached
  refine ⟨State.vendor_pending _ _ _ _ _ _ ?_, State.vendor_lc _ _ _ _ _ _ ?_, State.vendor_fuses _ _ _ _ _ _ ?_, State.vendor_tri_lcBusy _ _ _ _ _ _ ?_, State.vendor_tri_lcTarget _ _ _ _ _ _ ?_⟩ <;>
    (intro s; dsimp only; split <;> simp (disch := (intro s; split <;> simp)))

@[simp] theorem State.getReport_keeps (s : State) (r a b c d e) : Keeps s (s.getReport r a b c d e).after := by
  unfold Keeps
  unfold State.getReport
  (repeat' split) <;> simp
@[simp] theorem execGetReport_keeps (r scope id off len nonce) (s : State) (s0 : State) :
    Keeps s (reached (execGetReport r scope id off len nonce s) s0) := by
  unfold Keeps
  unfold execGetReport reached
  refine ⟨State.vendor_pending _ _ _ _ _ _ ?_, State.vendor_lc _ _ _ _ _ _ ?_, State.vendor_fuses _ _ _ _ _ _ ?_, State.vendor_tri_lcBusy _ _ _ _ _ _ ?_, State.vendor_tri_lcTarget _ _ _ _ _ _ ?_⟩ <;>
    (intro s; (repeat' split) <;> simp)

@[simp] theorem execSignerSet_keeps (r slot kinds key) (s : State) (s0 : State) :
    Keeps s (reached (execSignerSet r slot kinds key s) s0) := by
  unfold Keeps
  unfold execSignerSet reached
  refine ⟨State.vendor_pending _ _ _ _ _ _ ?_, State.vendor_lc _ _ _ _ _ _ ?_, State.vendor_fuses _ _ _ _ _ _ ?_, State.vendor_tri_lcBusy _ _ _ _ _ _ ?_, State.vendor_tri_lcTarget _ _ _ _ _ _ ?_⟩ <;> (intro s; dsimp only; (repeat' split) <;> simp)

@[simp] theorem execTestOpen_keeps (r parts) (s : State) (s0 : State) :
    Keeps s (reached (execTestOpen r parts s) s0) := by
  unfold Keeps
  unfold execTestOpen reached
  refine ⟨State.vendor_pending _ _ _ _ _ _ ?_, State.vendor_lc _ _ _ _ _ _ ?_, State.vendor_fuses _ _ _ _ _ _ ?_, State.vendor_tri_lcBusy _ _ _ _ _ _ ?_, State.vendor_tri_lcTarget _ _ _ _ _ _ ?_⟩ <;> (intro s; dsimp only; (repeat' split) <;> simp)

@[simp] theorem execTriMbxGo_keeps (value) (s : State) (s0 : State) :
    Keeps s (reached (execTriMbxGo value s) s0) := by
  unfold Keeps execTriMbxGo reached
  simp

@[simp] theorem execTriMbxAbort_keeps (value) (s : State) (s0 : State) :
    Keeps s (reached (execTriMbxAbort value s) s0) := by
  unfold Keeps execTriMbxAbort reached
  simp

@[simp] theorem State.tokenCheck_keeps (s : State) (target) : Keeps s (State.tokenCheck s target).2 := by
  unfold Keeps State.tokenCheck
  (repeat' split) <;> simp_all

@[simp] theorem State.lcRefuse_keeps (s : State) (r) : Keeps s (State.lcRefuse s r) := by
  unfold Keeps State.lcRefuse
  simp

@[simp] theorem State.lcAccept_keeps (s : State) (target) : Persists s (State.lcAccept s target) := by
  unfold Persists State.lcAccept
  simp

@[simp] theorem State.lcAuth_keeps (s : State) (token target) : Keeps s (State.lcAuth s token target).2 := by
  unfold Keeps State.lcAuth
  (repeat' split) <;> simp_all

@[simp] theorem State.lcGo_keeps (s : State) (target authorised) : Persists s (State.lcGo s target authorised) := by
  unfold Persists State.lcGo
  simp

@[simp] theorem State.lcAsk_keeps (s : State) (target) : Persists s (State.lcAsk s target) := by
  unfold Persists State.lcAsk
  (repeat' split) <;> simp_all

@[simp] theorem execLcRequest_keeps (value) (s : State) (s0 : State) :
    Persists s (reached (execLcRequest value s) s0) := by
  unfold Persists execLcRequest reached
  dsimp only
  (repeat' split) <;> simp

@[simp] theorem execLcFuseBlown_keeps (s : State) (s0 : State) :
    (reached (execLcFuseBlown s) s0).pending = s.pending := by
  unfold execLcFuseBlown reached
  simp

@[simp] theorem execSvnFloorRaise_keeps (which level sigOk) (s : State) (s0 : State) :
    (reached (execSvnFloorRaise which level sigOk s) s0).pending = s.pending ∧ (reached (execSvnFloorRaise which level sigOk s) s0).lc = s.lc ∧ (reached (execSvnFloorRaise which level sigOk s) s0).tri.lcBusy = s.tri.lcBusy ∧ (reached (execSvnFloorRaise which level sigOk s) s0).tri.lcTarget = s.tri.lcTarget := by
  unfold execSvnFloorRaise reached
  simp


end Sys2Proof.Machine
end

