-- ==== Sys2Proof/Laws/KeepsMigration.lean ====
section
/-! SUPPORT. What the operations and commands of migration keep. -/

namespace Sys2Proof.Machine

/-! ### Migration -/

@[simp] theorem State.migHeader_keeps (s : State) (p nonce) : Keeps s (State.migHeader s p nonce).2 := by
  unfold Keeps State.migHeader
  simp

@[simp] theorem State.flushCache_keeps (s : State) (p) : Keeps s (State.flushCache s p) := by
  unfold Keeps State.flushCache
  simp

@[simp] theorem State.takeDirty_keeps (s : State) (p) : Keeps s (State.takeDirty s p).2 := by
  unfold Keeps State.takeDirty
  simp

@[simp] theorem State.noteItem_keeps (s : State) (p x2) : Keeps s (State.noteItem s p x2) := by
  unfold Keeps State.noteItem
  (repeat' split) <;> simp_all

@[simp] theorem State.ecdhe_keeps (s : State) : Keeps s s.ecdhe.2.2 := by simp [Keeps, State.ecdhe]
@[simp] theorem emit_keeps (l n e) (s : State) : Keeps s (emit l n e s).state := by
  unfold Keeps
  induction l generalizing n e s with
  | nil => simp [emit]
  | cons i is ih =>
    unfold emit
    dsimp only
    split
    · simp
    · simp [ih]
@[simp] theorem State.exportEnd_keeps (s : State) (j op e) (hello : List Byte) :
    Keeps s (State.exportEnd s j op e hello) := by
  unfold Keeps State.exportEnd
  dsimp only
  (repeat' split) <;> simp

@[simp] theorem State.sourceHello_keeps (s : State) (p nonce pub) : Keeps s (State.sourceHello s p nonce pub).2 := by
  unfold Keeps State.sourceHello
  simp

@[simp] theorem execExportStart_keeps (j peer) (s : State) (s0 : State) :
    Keeps s (reached (execExportStart j peer s) s0) := by
  unfold Keeps execExportStart reached
  dsimp only
  (repeat' split) <;> simp

@[simp] theorem execExportRound_keeps (j) (s : State) (s0 : State) : Keeps s (reached (execExportRound j s) s0) := by
  unfold Keeps execExportRound reached
  dsimp only
  (repeat' split) <;> simp

@[simp] theorem execExportFinal_keeps (j) (s : State) (s0 : State) : Keeps s (reached (execExportFinal j s) s0) := by
  unfold Keeps execExportFinal reached
  dsimp only
  (repeat' split) <;> simp

@[simp] theorem execExportCancel_keeps (j) (s : State) (s0 : State) :
    Keeps s (reached (execExportCancel j s) s0) := by
  unfold Keeps execExportCancel reached
  dsimp only
  (repeat' split) <;> simp

@[simp] theorem execExportRelease_keeps (j) (s : State) (s0 : State) :
    Keeps s (reached (execExportRelease j s) s0) := by
  unfold Keeps execExportRelease reached
  dsimp only
  (repeat' split) <;> simp

@[simp] theorem State.modImp_keeps (s : State) (f) : Keeps s (State.modImp s f) := by
  unfold Keeps State.modImp
  simp

@[simp] theorem State.rekeyDomain_keeps (s : State) (p : Nat) (d : Nat) (kd : Key256) :
    Keeps s (State.rekeyDomain s p d kd) := by
  unfold Keeps State.rekeyDomain
  try dsimp only
  simp

@[simp] theorem State.loadEntry_keeps (s : State) (p b) : Keeps s (State.loadEntry s p b) := by
  unfold Keeps
  unfold State.loadEntry
  dsimp only
  refine ⟨?_, ?_, ?_, ?_, ?_⟩ <;> simp

@[simp] theorem broken_ok (t) : (broken = .ok t) = False := by simp [broken]
theorem State.loadPage_keeps (s : State) (p b) (t) (h : s.loadPage p b = .ok t) : Keeps s t := by
  unfold Keeps
  unfold State.loadPage at h
  dsimp only at h
  (repeat' split at h) <;>
    first
    | (cases h; done)
    | (simp only [Except.ok.injEq] at h; subst h; simp)
theorem State.loadWay_keeps (s : State) (p b) (t) (h : s.loadWay p b = .ok t) : Keeps s t := by
  unfold Keeps
  unfold State.loadWay at h
  dsimp only at h
  (repeat' split at h) <;>
    first
    | (cases h; done)
    | (simp only [Except.ok.injEq] at h; subst h; simp)
theorem State.loadContext_keeps (s : State) (p im b) (t) (h : s.loadContext p im b = .ok t) : Keeps s t := by
  unfold Keeps
  unfold State.loadContext at h
  dsimp only at h
  (repeat' split at h) <;>
    first
    | (cases h; done)
    | (simp only [Except.ok.injEq] at h; subst h; simp)
theorem State.loadDomain_keeps (s : State) (p b) (t) (h : s.loadDomain p b = .ok t) : Keeps s t := by
  unfold Keeps
  unfold State.loadDomain at h
  dsimp only at h
  (repeat' split at h) <;>
    first
    | (cases h; done)
    | (simp only [Except.ok.injEq] at h; subst h; simp)
theorem State.loadDirectory_keeps (s : State) (p b) (t) (h : s.loadDirectory p b = .ok t) : Keeps s t := by
  unfold Keeps
  unfold State.loadDirectory at h
  dsimp only at h
  (repeat' split at h) <;>
    first
    | (cases h; done)
    | (simp only [Except.ok.injEq] at h; subst h; simp)
@[simp] theorem State.loadSetEntry_keeps (s : State) (p k b) : Keeps s (State.loadSetEntry s p k b) := by
  unfold Keeps State.loadSetEntry
  simp

@[simp] theorem State.loadSlot_keeps (s : State) (p k b) : Keeps s (State.loadSlot s p k b) := by
  unfold Keeps State.loadSlot
  simp

@[simp] theorem State.ticket_keeps (s : State) (p nonce pub) : Keeps s (State.ticket s p nonce pub).2 := by
  unfold Keeps State.ticket
  simp

theorem State.loadPartition_keeps (s : State) (p b) (t) (h : s.loadPartition p b = .ok t) : Keeps s t := by
  unfold Keeps
  unfold State.loadPartition at h
  dsimp only at h
  (repeat' split at h) <;>
    first
    | (cases h; done)
    | (simp only [Except.ok.injEq] at h; subst h; simp)
theorem State.loadHost_keeps (s : State) (p b) (t) (h : s.loadHost p b = .ok t) : Keeps s t := by
  unfold Keeps
  unfold State.loadHost at h
  dsimp only at h
  (repeat' split at h) <;>
    first
    | (cases h; done)
    | (next h1 => simp only [Except.ok.injEq] at h; subst h; exact State.hostPlace_keeps _ _ _ _ _ _ _ h1)
theorem State.loadEnd_keeps (s : State) (im b) (t) (h : s.loadEnd im b = .ok t) : Keeps s t := by
  unfold Keeps
  unfold State.loadEnd at h
  (repeat' split at h) <;>
    first
    | (cases h; done)
    | (simp only [Except.ok.injEq] at h; subst h; simp)
theorem State.loadBody_keeps (s : State) (im typ b t) (h : s.loadBody im typ b = .ok t) : Keeps s t := by
  unfold Keeps
  unfold State.loadBody at h
  split at h
  · exact State.loadPage_keeps _ _ _ _ h
  · exact State.loadWay_keeps _ _ _ _ h
  · exact State.loadContext_keeps _ _ _ _ _ h
  · exact State.loadDomain_keeps _ _ _ _ h
  · exact State.loadDirectory_keeps _ _ _ _ h
  · exact State.loadPartition_keeps _ _ _ _ h
  · exact State.loadEnd_keeps _ _ _ _ h
  · exact State.loadHost_keeps _ _ _ _ h
theorem State.loadRecord_keeps (s : State) (im buf n t) (h : s.loadRecord im buf = .ok (n, t)) : Keeps s t := by
  unfold Keeps
  unfold State.loadRecord at h
  dsimp only at h
  (repeat' split at h) <;> first | (cases h; done) | skip
  next h1 =>
    simp only [Except.ok.injEq, Prod.mk.injEq] at h
    obtain ⟨-, rfl⟩ := h
    simpa using State.loadBody_keeps _ _ _ _ _ h1
theorem State.loadHello_keeps (s : State) (im peer buf n t) (h : s.loadHello im peer buf = .ok (n, t)) :
    Keeps s t := by
  unfold Keeps
  unfold State.loadHello at h
  dsimp only at h
  (repeat' split at h) <;> first | (cases h; done) | skip
  simp only [Except.ok.injEq, Prod.mk.injEq] at h
  obtain ⟨-, rfl⟩ := h
  simp
@[simp] theorem State.loadAll_keeps (peer k buf n) (s : State) : Keeps s (State.loadAll peer k buf n s).2.2 := by
  unfold Keeps
  induction k generalizing buf n s with
  | zero => simp [State.loadAll]
  | succ k ih =>
    unfold State.loadAll
    split
    · simp
    · split
      · simp
      · split
        · simp
        · next h =>
          split at h
          · have := State.loadRecord_keeps _ _ _ _ _ h; simp [ih, this]
          · have := State.loadHello_keeps _ _ _ _ _ _ h; simp [ih, this]
@[simp] theorem execImportPrepare_keeps (j) (s : State) (s0 : State) :
    Keeps s (reached (execImportPrepare j s) s0) := by
  unfold Keeps execImportPrepare reached
  dsimp only
  (repeat' split) <;> simp

@[simp] theorem execImportLoad_keeps (j peer) (s : State) (s0 : State) :
    Keeps s (reached (execImportLoad j peer s) s0) := by
  unfold Keeps execImportLoad reached
  dsimp only
  (repeat' split) <;> simp

@[simp] theorem State.settleCtxs_keeps (s : State) (im) : Keeps s (State.settleCtxs s im) := by
  unfold Keeps State.settleCtxs
  simp

@[simp] theorem execImportFinish_keeps (j) (s : State) (s0 : State) :
    Keeps s (reached (execImportFinish j s) s0) := by
  unfold Keeps execImportFinish reached
  dsimp only
  (repeat' split) <;> simp

@[simp] theorem execImportCancel_keeps (j) (s : State) (s0 : State) :
    Keeps s (reached (execImportCancel j s) s0) := by
  unfold Keeps execImportCancel reached
  dsimp only
  (repeat' split) <;> simp


end Sys2Proof.Machine
end

