-- ==== Sys2Proof/Laws/KeepsRegs.lean ====
section
/-! SUPPORT. What the operations and commands of register reads and writes keep. -/

namespace Sys2Proof.Machine

/-! ### Regs -/

@[simp] theorem State.snapshot_keeps (s : State) (off) : Keeps s (State.snapshot s off) := by
  unfold Keeps State.snapshot
  simp

@[simp] theorem State.answerData_keeps (s : State) (v) : Keeps s (State.answerData s v) := by
  unfold Keeps State.answerData
  simp

@[simp] theorem State.read32_keeps (s : State) (fn sp off) : Keeps s (State.read32 s fn sp off) := by
  unfold Keeps State.read32
  simp

@[simp] theorem State.access_keeps (s : State) (fn sp off size) : Keeps s (State.access s fn sp off size) := by
  unfold Keeps State.access
  simp

@[simp] theorem execLatchedRead_keeps (fn sp off size) (s : State) (s0 : State) :
    Keeps s (reached (execLatchedRead fn sp off size s) s0) := by
  unfold Keeps execLatchedRead reached
  simp

@[simp] theorem execAdirEntryRead_keeps (s : State) (s0 : State) : Keeps s (reached (execAdirEntryRead s) s0) := by
  unfold Keeps execAdirEntryRead reached
  simp

@[simp] theorem execTrainSlotRead_keeps (s : State) (s0 : State) : Keeps s (reached (execTrainSlotRead s) s0) := by
  unfold Keeps execTrainSlotRead reached
  simp

@[simp] theorem execParInfoRead_keeps (s : State) (s0 : State) : Keeps s (reached (execParInfoRead s) s0) := by
  unfold Keeps execParInfoRead reached
  simp

@[simp] theorem execRegisterAccessInL2_keeps (sp off) (s : State) (s0 : State) :
    Keeps s (reached (execRegisterAccessInL2 sp off s) s0) := by
  unfold Keeps execRegisterAccessInL2 reached
  simp

/-! ### RegWrite -/

@[simp] theorem State.clearMul_keeps (s : State) : Keeps s (State.clearMul s) := by
  unfold Keeps State.clearMul
  simp

@[simp] theorem State.clearAt_keeps (s : State) (x1) : Keeps s (State.clearAt s x1) := by
  unfold Keeps State.clearAt
  dsimp only
  (repeat' split) <;> simp

@[simp] theorem State.clearEcc_keeps (s : State) (x1) : Keeps s (State.clearEcc s x1) := by
  unfold Keeps State.clearEcc
  dsimp only
  (repeat' split) <;> simp

@[simp] theorem State.freezeAt_keeps (s : State) (b x2) : Keeps s (State.freezeAt s b x2) := by
  unfold Keeps State.freezeAt
  dsimp only
  (repeat' split) <;> simp

@[simp] theorem State.pfWrite_pending (s : State) (off : ℕ) (k : State → State) (hk : ∀ s, (k s).pending = s.pending) :
    (State.pfWrite s off k).pending = s.pending := by
  unfold State.pfWrite
  (repeat' split) <;> simp_all

@[simp] theorem State.pfWrite_lc (s : State) (off : ℕ) (k : State → State) (hk : ∀ s, (k s).lc = s.lc) :
    (State.pfWrite s off k).lc = s.lc := by
  unfold State.pfWrite
  (repeat' split) <;> simp_all

@[simp] theorem State.pfWrite_fuses (s : State) (off : ℕ) (k : State → State) (hk : ∀ s, (k s).fuses = s.fuses) :
    (State.pfWrite s off k).fuses = s.fuses := by
  unfold State.pfWrite
  (repeat' split) <;> simp_all

@[simp] theorem State.pfWrite_tri_lcBusy (s : State) (off : ℕ) (k : State → State) (hk : ∀ s, (k s).tri.lcBusy = s.tri.lcBusy) :
    (State.pfWrite s off k).tri.lcBusy = s.tri.lcBusy := by
  unfold State.pfWrite
  (repeat' split) <;> simp_all

@[simp] theorem State.pfWrite_tri_lcTarget (s : State) (off : ℕ) (k : State → State) (hk : ∀ s, (k s).tri.lcTarget = s.tri.lcTarget) :
    (State.pfWrite s off k).tri.lcTarget = s.tri.lcTarget := by
  unfold State.pfWrite
  (repeat' split) <;> simp_all

@[simp] theorem execCountersClear_keeps (off) (s : State) (s0 : State) :
    Keeps s (reached (execCountersClear off s) s0) := by
  unfold Keeps execCountersClear reached
  simp

@[simp] theorem execEccCountersClear_keeps (off) (s : State) (s0 : State) :
    Keeps s (reached (execEccCountersClear off s) s0) := by
  unfold Keeps execEccCountersClear reached
  simp

@[simp] theorem State.ctrlWrite_keeps (s : State) (p v) : Keeps s (State.ctrlWrite s p v) := by
  unfold Keeps State.ctrlWrite
  simp

@[simp] theorem execArchLevelSelect_keeps (value) (s : State) (s0 : State) :
    Keeps s (reached (execArchLevelSelect value s) s0) := by
  unfold Keeps execArchLevelSelect reached
  simp

@[simp] theorem State.glbWrite_keeps (s : State) (o v) : Persists s (State.glbWrite s o v) := by
  unfold Persists State.glbWrite
  dsimp only
  (repeat' split) <;> simp

@[simp] theorem State.pmWrite_keeps (s : State) (v) : Keeps s (State.pmWrite s v) := by
  unfold Keeps State.pmWrite
  simp

@[simp] theorem State.clkWrite_keeps (s : State) (o v) : Keeps s (State.clkWrite s o v) := by
  unfold Keeps State.clkWrite
  dsimp only
  (repeat' split) <;> simp

@[simp] theorem State.sdgWrite_keeps (s : State) (o v) : Keeps s (State.sdgWrite s o v) := by
  unfold Keeps State.sdgWrite
  dsimp only
  (repeat' split) <;> simp

@[simp] theorem State.rooWrite_keeps (s : State) (o v) : Keeps s (State.rooWrite s o v) := by
  unfold Keeps State.rooWrite
  dsimp only
  (repeat' split) <;> simp

@[simp] theorem State.triWrite_keeps (s : State) (o v) : Persists s (State.triWrite s o v) := by
  unfold Persists State.triWrite
  dsimp only
  (repeat' split) <;> simp

@[simp] theorem State.bindWrite_keeps (s : State) (v) : Keeps s (State.bindWrite s v) := by
  unfold Keeps State.bindWrite
  dsimp only
  (repeat' split) <;> simp

@[simp] theorem State.routeWrite_keeps (s : State) (n v) : Keeps s (State.routeWrite s n v) := by
  unfold Keeps State.routeWrite
  simp

@[simp] theorem State.janWrite_keeps (s : State) (p o v) : Keeps s (State.janWrite s p o v) := by
  unfold Keeps State.janWrite
  dsimp only
  (repeat' split) <;> simp

@[simp] theorem State.parCmdWrite_keeps (s : State) (v) : Keeps s (State.parCmdWrite s v) := by
  unfold Keeps State.parCmdWrite
  dsimp only
  (repeat' split) <;> simp

@[simp] theorem State.parWrite_keeps (s : State) (o v) : Keeps s (State.parWrite s o v) := by
  unfold Keeps State.parWrite
  dsimp only
  (repeat' split) <;> simp

@[simp] theorem State.mulWrite_keeps (s : State) (o v) : Keeps s (State.mulWrite s o v) := by
  unfold Keeps State.mulWrite
  dsimp only
  (repeat' split) <;> simp

@[simp] theorem State.hbmWrite_keeps (s : State) (k o v) : Keeps s (State.hbmWrite s k o v) := by
  unfold Keeps State.hbmWrite
  (repeat' split) <;> simp_all

@[simp] theorem State.quadWrite_keeps (s : State) (q o v) : Keeps s (State.quadWrite s q o v) := by
  unfold Keeps State.quadWrite
  simp

@[simp] theorem State.vxuWrite_keeps (s : State) (t v) : Keeps s (State.vxuWrite s t v) := by
  unfold Keeps State.vxuWrite
  simp

@[simp] theorem State.tileWrite_keeps (s : State) (t o v) : Keeps s (State.tileWrite s t o v) := by
  unfold Keeps State.tileWrite
  dsimp only
  (repeat' split) <;> simp

@[simp] theorem State.placeWrite_keeps (s : State) (v x2) : Persists s (State.placeWrite s v x2) := by
  unfold Persists State.placeWrite
  (repeat' split) <;> simp_all

@[simp] theorem State.queueWrite_keeps (s : State) (fn q r v) : Keeps s (State.queueWrite s fn q r v) := by
  unfold Keeps State.queueWrite
  dsimp only
  (repeat' split) <;> simp

@[simp] theorem State.ctxWrite_keeps (s : State) (v i r value) : Keeps s (State.ctxWrite s v i r value) := by
  unfold Keeps State.ctxWrite
  (repeat' split) <;> simp_all

@[simp] theorem State.evrWrite_keeps (s : State) (fn r v) : Keeps s (State.evrWrite s fn r v) := by
  unfold Keeps State.evrWrite
  (repeat' split) <;> simp_all

@[simp] theorem State.msixWrite_keeps (s : State) (fn i r v) : Keeps s (State.msixWrite s fn i r v) := by
  unfold Keeps State.msixWrite
  dsimp only
  (repeat' split) <;> simp

@[simp] theorem State.fnWrite_keeps (s : State) (fn o v) : Keeps s (State.fnWrite s fn o v) := by
  unfold Keeps State.fnWrite
  dsimp only
  (repeat' split) <;> simp

@[simp] theorem State.msixCtlWrite_keeps (s : State) (fn v) : Keeps s (State.msixCtlWrite s fn v) := by
  unfold Keeps State.msixCtlWrite
  simp

@[simp] theorem State.write32_keeps (s : State) (fn sp a v) : Persists s (State.write32 s fn sp a v) := by
  unfold Persists State.write32
  simp

@[simp] theorem State.dropSubword_keeps (s : State) : Keeps s (State.dropSubword s) := by
  unfold Keeps State.dropSubword
  simp

@[simp] theorem execRegisterWrite_keeps (fn sp off value size) (s : State) (s0 : State) :
    Persists s (reached (execRegisterWrite fn sp off value size s) s0) := by
  unfold Persists execRegisterWrite reached
  simp


end Sys2Proof.Machine
end

