-- ==== Sys2Proof/Laws/LifeCycle.lean ====
section
/-! SUPPORT. The life cycle: what resets and requests do to the request in progress, and the rules by which an
operation keeps `State.LifeOk`. -/

namespace Sys2Proof.Machine

/-- A request in progress in `t` was in progress in `s`, with the same target. -/
def Quiet (s t : State) : Prop :=
  t.tri.lcBusy = true → s.tri.lcBusy = true ∧ t.tri.lcTarget = s.tri.lcTarget

theorem Quiet.trans {s t u : State} (h : Quiet s t) (h' : Quiet t u) : Quiet s u :=
  fun hb => ⟨(h (h' hb).1).1, (h' hb).2.trans (h (h' hb).1).2⟩

theorem Quiet.of_keeps {s t : State} (h : Keeps s t) : Quiet s t :=
  fun hb => ⟨h.2.2.2.1 ▸ hb, h.2.2.2.2⟩

theorem Quiet.of_idle {s t : State} (h : t.tri.lcBusy = false) : Quiet s t := fun hb => by simp [h] at hb

/-- A choice between two quiet states is quiet. -/
theorem Quiet.ite {s a b : State} (c : Prop) [Decidable c] (ha : Quiet s a) (hb : Quiet s b) :
    Quiet s (if c then a else b) := by split <;> assumption

/-- An operation that keeps the life cycle and is quiet keeps `LifeOk`. -/
theorem State.LifeOk.of_quiet {s t : State} (h : s.LifeOk) (hp : Persists s t) (hq : Quiet s t) : t.LifeOk := by
  obtain ⟨-, hl, hf⟩ := hp
  refine ⟨hl ▸ h.1, hf ▸ h.2.1, fun hb => ?_⟩
  obtain ⟨h1, h2⟩ := hq hb
  rw [hl, hf, h2]
  exact h.2.2 h1

theorem State.LifeOk.of_keeps {s t : State} (h : s.LifeOk) (hk : Keeps s t) : t.LifeOk :=
  h.of_quiet ⟨hk.1, hk.2.1, hk.2.2.1⟩ (Quiet.of_keeps hk)

/-- A change of TRITON's registers that leaves the request in progress. -/
theorem State.LifeOk.tri {s : State} (h : s.LifeOk) (x : Triton) (hb : x.lcBusy = s.tri.lcBusy)
    (ht : x.lcTarget = s.tri.lcTarget) : State.LifeOk { s with tri := x } :=
  ⟨h.1, h.2.1, fun b => by rw [ht]; exact h.2.2 (hb ▸ b)⟩

/-! ### Triggers end a request -/

theorem State.abandon_idle (s : State) (cause : Nat) (cold : Bool) : (s.abandon cause cold).tri.lcBusy = false := rfl

theorem State.resetTrigger_idle (s : State) (cause : Nat) : (s.resetTrigger cause).tri.lcBusy = false := by
  unfold State.resetTrigger
  simp [State.abandon_idle]

theorem State.enterL3_idle (s : State) : s.enterL3.tri.lcBusy = false := rfl

theorem State.powerLoss_idle (s : State) (m : MainRail) : (s.powerLoss m).tri.lcBusy = false := rfl

theorem State.wakeUp_idle (s : State) (n : Nat) : (s.wakeUp n).tri.lcBusy = false := by
  unfold State.wakeUp
  exact State.resetTrigger_idle ..

theorem State.fireAlways_quiet (s : State) (n : Nat) : Quiet s (s.fireAlways n) := by
  unfold State.fireAlways
  exact Quiet.ite _ (Quiet.of_idle (State.wakeUp_idle ..)) (Quiet.of_keeps (State.fire_keeps ..))

theorem State.mainFault_quiet (s : State) (runs : Bool) (causes : List Nat) (sensor : Nat) :
    Quiet s (s.mainFault runs causes sensor) := by
  unfold State.mainFault
  exact Quiet.ite _ (fun h => ⟨h, rfl⟩) (Quiet.of_idle (State.powerLoss_idle ..))

theorem State.smbAnswer_quiet (s : State) (a : Answer) : Quiet s (s.smbAnswer a) := by
  unfold State.smbAnswer
  refine Quiet.ite _ ?_ (fun h => ⟨h, rfl⟩)
  exact Quiet.trans (t := { s with reply := a }) (fun h => ⟨h, rfl⟩) (State.fireAlways_quiet { s with reply := a } _)

/-! ### Requests -/

/-- Accepting a transition: the request in progress leads to its target. -/
theorem State.lcAccept_tri (s : State) (target : Nat) :
    (s.lcAccept target).tri.lcBusy = true ∧ (s.lcAccept target).tri.lcTarget = target := ⟨rfl, rfl⟩

/-- What follows the checks of the transition keeps `LifeOk` where the table has it. -/
theorem State.lcGo_lifeOk (s : State) (target : Nat) (ok : Bool) (h : s.LifeOk) (ht : (lcTransition s.lc target).isSome = true) :
    (s.lcGo target ok).LifeOk := by
  unfold State.lcGo
  split
  · exact h.of_keeps (State.lcRefuse_keeps ..)
  · split
    · exact h.of_keeps (State.lcRefuse_keeps ..)
    · split
      · exact h.of_keeps (State.lcRefuse_keeps ..)
      · next hfuse =>
        obtain ⟨-, hl, hf⟩ := State.lcAccept_keeps s target
        refine ⟨hl ▸ h.1, hf ▸ h.2.1, fun _ => ?_⟩
        rw [hl, hf, (State.lcAccept_tri s target).2]
        exact ⟨ht, by omega⟩

/-- A request keeps `LifeOk`. -/
theorem State.lcAsk_lifeOk (s : State) (target : Nat) (h : s.LifeOk) : (s.lcAsk target).LifeOk := by
  unfold State.lcAsk
  split
  · exact h.of_keeps (State.lcRefuse_keeps ..)
  · next token htr =>
    have hk := State.lcAuth_keeps s token target
    exact State.lcGo_lifeOk _ _ _ (h.of_keeps hk) (by rw [hk.2.1, htr]; rfl)

/-- LC_REQUEST keeps `LifeOk`: it accepts only a transition of Table 11.12, with a fuse left. -/
theorem execLcRequest_lifeOk (value : Nat) (s s0 : State) (h : s.LifeOk) :
    (reached (execLcRequest value s) s0).LifeOk := by
  unfold execLcRequest
  rw [reached_next]
  split
  · exact h
  · dsimp only
    split
    · exact h.of_keeps ⟨rfl, rfl, rfl, rfl, rfl⟩
    · apply State.lcAsk_lifeOk
      apply h.of_keeps
      exact ⟨rfl, rfl, rfl, rfl, rfl⟩

/-! ### Register writes -/

theorem State.triWrite_lifeOk (s : State) (o v : Nat) (h : s.LifeOk) : (s.triWrite o v).LifeOk := by
  unfold State.triWrite
  split
  · exact execLcRequest_lifeOk _ _ _ h
  · exact h.of_keeps ⟨rfl, rfl, rfl, rfl, rfl⟩
  · exact h.tri _ rfl rfl
  · dsimp only
    refine State.LifeOk.of_keeps ?_ (execTriMbxGo_keeps ..)
    split
    · exact h.of_keeps (execTriMbxAbort_keeps ..)
    · exact h
  · exact h.of_keeps (State.ctrlWrite_keeps ..)
  · split
    · exact h.of_keeps ⟨rfl, rfl, rfl, rfl, rfl⟩
    · split <;> exact h.of_keeps ⟨rfl, rfl, rfl, rfl, rfl⟩

theorem State.glbWrite_quiet (s : State) (o v : Nat) : Quiet s (s.glbWrite o v) := by
  unfold State.glbWrite
  split
  · exact Quiet.of_keeps (execArchLevelSelect_keeps ..)
  · unfold execGlbResetWarm reached
    dsimp only
    split
    · exact fun h => ⟨h, rfl⟩
    · exact Quiet.of_idle (State.resetTrigger_idle ..)
  · exact fun h => ⟨h, rfl⟩
  · exact Quiet.of_keeps (State.ctrlWrite_keeps ..)
  · exact fun h => ⟨h, rfl⟩
  · exact fun h => ⟨h, rfl⟩

theorem State.placeWrite_lifeOk (s : State) (v : Nat) (p : Place) (h : s.LifeOk) : (s.placeWrite v p).LifeOk := by
  cases p with
  | glb o => exact h.of_quiet (State.glbWrite_keeps ..) (State.glbWrite_quiet _ _ _)
  | tri o => exact State.triWrite_lifeOk _ _ _ h
  | clk o => exact h.of_keeps (State.clkWrite_keeps ..)
  | sdg o => exact h.of_keeps (State.sdgWrite_keeps ..)
  | roo o => exact h.of_keeps (State.rooWrite_keeps ..)
  | jan p o => exact h.of_keeps (State.janWrite_keeps ..)
  | mul o => exact h.of_keeps (State.mulWrite_keeps ..)
  | par o => exact h.of_keeps (State.parWrite_keeps ..)
  | hbm k o => exact h.of_keeps (State.hbmWrite_keeps ..)
  | quad q o => exact h.of_keeps (State.quadWrite_keeps ..)
  | tile t o => exact h.of_keeps (State.tileWrite_keeps ..)
  | none => exact h

theorem State.write32_lifeOk (s : State) (fn : Fn) (sp : Space) (a v : Nat) (h : s.LifeOk) : (s.write32 fn sp a v).LifeOk := by
  unfold State.write32
  split
  · split
    · exact h.of_keeps (State.msixCtlWrite_keeps ..)
    · exact h
  · split
    · exact State.placeWrite_lifeOk _ _ _ h
    · exact h.of_keeps (State.fnWrite_keeps ..)

end Sys2Proof.Machine
end

