-- ==== Sys2Proof/Tests/Slice0.lean ====
section
/-! SUPPORT. The model's own tests: ill-formed commands are refused, and the hypotheses of every statement hold together
in a concrete state, with the values where its clauses meet. Expected values come from the rules that each comment
names. -/

set_option Elab.async false

namespace Sys2Proof.Machine

/-! ### Small states -/

/-- The device past its start, at level 1, in OPERATIONAL (R426, R604). -/
def up : State :=
  { State.reset with
    glb := { level := 1, cfg := { quadEnable := 0xFF } }
    lc := 2
    start := { result := 1, at_ := 0xF, stage := 0xF, cause := 1 }
    pwr := { perst := false }
    clk := { settled := true } }

/-- `up` with a change of its host interface. -/
def hosted (f : HostIf → HostIf) : State := { up with host := f up.host }

/-- `n` bytes with some fields: (offset, bytes, value). -/
def fieldsOf (n : Nat) (fs : List (Nat × Nat × Nat)) : List Byte :=
  fs.foldl (fun d f => overlay d f.1 (leBytes f.2.1 f.2.2)) (List.replicate n 0)

/-- A descriptor with some fields. -/
def descOf (fs : List (Nat × Nat × Nat)) : List Byte := fieldsOf 128 fs

/-- Memory that holds a byte string from an address. -/
def memAt (a : Nat) (bs : List Byte) : Mem := (bs.zipIdx.map (fun x => (a + x.2, x.1))).filter (fun x => x.2 != 0)

/-- Job 1 of the PF's queue 0. -/
def j1 : JobRef := ⟨.pf, 1⟩

/-- Job `j1` as a command of an opcode with some fields in its descriptor. -/
def cmdOf1 (op : Nat) (fs : List (Nat × Nat × Nat)) : Cmd := { job := j1, q := 0, index := 0, op := op, desc := descOf fs }

/-- A state with one command in flight. -/
def withCmd (s : State) (c : Cmd) : State := { s with host := { s.host with cmds := [c] } }

/-- Partition 0: active, two logical quadrants of one tile each, S = 4, 8 contexts of which four are resident, VF 0. -/
def part0 : Part :=
  { state := .active, s := 4, prioMax := 3, vf := some 0, domBase := 0, domCount := 4, ctxCount := 8, vectors := 4
    quads := [⟨0, [0], [0], [1], [0, 1], []⟩, ⟨1, [0], [0], [1], [0, 1], []⟩]
    ctxs := (List.range 4).map (fun k => { res := .resident, slot := k }) ++ List.replicate 4 {} }

/-- `up` with partition 0 on VF 0. -/
def parted : State := { hosted (fun h => { h with vfEnable := true, numVfs := 1 }) with parts := [(0, part0)] }

/-! ### Well-formed commands -/

/-- A stack request that is well formed. -/
def okReq : StackReq :=
  { part := 255, job := none, pma := 2 ^ 64 - 1, write := false, data := 0, unit := 260, kind := 3, tag := 0, row := none, upsets := [] }

/-- Each check of `Instr.wf` refuses a term outside its range. -/
theorem test_ill_formed_refused :
    (Fn.vf 256).wf = false ∧ (JobRef.mk .pf (2 ^ 32)).wf = false ∧ (TileId.mk 8 0).wf = false ∧ (TileId.mk 0 32).wf = false ∧
    (Upset.mk 0 9 0).wf = false ∧ (Upset.mk 0 8 (2 ^ 72)).wf = false ∧ ({ line := 0, kind := 4 } : LineReq).wf = false ∧
    ({ line := 0, atomic := some 4 } : LineReq).wf = false ∧ ({ line := 0, mask := 2 ^ 64 } : LineReq).wf = false ∧
    okReq.wf = true ∧ ({ okReq with part := 256 } : StackReq).wf = false ∧ ({ okReq with pma := 2 ^ 64 } : StackReq).wf = false ∧
    ({ okReq with unit := 261 } : StackReq).wf = false ∧ ({ okReq with kind := 4 } : StackReq).wf = false ∧
    ({ okReq with marks := 256 } : StackReq).wf = false ∧ ({ okReq with mask := 2 ^ 64 } : StackReq).wf = false ∧
    ({ okReq with atomic := some 4 } : StackReq).wf = false ∧
    (Post.mk 0 1024 ⟨.pf, 1⟩ 0 0 0).wf = false ∧ (Post.mk 0 255 ⟨.pf, 1⟩ 0x0F 0 0).wf = false ∧
    ({ sender := 4096, step := 0, members := 0 } : CommitMsg).wf = false ∧ portWf 16 = false ∧ (HsAt.peer 4096).wf = false ∧
    (Carrier.doe (.vf 256)).wf = false ∧ ({ carrier := .mailbox, session := 0, level := 256 } : VReq).wf = false ∧
    valueWf (2 ^ 32) = false ∧ slotWf 256 0 = false ∧ slotWf 0 16 = false ∧ accessWf 2 4 = false ∧ accessWf 0 3 = false := by
  decide

/-- A command with an operand outside its range is refused, one family after the other. -/
theorem test_ill_formed_commands_refused :
    Instr.wf (.sqDoorbell .pf 64 0) = false ∧ Instr.wf (.run ⟨.vf 256, 0⟩) = false ∧ Instr.wf (.sliceBoundary ⟨0, 32⟩) = false ∧
    Instr.wf (.bankAtomic ⟨0, 0⟩ 3 { line := 0 } []) = false ∧ Instr.wf (.qbWayRequest 0 16 0 0 { line := 0 } []) = false ∧
    Instr.wf (.gatherHold 16384 0) = false ∧ Instr.wf (.ackTimeout 0 16) = false ∧ Instr.wf (.vfEnableSet 257) = false ∧
    Instr.wf (.pageZeroFillDone 0 64 0) = false ∧ Instr.wf (.pageZeroFillDone 0 0 576) = false ∧
    Instr.wf (.satEntryFree 0 64 0) = false ∧ Instr.wf (.srcCfgWrite 0x400 0) = false ∧
    Instr.wf (.registerWrite .pf .bar0 0 (2 ^ 32) 4) = false ∧ Instr.wf (.clockSwitch 5 0) = false ∧
    Instr.wf (.standbyReady 16 0) = false ∧ Instr.wf (.getCertificate .mailbox 16 0 0) = false ∧
    Instr.wf (.setRules { carrier := .mailbox, session := 0, level := 1 } 0 0 []) = false ∧
    Instr.wf (.retrain 16) = false ∧ Instr.wf (.laneLockLost 0 8) = false ∧ Instr.wf (.release 0 4 0) = false ∧
    Instr.wf (.slotFillStart ⟨0, 0⟩ 4 0) = false ∧ Instr.wf (.keySlotErased 4096) = false ∧
    Instr.wf (.svnFloorRaise 2 0 true) = false ∧ Instr.wf (.laserArraySensorSample 65536) = false := by decide

/-! ### Work queues -/

/-- A running queue of 16 entries: 5 fetched, 3 records written, none consumed. -/
def qUp : Queue := { sq := 0x1000, cq := 0x2000, enable := true, sizeLog2 := 4, state := .running, sqHead := 5, tail := 6
                     cqTail := 3, outstanding := 5, done := [0, 1, 2] }

/-- The PF's queue 0 runs. -/
def sQ : State := hosted (fun h => { h with queues := [(0, qUp)] })

/-- Doorbells at both ends of their ranges, ENABLE at the smallest ring, and DISABLE. -/
theorem test_QueueRegistersActAsWritten_met :
    sQ.served .pf = true ∧ sQ.disabling .pf = false ∧ (sQ.queue .pf 0).state = .running ∧ 15 % 65536 < (sQ.queue .pf 0).size ∧
    (3 % 65536 + (sQ.queue .pf 0).size - (sQ.queue .pf 0).head) % (sQ.queue .pf 0).size ≤
      ((sQ.queue .pf 0).cqTail + (sQ.queue .pf 0).size - (sQ.queue .pf 0).head) % (sQ.queue .pf 0).size ∧
    (sQ.queue .pf 0).size ≤ 16 % 65536 ∧
    (up.queue .pf 63).state = .off ∧ bitOf 0x84000000 31 = true ∧ 4 ≤ bitsOf 0x84000000 24 4 ∧ up.ctxLimit .pf = none ∧
    bitsOf 0x84000000 0 11 < up.vectorsOf .pf ∧ bitsOf 0x83000000 24 4 < 4 ∧ bitOf 0x04000000 31 = false := by decide

/-- The queue with a FENCE descriptor of a level at SQ_HEAD. -/
def sFetch (level : Nat) : State :=
  { sQ with host := { sQ.host with mem := memAt 0x1280 (descOf [(0, 1, 0x21), (1, 1, level)]) } }

/-- A fetch: a descriptor that passes the checks of Table 13.4 and one that does not. -/
theorem test_DescriptorsComeInAndRecordsGoOut_met :
    (sFetch 1).fetchable .pf 0 = true ∧ ((sFetch 1).hostRead (0x1000 + 128 * 5) 128).isSome = true ∧
    ((sFetch 1).hostRead (0x1000 + 128 * 5) 128).map ((sFetch 1).descCheck .pf) = some none ∧
    ((sFetch 2).hostRead (0x1000 + 128 * 5) 128).map ((sFetch 2).descCheck .pf) = some (some (stVersion, 0)) := by
  decide +kernel

/-- A record that is due, at the tail of a running ring that sends no message. -/
theorem test_records_due :
    (withCmd sQ { cmdOf1 0x21 [] with phase := .final }).cmd j1 = some { cmdOf1 0x21 [] with phase := .final } ∧
    (withCmd sQ { cmdOf1 0x21 [] with phase := .final }).recordDue { cmdOf1 0x21 [] with phase := .final } = true ∧
    (cmdOf1 0x21 []).mute = false ∧ (cmdOf1 0x21 []).rows = [] ∧ (sQ.queue .pf 0).state = .running ∧
    ((sQ.queue .pf 0).irqEn && !bitOf 0 1) = false ∧ sQ.hostOk (0x2000 + 32 * 3) 32 = true := by decide

/-! ### Sources, rings and deliveries -/

/-- `up` with source 5 PENDING since tick 100, enabled and not masked, and its vector 3 in the table. -/
def sSrc : State :=
  { up with
    orbit := { val := 200 }
    sdg := { src := [(5, { phase := .pending, firstFire := 100 }), (9, { phase := .pending, firstFire := 100 })]
             cfg := [(5, { enable := true, vector := 3 }), (9, { enable := true, vector := 3 })] }
    host := { up.host with msix := [(3, { addr := 0x4000, data := 7, mask := {} })] } }

/-- A PF source, the PF's ring source, sources at both sides of the PF's ranges, and a VF's ring. -/
theorem test_SourcesFollowTheirTable_met :
    reservedSource 5 = false ∧ sSrc.srcEnabled 5 = true ∧ sSrc.hostUp = true ∧ pfSource (0x17F % 1024) = true ∧
    pfSource (0x180 % 1024) = false ∧ 0x180 % 1024 ≠ 0x300 ∧ parted.served (.vf 0) = true ∧
    parted.ringSourceOf (.vf 0) = some 0x200 := by decide

/-- The PF's event ring of 64 records runs; its tail is one short of its head, or further. -/
def sRing (tail : Nat) : State :=
  hosted (fun h => { h with rings := [(0, { addr := 0x8000, enable := true, sizeLog2 := 6, state := .running, tail := tail, head := 4 })] })

/-- ENABLE at the smallest ring and the largest vector, one below and one above; HEAD at the ring's last index and
beyond. -/
theorem test_EventRingsStartMoveAndStop_met :
    up.served .pf = true ∧ (up.ring .pf).state = .off ∧ 6 ≤ bitsOf 0x860007FF 24 4 ∧ bitsOf 0x860007FF 0 11 < up.vectorsOf .pf ∧
    bitsOf 0x85000000 24 4 < 6 ∧ parted.served (.vf 0) = true ∧ (parted.ring (.vf 0)).state = .off ∧
    parted.vectorsOf (.vf 0) ≤ bitsOf 0x86000004 0 11 ∧
    (sRing 0).served .pf = true ∧ ((sRing 0).ring .pf).state = .running ∧ 63 % 65536 < 2 ^ ((sRing 0).ring .pf).sizeLog2 ∧
    2 ^ ((sRing 0).ring .pf).sizeLog2 ≤ 64 % 65536 := by decide

/-- An event of code 1 at ORBIT 100, of a partition. -/
def ev (part : Nat) : Event := ⟨100, 1, 1, 5, false, part, 0, 0, 0, 0⟩

/-- Ticks 165 and 164 after an event at tick 100, of no partition and of partition 0; a ring with room and a full one. -/
theorem test_EventsReachTheRings_met :
    (ev 0).orbit + 65 ≤ ({ up with orbit := { val := 165 } } : State).now ∧
    ({ up with orbit := { val := 164 } } : State).now < (ev 0).orbit + 65 ∧
    ({ up with sdg := { reorder := [ev 0xFF] } } : State).sdg.reorder = [ev 0xFF] ∧ (ev 0xFF).part = 0xFF ∧
    vfCode 1 = true ∧ (ev 0).part ≠ 0xFF ∧ parted.fnOfPart 0 = some (.vf 0) ∧ vfCode 4 = false ∧
    ((sRing 63).ring .pf).codes.getLsbD 1 = true ∧ ((sRing 63).ring .pf).state = .running ∧
    (((sRing 63).ring .pf).tail + 1) % 2 ^ ((sRing 63).ring .pf).sizeLog2 ≠ ((sRing 63).ring .pf).head ∧
    (sRing 63).hostOk (((sRing 63).ring .pf).addr + 32 * 63) 32 = true ∧
    (((sRing 3).ring .pf).tail + 1) % 2 ^ ((sRing 3).ring .pf).sizeLog2 = ((sRing 3).ring .pf).head := by decide

/-- Of two sources that fired first at the same tick the lower one is taken; GDIS set 16 ticks ago holds deliveries off. -/
theorem test_DeliveryFollowsItsControls_met :
    sSrc.takeable 200 = some 5 ∧ sSrc.sdg.gdis.at_ (sSrc.now - 16) = false ∧ sSrc.heldReady sSrc.now = none ∧
    sSrc.takeable sSrc.now = some 5 ∧ sSrc.target 5 = some (.pf, 3) ∧ 3 < sSrc.vectorsOf .pf ∧
    (({} : TBit).write 184 true).at_ (200 - 16) = true ∧ (({} : TBit).write 185 true).at_ (200 - 16) = false ∧
    sSrc.hostUp = true ∧ pfSource 0x394 = true ∧ (sSrc.clk.dom.getD 2 {}).running = true ∧ sSrc.clk.pm ≠ .l3 := by decide

/-- A post of tile 0 for job `j1`. -/
def post1 : Post := ⟨10, 0, j1, 0, 0, 0⟩

/-- A state whose collector 0 holds the post of a job that two tiles run. -/
def sPost : State :=
  withCmd { up with quads := { cc := { entries := [post1] } } :: List.replicate 7 {} }
    { cmdOf1 1 [] with phase := .running, dispatched := true, expect := [0, 1] }

/-- An empty collector of the last quadrant, and a post of a job of which another tile is still to post. -/
theorem test_CollectorsKeepEveryPost_met :
    7 < up.quads.length ∧ (up.quad 7).cc.entries.length ≤ Config.collectorEntries ∧ 0 < sPost.quads.length ∧
    (sPost.quad 0).cc.entries = [post1] ∧ (sPost.cmd j1).map (fun c => c.dispatched) = some true ∧
    (sPost.cmd j1).map (fun c => c.expect.all (fun x => (c.posted ++ [post1.source]).contains x)) = some false ∧
    up.hostUp = true := by decide

/-! ### ABORT, FENCE, QUERY and SCRUB -/

/-- Two commands of the PF's queue 0, job 2 before job 1. -/
def two (s : State) (d c : Cmd) : State :=
  { s with host := { s.host with cmds := [{ d with job := ⟨.pf, 2⟩ }, { c with order := 1 }] } }

/-- A WAIT_PREV command behind an open one; a FENCE that bars its queue; ABORTs of an open command, of jobs before and
after their dispatch, of a completed command, of an ABORT and of unknown jobs; FENCEs with nothing and with one command
before them. -/
theorem test_AbortEndsAndFenceWaits_met :
    (two up (cmdOf1 0x10 []) { cmdOf1 0x21 [] with flags := 1 }).cmd j1 = some { cmdOf1 0x21 [] with flags := 1, order := 1 } ∧
    bitOf 1 0 = true ∧
    (∃ d ∈ (two up (cmdOf1 0x10 []) { cmdOf1 0x21 [] with flags := 1 }).host.cmds, d.job.fn = .pf ∧ d.q = 0 ∧ d.order < 1 ∧ d.phase ≠ .final) ∧
    (cmdOf1 0x21 []).phase ≠ .final ∧ (cmdOf1 0x21 []).q = 0 ∧ (cmdOf1 0x21 [(0x20, 1, 1)]).param 0x20 1 = 1 ∧
    (two up (cmdOf1 0x10 []) (cmdOf1 0x20 [(0x20, 4, 2)])).due j1 0x20 = some { cmdOf1 0x20 [(0x20, 4, 2)] with order := 1 } ∧
    (cmdOf1 0x20 [(0x20, 4, 2)]).param 0x20 4 = 2 ∧
    ((two up (cmdOf1 0x10 []) (cmdOf1 0x20 [(0x20, 4, 2)])).cmd ⟨.pf, 2⟩).map (fun d => (d.phase, d.op)) = some (.accepted, 0x10) ∧
    isJobOp 0x10 = false ∧ isJobOp 1 = true ∧ isJobOp 2 = true ∧
    (∀ b ∈ [false, true], ((two up { cmdOf1 1 [] with phase := .running, dispatched := b } (cmdOf1 0x20 [(0x20, 4, 2)])).cmd ⟨.pf, 2⟩).map
      (fun d => (d.phase, d.op, d.dispatched)) = some (.running, 1, b)) ∧
    ((two up { cmdOf1 0x10 [] with phase := .final } (cmdOf1 0x20 [(0x20, 4, 2)])).cmd ⟨.pf, 2⟩).map Cmd.phase = some .final ∧
    ((two up (cmdOf1 0x20 []) (cmdOf1 0x20 [(0x20, 4, 2)])).cmd ⟨.pf, 2⟩).map Cmd.op = some 0x20 ∧
    (withCmd up (cmdOf1 0x20 [(0x20, 4, 2)])).due j1 0x20 = some (cmdOf1 0x20 [(0x20, 4, 2)]) ∧
    (withCmd up (cmdOf1 0x20 [(0x20, 4, 2)])).cmd ⟨.pf, 2⟩ = none ∧
    (up.queue .pf (bitsOf 2 16 6)).done.contains 2 = false ∧
    (withCmd sQ (cmdOf1 0x20 [(0x20, 4, 2)])).due j1 0x20 = some (cmdOf1 0x20 [(0x20, 4, 2)]) ∧
    (sQ.queue .pf (bitsOf 2 16 6)).done.contains 2 = true ∧
    (withCmd up (cmdOf1 0x21 [])).due j1 0x21 = some (cmdOf1 0x21 []) ∧
    (∀ d ∈ (withCmd up (cmdOf1 0x21 [])).host.cmds, d.order < (cmdOf1 0x21 []).order → d.phase = .final) ∧
    (two up (cmdOf1 0x10 []) (cmdOf1 0x21 [])).due j1 0x21 = some { cmdOf1 0x21 [] with order := 1 } ∧
    (∃ d ∈ (two up (cmdOf1 0x10 []) (cmdOf1 0x21 [])).host.cmds, d.job.fn = .pf ∧ d.order < 1 ∧ d.q = 0 ∧ d.phase ≠ .final) := by
  decide +kernel

/-- Each QUERY, with room for its answer and no byte more. -/
theorem test_QueriesWriteTheirAnswer_met :
    (∀ op ∈ [1, 2, 3], ∀ n ∈ [0, 16, 36],
      (withCmd parted (cmdOf1 0x23 [(0x20, 1, op), (0x24, 4, n), (0x28, 8, 0x9000)])).due j1 0x23 =
        some (cmdOf1 0x23 [(0x20, 1, op), (0x24, 4, n), (0x28, 8, 0x9000)]) ∧
      (cmdOf1 0x23 [(0x20, 1, op), (0x24, 4, n), (0x28, 8, 0x9000)]).param 0x20 1 = op ∧
      (cmdOf1 0x23 [(0x20, 1, op), (0x24, 4, n), (0x28, 8, 0x9000)]).param 0x24 4 = n ∧
      (cmdOf1 0x23 [(0x20, 1, op), (0x24, 4, n), (0x28, 8, 0x9000)]).param 0x28 8 = 0x9000) ∧
    (List.range (manTensors (parted.entryFor 0 0).manifestBytes)).length = 0 ∧
    ((parted.entryFor 0 0).words.flatMap (leBytes 4)).length = 16 ∧ parted.hostOk 0x9000 36 = true ∧
    (leBytes 4 part0.vfStatus ++ (List.range 8).flatMap (fun q => leBytes 4 (parted.freeStripes 0 q))).length = 36 := by
  decide +kernel

/-- A SCRUB command of partition 0. -/
def scrubCmd (op target off : Nat) : Cmd := cmdOf1 0x22 [(0x20, 1, op), (0x22, 2, target), (0x24, 4, 1), (0x28, 8, off)]

/-- `parted` with the last stripe of the general region of logical quadrant 0 SHARED. -/
def sStripe : State := parted.setStripes 0 0 4 93 1 (targetAttr 0x8000)

/-- A resident and a swapped context; the last stripe below the save area, free and owned. -/
theorem test_ScrubClearsAllocatesAndFrees_met :
    parted.Shaped ∧ sStripe.Shaped ∧ (withCmd parted (scrubCmd 0 0 0)).due j1 0x22 = some (scrubCmd 0 0 0) ∧
    (scrubCmd 0 0 0).param 0x22 2 < part0.ctxCount ∧ (withCmd parted (scrubCmd 0 0 0)).act 0 0 = 0 ∧
    part0.ctxs[0]?.map Ctx.res = some .resident ∧
    (withCmd parted (scrubCmd 0 7 0)).due j1 0x22 = some (scrubCmd 0 7 0) ∧ (scrubCmd 0 7 0).param 0x22 2 = 7 ∧
    (withCmd parted (scrubCmd 0 7 0)).act 0 7 = 0 ∧ part0.ctxs[7]?.map Ctx.res = some .swapped ∧
    (withCmd parted (scrubCmd 1 0x8000 (93 * 4194304))).due j1 0x22 = some (scrubCmd 1 0x8000 (93 * 4194304)) ∧
    parted.scrubDomainOk (scrubCmd 1 0x8000 (93 * 4194304)) = true ∧ parted.generalStripes 0 0 = 94 ∧
    parted.scrubStripes (scrubCmd 1 0x8000 (93 * 4194304)) 94 = some 93 ∧ parted.stripeFree 0 0 4 93 = true ∧
    (withCmd sStripe (scrubCmd 2 0x8000 (93 * 4194304))).due j1 0x22 = some (scrubCmd 2 0x8000 (93 * 4194304)) ∧
    sStripe.scrubStripes (scrubCmd 2 0x8000 (93 * 4194304)) 94 = some 93 ∧ sStripe.scrubDomainOk (scrubCmd 2 0x8000 (93 * 4194304)) = true ∧
    (∀ x ∈ sStripe.stripePages 0 0 4 93 1, mget {} (sStripe.stack x.1).pages (x.2.1 * 576 + x.2.2) = targetAttr 0x8000) := by
  unfold State.Shaped
  decide +kernel

/-! ### Contexts and partitions -/

/-- `parted` at a tick with its partition changed. -/
def partedBy (now : Nat) (f : Part → Part) : State := { parted with orbit := { val := now }, parts := [(0, f part0)] }

/-- Context 7, swapped out, has a job; the first `n` contexts are resident. -/
def sSwap (n now : Nat) : State :=
  withCmd (partedBy now (fun x => { x with ctxs := (List.range n).map (fun k => { res := .resident, slot := k }) ++ List.replicate (8 - n) {} }))
    { cmdOf1 1 [] with part := 0, ctx := 7 }

/-- A candidate with a free slot; one whose victims have waited exactly the block time of 20 us; a priority above the
partition's largest. -/
theorem test_SwapDecisionsFollowTheirTable_met :
    ((sSwap 3 24000).refresh 0).candidate 0 = some (7, { since := none, runSince := 24000 }) ∧
    ((sSwap 3 24000).part 0).state = .active ∧ ((sSwap 3 24000).part 0).switch = none ∧
    ((sSwap 3 24000).part 0).suspended = false ∧ (((sSwap 3 24000).refresh 0).part 0).freeSlot = some 3 ∧
    ((sSwap 4 24000).refresh 0).candidate 0 = some (7, { since := none, runSince := 24000 }) ∧
    (((sSwap 4 24000).refresh 0).part 0).freeSlot = none ∧
    (minBy victimLe2 (((sSwap 4 24000).refresh 0).part 0).swappable).map Prod.fst = some 3 ∧
    (∀ y ∈ (((sSwap 4 24000).refresh 0).part 0).swappable, y.2.since = some 0) ∧ 0 + 1200 * (sSwap 4 24000).par.block ≤ 24000 ∧
    (minBy victimLe3 (((sSwap 4 24000).refresh 0).part 0).swappable).map Prod.fst = some 3 ∧
    parted.served (.vf 0) = true ∧ parted.partOfVf 0 = some 0 ∧ 7 < (parted.part 0).ctxCount ∧
    ((parted.part 0).ctxs[7]?).isSome = true := by decide +kernel

/-- A switch of partition 0 from context 0 to context 7 at a phase. -/
def sSwitch (ph : SwPhase) : State := partedBy 0 (fun x => { x with switch := some ⟨7, some 0, 0, ph⟩ })

/-- A switch in each of its phases. -/
theorem test_SwitchesSaveAndRestore_met :
    ((sSwitch .quiescing).part 0).switch = some ⟨7, some 0, 0, .quiescing⟩ ∧
    (∀ tl ∈ ((sSwitch .quiescing).part 0).tiles, quiet ((sSwitch .quiescing).tile tl) 0 = true) ∧
    ((sSwitch .saving).part 0).switch = some ⟨7, some 0, 0, .saving⟩ ∧ (7 : Nat) ≠ 0 ∧
    ((sSwitch .saving).part 0).ctxs[0]?.isSome = true ∧ ((sSwitch .saving).part 0).ctxs[7]?.isSome = true ∧
    (sSwitch .restoring).Shaped ∧ ((sSwitch .restoring).part 0).switch = some ⟨7, some 0, 0, .restoring⟩ ∧
    (⟨0, 0⟩ : TileId) ∈ ((sSwitch .restoring).part 0).tiles ∧ (⟨0, 1⟩ : TileId) ∉ ((sSwitch .restoring).part 0).tiles := by
  unfold State.Shaped
  decide +kernel

/-- A switch that saves while logging is on: the victim is past the pinned contexts, and its place has pages. -/
def sLog : State := partedBy 0 (fun x => { x with switch := some ⟨7, some 0, 0, .saving⟩, logging := true })
theorem test_SwitchesSaveAndRestore_logged :
    (sLog.part 0).switch = some ⟨7, some 0, 0, .saving⟩ ∧ sLog.hbm.length = 8 ∧ (sLog.part 0).logging = true ∧
    (sLog.part 0).pinned ≤ 0 ∧ (sLog.part 0).quads[0]?.map PQuad.pq = some 0 ∧ (0, 575) ∈ sLog.savePages 0 0 0 ∧
    sLog.logs 0 0 = true ∧ (sLog.part 0).ctxs[0]?.isSome = true ∧ (sLog.part 0).ctxs[7]?.isSome = true := by decide +kernel

/-- The restore of that switch answers a next state. -/
theorem test_restore_answers : ∃ t : State, exec (.contextRestoreDone 0) (sSwitch .restoring) = .next t := ⟨_, rfl⟩

/-- `up` with VF 0, and a carve record of a level at its address: one quadrant of one tile. -/
def sCarve (level : Nat) : State :=
  { hosted (fun h => { h with
      vfEnable := true
      numVfs := 1
      mem := memAt 0x3000 (fieldsOf 160 ([(0, 1, level), (2, 1, 4), (0x0E, 2, 8), (0x23, 1, 8), (0x24, 4, 1)] ++
        (List.range 7).map (fun i => (0x30 + 16 * i, 1, 0xFF)))) }) with par := { addr := 0x3000 } }

/-- A record that passes the checks of Table 10.4, and one of a level that is not selected. -/
theorem test_CreateCarvesTheRecord_met :
    (sCarve 1).isReady = true ∧ (sCarve 1).par.busy = none ∧ ((sCarve 1).part 255).state = .free ∧
    ((sCarve 1).hostRead (sCarve 1).par.addr 160).map (fun b => (sCarve 1).carveCheck 255 (carveOf (sCarve 1).glb.cfg b)) = some none ∧
    ((sCarve 2).hostRead (sCarve 2).par.addr 160).map (fun b => (sCarve 2).carveCheck 255 (carveOf (sCarve 2).glb.cfg b)) =
      some (some (3, 0xFF)) := by decide +kernel

/-- A partition in each state that DISABLE, its end, ENABLE and DESTROY start from. -/
theorem test_DisableEmptiesAPartition_met :
    parted.isReady = true ∧ parted.par.busy = none ∧ (parted.part 0).state = .active ∧
    ((partedBy 0 (fun x => { x with state := .disabling })).part 0).state = .disabling ∧
    (∀ tl ∈ ((partedBy 0 (fun x => { x with state := .disabling })).part 0).tiles,
      ((partedBy 0 (fun x => { x with state := .disabling })).tile tl).running = none) ∧
    (partedBy 0 (fun x => { x with state := .disabled })).isReady = true ∧
    (partedBy 0 (fun x => { x with state := .disabled })).par.busy = none ∧
    ((partedBy 0 (fun x => { x with state := .disabled })).part 0).state = .disabled := by decide

/-- VF 0 with and without a partition; in reset, with its partition already disabled and still disabling; VF Enable set
and clear, with partitions that it disabled. -/
theorem test_FunctionResetsStopTheirFunction_met :
    (63 : Nat) < Config.queues ∧ (sCarve 1).fnLive (.vf 0) = true ∧ (sCarve 1).partOfVf 0 = none ∧
    parted.fnLive (.vf 0) = true ∧ parted.partOfVf 0 = some 0 ∧ (parted.part 0).state = .active ∧
    (∀ st ∈ [PState.disabled, .disabling],
      let s : State := { partedBy 0 (fun x => { x with state := st, cause := 1 }) with host := { parted.host with flr := [0] } }
      (partedBy 0 (fun x => { x with state := st })).fnLive (.vf 0) = true ∧ 0 ∈ s.host.flr ∧ s.partOfVf 0 = some 0 ∧ (s.part 0).state = st ∧ (s.part 0).cause = 1 ∧
      (s.part 0).destroy = false) ∧
    (sCarve 1).host.vfEnable = true ∧ (∀ e ∈ (sCarve 1).parts, e.2.vf = none ∨ e.2.state ≠ .active) ∧
    parted.host.vfEnable = true ∧ (parted.part 0).vf = some 0 ∧
    (let s : State := { partedBy 0 (fun x => { x with state := .disabled, cause := 2 }) with host := up.host }
     s.host.vfEnable = false ∧ (s.part 0).vf = some 0 ∧ (0 : Nat) < min 256 1 ∧ (s.part 0).state = .disabled ∧ (s.part 0).cause = 2 ∧
     (s.part 0).destroy = false) := by decide +kernel

/-! ### Adapters and domains -/

/-- A manifest of one 1 by 1 tensor of rank 1 in domain 0, handle 0, OFFLOAD_OK, with a payload of 4 zeros under a
zero import key, signed with the private key 3: made by an implementation of AES-GCM, SHA-384 and ECDSA outside Lean. -/
def man1 : List Byte :=
  leBytes 32 0x104014d414c4a ++
    leBytes 32 0x0 ++
    leBytes 32 0x7c0fe706ff322fc212e47794cf12591700000000000000040000000000000001 ++
    leBytes 32 0x5cbcd22152ff804378f52854dde9e869505fb8386e58f6a335b88f47358c5fdb ++
    leBytes 32 0x0 ++
    leBytes 32 0x189df3bad3c54e076e6b604d3d40a7cf00000000000000000000000000000000 ++
    leBytes 32 0xf604b67e79efd353719caa27f519f8dc8e3506758ef5a2d1742aa637ca036072 ++
    leBytes 32 0x0 ++
    leBytes 32 0x6e7a624b9f84e1509316f6fcc53f1e1b ++
    leBytes 32 0x100000001000000000000000000000001 ++
    leBytes 32 0x501c7bfa9dcc582dfa5feafb97e96fadfedf4e23bf8e9ff28847ce65731d3c28 ++
    leBytes 32 0x39fcfea7440d26fba20be09fb50acbffe1d0b68fb4050f04b2ebb9556f52058b ++
    leBytes 32 0x79abcb56b5500fbc0861b114f3751cfc0616adc0d0a96a263d458f84d56368c7

/-- The payload, and the public key of its signer. -/
def pay1 : List Byte :=
  leBytes 4 0x43c06515
def key1 : List Byte :=
  leBytes 32 0xa66d56d340f2a4be06cd2d2010399dcb987ddc5f7e3c796414fa6f60d4417a07 ++
    leBytes 32 0x99fca90296be0b7d83420c0bcaf795c931c80005c7e5d7020d582650aebb08b4 ++
    leBytes 32 0xf11d2f0a60285fb698d2b5e46bbd4ac2ac1e11dc0e4c68f7a55a11851cb42085

/-- Domain 0 open, handle 5 in a state, and a host tier. -/
def sDir (e : DirEntry) : State :=
  { parted with
    glb := { up.glb with cfg := { up.glb.cfg with hostTierGib := 1 } }
    dir := { entries := [(5, e)], domains := [(0, { open_ := true, slotKey := true, manifestKey := key1 })] } }

/-- An entry of handle 5 in a state. -/
def ent (h : HState) : DirEntry := { state := h, manifestBytes := man1, binds := 65534, offloadOk := true }

/-- ADAPTER_BIND, or EVICT, of handle 5 under an epoch with an op. -/
def bindCmd (op epoch x : Nat) : Cmd := cmdOf1 op [(0x20, 2, 5), (0x22, 1, epoch), (0x23, 1, x)]

/-- A RESIDENT handle one reference short of its largest count, an OFFLOADED one, and a stale epoch. -/
theorem test_BindCountsReferences_met :
    (withCmd (sDir (ent .resident)) (bindCmd 0x19 1 0)).due j1 0x19 = some (bindCmd 0x19 1 0) ∧ (bindCmd 0x19 1 0).param 0x20 2 = 5 ∧
    (withCmd (sDir (ent .resident)) (bindCmd 0x19 1 0)).handleCheck 0 5 ((bindCmd 0x19 1 0).param 0x22 1) = stOk ∧
    (bindCmd 0x19 1 0).param 0x23 1 = 0 ∧ (ent .resident).baseRetired = false ∧ (ent .resident).binds ≠ 65535 ∧
    (withCmd (sDir (ent .offloaded)) (bindCmd 0x19 1 0)).due j1 0x19 = some (bindCmd 0x19 1 0) ∧
    (withCmd (sDir (ent .offloaded)) (bindCmd 0x19 1 0)).handleCheck 0 5 1 = stOk ∧ (ent .offloaded).baseRetired = false ∧
    ((withCmd (sDir (ent .offloaded)) (bindCmd 0x19 1 0)).storeRoom 0 (ent .offloaded).manifestBytes).isSome = true ∧
    (withCmd (sDir (ent .resident)) (bindCmd 0x19 1 1)).due j1 0x19 = some (bindCmd 0x19 1 1) ∧ (bindCmd 0x19 1 1).param 0x23 1 = 1 ∧
    ¬ ((ent .resident).state = .evicting ∧ (ent .resident).forced = true) ∧ (ent .resident).binds ≠ 0 ∧
    (withCmd (sDir (ent .resident)) (bindCmd 0x19 2 0)).due j1 0x19 = some (bindCmd 0x19 2 0) ∧
    (sDir (ent .resident)).handleCheck 0 5 2 = stStale := by decide +kernel

/-- A drained handle that lies at the store's start, and a handle whose image lies in so many units that nothing wrote. -/
def eOff : DirEntry := { ent .evicting with binds := 0, offs := [0, 0] }
def eLoad (units : Nat) : DirEntry := { ent .loading with hostUnits := units }

/-- Both modes of EVICT, a drained handle of each mode, a reload whose units all hold and one whose unit fails, and a
RETIRING handle. -/
theorem test_EvictionsMoveHandlesAlongTheirTable_met :
    (∀ x ∈ [0, 1], (withCmd (sDir (ent .resident)) (bindCmd 0x1A 1 x)).due j1 0x1A = some (bindCmd 0x1A 1 x) ∧
      (bindCmd 0x1A 1 x).param 0x23 1 = x) ∧
    ((sDir (ent .resident)).entry 5).offloadOk = true ∧ (sDir (ent .resident)).hostTierOn = true ∧
    ((sDir (ent .resident)).part 0).hostGen < 0xFFFFFFFF ∧ ((sDir (ent .resident)).entry 5).state = .resident ∧
    (sDir (ent .resident)).handleCheck 0 5 1 = stOk ∧ ((sDir (ent .resident)).entry 5).evicts = [] ∧
    ({ ent .evicting with binds := 0, mode := 1 } : DirEntry).jobs = 0 ∧
    ((sDir eOff).entry 5).drained = true ∧ ((sDir eOff).entry 5).mode = 0 ∧
    ((sDir eOff).entry 5).offs.length = ((sDir eOff).part 0).quads.length ∧
    (sDir eOff).hostRoom (hostUnitsOf man1 ((sDir eOff).part 0).quads.length) = some 0 ∧
    badUnits ((sDir eOff).storeLines 0 man1 [0, 0]) = [] ∧
    (∀ n ∈ [0, 1], ((sDir (eLoad n)).entry 5).state = .loading ∧ ((sDir (eLoad n)).entry 5).evicts = [] ∧
      ((sDir (eLoad n)).entry 5).closing = false ∧
      ((sDir (eLoad n)).hostAnswers []).hostFault 0 0 n = if n = 0 then none else some 0) ∧
    ((sDir (ent .retiring)).entry 5).state = .retiring := by decide +kernel

/-- A configuration set whose base has that tensor. -/
def set1 : CfgSet :=
  { num := 0, file := {}, layers := 1, plans := 1, entries := [], tensors := [⟨1, 0, 0xFF, 1, 1⟩], outliers := [], lqBytes := 0, baseOff := 0 }

/-- The manifest at its address, and its payload; `sig` names the key that the domain holds. -/
def sReg (key : List Byte) (c : Cmd) : State :=
  withCmd { parted with
    parts := [(0, { part0 with sets := [set1] })]
    host := { parted.host with mem := memAt 0x5000 man1 ++ memAt 0x6000 pay1 }
    dir := { domains := [(0, { open_ := true, slotKey := true, manifestKey := key })] } } c

/-- ADAPTER_REGISTER of the manifest into the store. -/
def regCmd : Cmd := cmdOf1 0x18 [(0x24, 4, 416), (0x28, 8, 0x5000), (0x30, 8, 0x6000)]

/-- The checks of Table 8.6 before the signature. -/
theorem test_RegistrationFollowsItsSteps_format :
    (sReg key1 regCmd).due j1 0x18 = some regCmd ∧
    (sReg key1 regCmd).hostRead (regCmd.param 0x28 8) (regCmd.param 0x24 4) = some man1 ∧
    manFormat (sReg key1 regCmd).glb.level man1 (regCmd.param 0x24 4) = none ∧
    (sReg key1 regCmd).domainOk 0 (manDomain man1) = true := by decide +kernel

/-- The signature: under the signer's key, and under another. -/
theorem test_manifest_signature : manSigOk key1 man1 = true := by decide +kernel
theorem test_manifest_signature_fails : manSigOk [] man1 = false := by decide +kernel

/-- The checks after the signature, and the room. -/
theorem test_RegistrationFollowsItsSteps_claims :
    ((sReg key1 regCmd).part 0).baseStatus (manBase man1) = stOk ∧ ((sReg key1 regCmd).part 0).liveSet (manBase man1) = some set1 ∧
    manShape set1 man1 = true ∧ manRepin man1 = false ∧ (if manAny man1 then (sReg key1 regCmd).freeHandle else some (manHandle man1)) = some 0 ∧
    (sReg key1 regCmd).regStatus regCmd man1 0 = stOk ∧ (∀ x ∈ manPositions man1, (sReg key1 regCmd).positionHeld 0 (manBase man1) x 0 = false) ∧
    (manPositions man1).Nodup ∧ regCmd.param 0x20 1 = 0 ∧ ((sReg key1 regCmd).storeRoom 0 man1).isSome = true := by decide +kernel

/-- The command between its steps 8 and 9. -/
def regCmd9 : Cmd := { regCmd with phase := .running, reg := some { handle := 0, repin := false, domain := 0, place := 0, manifest := man1, digest := 0, experts := [], offs := [0, 0], hostIndex := 0, units := 0, trainable := false } }

/-- The import: key, digest and tag are right. -/
def key2 : List Byte := leBytes 32 1
theorem test_payload_key_tag :
    gcmTag (aesKeys (leBytes 32 (0 : Key256).toNat)) (slice man1 0xE0 12) (man1.take 0x80) (slice man1 0xB0 32) = slice man1 0xD0 16 := by
  decide +kernel
theorem test_payload_key_text :
    gcmCtr (aesKeys (leBytes 32 (0 : Key256).toNat)) (slice man1 0xE0 12) 2 (slice man1 0xB0 32) = key2 := by decide +kernel
theorem test_payload_key :
    gcmOpen (leBytes 32 (0 : Key256).toNat) (slice man1 0xE0 12) (man1.take 0x80) (slice man1 0xB0 32) (slice man1 0xD0 16) = some key2 := by
  rw [gcmOpen, test_payload_key_tag, if_pos rfl, test_payload_key_text]
theorem test_payload_digest : sha384 pay1 = digestOf (slice man1 0x50 48) := by decide +kernel
theorem test_payload_open :
    gcmOpen key2 (slice man1 0xF0 12) (man1.take 0x50) pay1 (slice man1 0x100 16) = some (List.replicate 4 0) := by decide +kernel
theorem test_import_plain : importPlain 0 man1 pay1 = some (List.replicate 4 0) := by
  simp only [importPlain, test_payload_key, test_payload_digest, Option.bind_eq_bind, Option.bind_some, ne_eq, not_true_eq_false, if_false,
    test_payload_open]
theorem test_RegistrationFollowsItsSteps_import :
    (regCmd9.reg.map (fun r => (r.imported, r.repin))) = some (false, false) ∧ regCmd9.phase ≠ .final ∧
    (sReg key1 regCmd9).cmd j1 = some regCmd9 ∧ (sReg key1 regCmd9).vault.copying = false ∧
    (sReg key1 regCmd9).hostRead (regCmd9.param 0x30 8) (manPayload man1) = some pay1 ∧
    ((sReg key1 regCmd9).dom 0).importKey = 0 ∧ (sReg key1 regCmd9).domainOk 0 0 = true ∧
    ((sReg key1 regCmd9).part 0).baseStatus (manBase man1) = stOk := by decide +kernel

/-- A closing domain with no reference left. -/
theorem test_CloseErasesTheDomain_met :
    (let s : State := { parted with dir := { domains := [(0, { open_ := true, closing := true, slotKey := true })] } }
     s.Shaped ∧ s.closeReady 0 = true ∧ s.partOfDomain 0 = some 0 ∧ s.partOfDomain 4095 = none ∧
     ∃ tl ∈ (s.part 0).tiles, tl.q < 8 ∧ (s.tile tl).running = none) := by
  unfold State.Shaped
  decide +kernel

/-! ### Jobs -/

/-- A row word: domain, handle, epoch. -/
def rowWord (d h e : Nat) : Nat := d * 2 ^ 20 + h * 16 + e

/-- A row that is accepted, EVICTING with one bind; a row without an adapter; a row of a closed domain. -/
theorem test_RowsAreAcceptedByTheirTable_met :
    (sDir { ent .evicting with binds := 1 }).resolveRow 0 0 (rowWord 0 5 1) = (stOk, some 5) ∧
    (sDir (ent .resident)).resolveRow 0 0 (rowWord 0 0 0) = (stOk, none) ∧
    (sDir (ent .resident)).domainOk 0 (bitsOf (rowWord 1 5 1) 20 12) = false := by decide +kernel

/-- A set with one configuration, one sequence and the tensor of `man1`. -/
def set2 : CfgSet := { set1 with file := { tiles := [{ id := 0, mode := 5, m := 1, n := 1, k := 1, cycles := 6, mask := 1 }], seqs := [{ mask := 1, steps := [⟨0, 1⟩] }] } }

/-- A RUN of set 0 with one row of 64-byte blocks. -/
def runCmd (rows : Nat) : Cmd :=
  cmdOf1 1 [(0x24, 4, rows), (0x28, 8, 0x5000), (0x30, 8, 0x6000), (0x38, 8, 0x7000), (0x40, 8, 0x8000), (0x48, 4, 64), (0x4C, 4, 65536)]

/-- Partition 0 with sets, and a command. -/
def sRun (sets : List CfgSet) (c : Cmd) : State := withCmd { sDir (ent .resident) with parts := [(0, { part0 with sets := sets })] } c

/-- A RUN accepted right after a RETIRE_BASE of its set. -/
def sRetired : State := { sRun [] { runCmd 1 with order := 2 } with parts := [(0, { part0 with retiredAt := [(0, 1)] })] }

/-- RUN at both ends of its ranges; no set, a retired set, and one row too few or too many. -/
theorem test_RunResolvesItsRows_met :
    (sRun [set2] (runCmd 1)).fresh? j1 0x01 = some (runCmd 1) ∧ ((sRun [set2] (runCmd 1)).part 0).set? ((runCmd 1).param 0x20 1) = some set2 ∧
    (sRun [set2] (runCmd 1)).retiredFor (runCmd 1) 0 = false ∧ 1 ≤ (runCmd 1).param 0x24 4 ∧ (runCmd 1).param 0x24 4 ≤ 16384 ∧ blockOk ((runCmd 1).param 0x48 4) = true ∧
    blockOk ((runCmd 1).param 0x4C 4) = true ∧
    ((sRun [set2] (runCmd 1)).hostRead ((runCmd 1).param 0x28 8) (8 * (runCmd 1).param 0x24 4)).map (rowWords 1) = some (some [0]) ∧
    (sRun [set2] (runCmd 1)).hostOk ((runCmd 1).param 0x30 8) ((runCmd 1).param 0x24 4 * ((runCmd 1).param 0x48 4 + 32)) = true ∧
    (sRun [] (runCmd 1)).fresh? j1 0x01 = some (runCmd 1) ∧ ((sRun [] (runCmd 1)).part 0).set? ((runCmd 1).param 0x20 1) = none ∧
    (sRun [] (runCmd 1)).retiredFor (runCmd 1) 0 = false ∧
    sRetired.fresh? j1 0x01 = some { runCmd 1 with order := 2 } ∧ sRetired.retiredFor { runCmd 1 with order := 2 } 0 = true ∧
    (sRun [set2] (runCmd 0)).fresh? j1 0x01 = some (runCmd 0) ∧ (sRun [set2] (runCmd 16385)).fresh? j1 0x01 = some (runCmd 16385) ∧
    (runCmd 0).param 0x24 4 < 1 ∧ 16384 < (runCmd 16385).param 0x24 4 := by decide +kernel

/-- A TRAIN_STEP of slot 15 with one trainable adapter and one row. -/
def trainCmd : Cmd := cmdOf1 2 [(0x20, 1, 15), (0x25, 1, 1), (0x28, 8, 0x5000), (0x44, 4, 1), (0x48, 8, 0x5800), (0x50, 8, 0x6000), (0x60, 4, 64)]

/-- Its state: the list names handle 5 under epoch 1 and rule row 0, which is valid. -/
def sTrain (ph : TrState) : State :=
  { sRun [set2] trainCmd with
    host := { (sRun [set2] trainCmd).host with mem := memAt 0x5000 (leBytes 8 (5 + 2 ^ 20)) }
    dir := { entries := [(5, { ent .resident with trainable := true })]
             domains := [(0, { open_ := true, slotKey := true, rules := fieldsOf 80 [(0x3C, 4, 1)] })] }
    train := { slots := [(15, { state := ph })] } }

/-- A TRAIN_STEP of a CLEAN slot; one whose slot is COMMITTING or IN_DOUBT. -/
theorem test_TrainStepFillsItsSlot_met :
    (let s := sTrain .clean
     s.fresh? j1 0x02 = some trainCmd ∧ trainCmd.param 0x20 1 = 15 ∧ (s.slot 0 15).state = .clean ∧ s.commitsBefore trainCmd 15 = false ∧
     s.stepsBefore trainCmd 15 = false ∧ s.listed 5 = none ∧
     s.readList (trainCmd.param 0x28 8) (trainCmd.param 0x25 1) = some [5 + 2 ^ 20] ∧
     (s.part 0).set? (trainCmd.param 0x21 1) = some set2 ∧ s.listCheck 0 (some (some set2.file.base, s.retiredFor trainCmd 0)) [5 + 2 ^ 20] = none ∧
     leHandle (5 + 2 ^ 20) = 5 ∧ (s.entry 5).slot = none ∧
     s.gabRanges 0 (s.gabParts 0 (trainCmd.param 0x24 1) [5 + 2 ^ 20]) (trainCmd.param 0x30 4) (trainCmd.param 0x3C 4)
       (trainCmd.param 0x40 4) (trainCmd.param 0x34 4) (trainCmd.param 0x38 4) = 0 ∧
     trainCmd.param 0x44 4 = 1 ∧ blockOk (trainCmd.param 0x60 4) = true ∧
     (s.hostRead (trainCmd.param 0x48 8) 8).map (rowWords 1) = some (some [0]) ∧ s.hostOk (trainCmd.param 0x50 8) 96 = true) ∧
    (sTrain .committing).fresh? j1 0x02 = some trainCmd ∧ ((sTrain .committing).slot 0 15).state = .committing ∧
    (sTrain .inDoubt).fresh? j1 0x02 = some trainCmd ∧ ((sTrain .inDoubt).slot 0 15).state = .inDoubt ∧
    (two (sTrain .clean) trainCmd trainCmd).fresh? j1 0x02 = some { trainCmd with order := 1 } ∧
    (two (sTrain .clean) trainCmd trainCmd).stepsBefore { trainCmd with order := 1 } 15 = true := by decide +kernel

/-- The RUN between its rows and its dispatch. -/
def runCmd2 : Cmd := { runCmd 1 with phase := .running }

/-- A dispatch to the one tile that the sequence names, and the last post of a job. -/
theorem test_JobsReachTheirTilesAndEnd_met :
    (let s := sRun [set2] runCmd2
     s.Shaped ∧ s.cmd j1 = some runCmd2 ∧ isJobOp runCmd2.op = true ∧ runCmd2.dispatched = false ∧ s.waitOk runCmd2 = true ∧
     (s.part 0).state = .active ∧ ((s.part 0).ctxs.getD runCmd2.ctx {}).res = .resident ∧
     (s.part 0).set? runCmd2.setNum = some set2 ∧ s.dispatchDetail runCmd2 set2 = 0 ∧
     (((s.part 0).tiles.zipIdx).filterMap (fun x => (set2.tjob runCmd2 x.2).map (fun _ => x.1))) = [⟨0, 0⟩]) ∧
    (let c : Cmd := { runCmd2 with dispatched := true, expect := [0, 1], posted := [1] }
     let s := withCmd { up with quads := { cc := { entries := [post1] } } :: List.replicate 7 {} } c
     0 < s.quads.length ∧ (s.quad 0).cc.entries = [post1] ∧ s.cmd post1.job = some c ∧ c.phase ≠ .final ∧
     ∀ x ∈ c.expect, x ∈ c.posted ∨ x = post1.source) := by
  unfold State.Shaped
  decide +kernel

/-- A manifest of two 1 by 1 tensors of rank 1 with SEED. -/
def manSeeded : List Byte :=
  fieldsOf 448 [(5, 1, 1), (6, 2, 2), (0x40, 1, 1), (0x12C, 4, 1), (0x130, 4, 1), (0x14C, 4, 1), (0x150, 4, 1)]

/-- A registration of it with its first tensors seeded, and the set of its base. -/
def seedReg (done : Nat) : RegWork :=
  { handle := 0, repin := false, domain := 0, place := 0, manifest := manSeeded, digest := 0, experts := [], offs := [0, 0], hostIndex := 0
    units := 0, trainable := false, seeds := [0, 0], factors := List.replicate done ([], []) }
def seedCmd (done : Nat) : Cmd := { cmdOf1 0x18 [(0x21, 1, 8), (0x38, 8, 0x6000)] with phase := .running, reg := some (seedReg done) }

/-- The first and the last tensor of such a registration, seeded from F32 weights. -/
theorem test_SeedingKernelLeavesItsFactors_met :
    ∀ n ∈ [0, 1],
      (let s := sRun [set1] (seedCmd n)
       s.Shaped ∧ s.cmd j1 = some (seedCmd n) ∧ (seedReg n).factors.length = n ∧ manSeed (seedReg n).manifest = true ∧
       n < manTensors (seedReg n).manifest ∧ (seedCmd n).phase ≠ .final ∧ s.domainOk 0 0 = true ∧
       (s.part 0).sets.find? (fun x => x.file.base == manBase (seedReg n).manifest) = some set1 ∧
       (s.hostRead ((seedCmd n).param 0x38 8 + seedOffset (seedReg n).manifest (fmtBits ((seedCmd n).param 0x21 1) / 8) n)
         ((manTensor (seedReg n).manifest n).k * (manTensor (seedReg n).manifest n).n * (fmtBits ((seedCmd n).param 0x21 1) / 8))).isSome = true ∧
       ((s.part 0).quadAt (n % max 1 (s.part 0).quads.length)).pq = n) := by
  unfold State.Shaped
  decide +kernel

/-! ### Bases -/

/-- A tile configuration file: one configuration, one sequence, unsigned (R61, R71). -/
def tcFile : List Byte :=
  leBytes 32 0x4000001d80100020153424c4a ++
    leBytes 32 0xbc93f89100000000000000000000000000000000000000000000000000000000 ++
    leBytes 32 0x13d9c013b5b0d665279e3efbb25ad03a00000000000000000000004000000110 ++
    leBytes 32 0x1bad54dd689171b661940b9baad7341970642b470a7e5da85aba74c3f53d1833 ++
    leBytes 32 0x6000010111000000004b7f629300000000000100010000000000000000 ++
    leBytes 32 0x10001000100000005000600000000000000000000 ++
    leBytes 32 0x100000000000000000000000000000000 ++
    List.replicate 32 0 ++
    leBytes 32 0x300002011200000000efd0580b0000000000000000 ++
    leBytes 32 0x10000000100010000 ++
    leBytes 32 0x680003010f00000000fb4804d700000000000100000000000000000000 ++
    leBytes 32 0xff0000000000000000 ++
    List.replicate 64 0 ++
    leBytes 24 0xd69cafd00000000000000000000000000000000

/-- The image of its base: one tensor, one plan entry (Table 13.10). -/
def tcImage : List Byte :=
  leBytes 32 0xc0000000000000008000000000000000010000020149424c4a ++
    leBytes 32 0x14000000000000000400000000000000058 ++
    List.replicate 64 0 ++
    leBytes 32 0x10000000100ff000000000001 ++
    List.replicate 32 0 ++
    leBytes 32 0x10001000100020000000000000000000000000001000100010001 ++
    leBytes 32 0x1000000000000004000000000000000000000000000000000 ++
    List.replicate 192 0

/-- The SHA-384 digest of the image, as the number its bytes spell in little-endian order. -/
def tcDigest : Nat := 0x1bad54dd689171b661940b9baad7341970642b470a7e5da85aba74c3f53d183313d9c013b5b0d665279e3efbb25ad03a

/-- A structure bitstream: every quadrant enabled, unsigned. -/
def stFile : List Byte :=
  leBytes 32 0x2000000e00100010153424c4a ++
    leBytes 32 0x306347a100000000000000000000000000000000000000000000000000000000 ++
    leBytes 32 0xeb8125e400000000000000ff00000000000000000000000800000101 ++
    leBytes 32 0xff0000000000000000000000680001010f ++
    List.replicate 64 0 ++
    leBytes 32 0x88aadcb1000000000000000000000000000000000000000000000000

/-- MANUFACTURE, with the file and the image at their addresses. -/
def sLoad (c : Cmd) : State :=
  withCmd { parted with lc := 1, host := { parted.host with mem := memAt 0x5000 tcFile ++ memAt 0x6000 tcImage } } c

/-- LOAD_BASE of that file as a set. -/
def loadCmd (set : Nat) : Cmd :=
  cmdOf1 0x10 [(0x20, 1, set), (0x24, 4, tcFile.length), (0x28, 8, 0x5000), (0x30, 8, 0x6000), (0x38, 8, 448), (0x40, 48, tcDigest)]

/-- CRC-32C with its register evaluated byte by byte, so that the kernel's recursion stays shallow. -/
def crcStrict : List Byte → Word32 → Word32
  | [], c => c
  | b :: bs, c => if (crc32cByte c b).toNat = 0 then crcStrict bs (crc32cByte c b) else crcStrict bs (crc32cByte c b)

theorem crc32c_strict (bs : List Byte) : crc32c bs = ~~~ crcStrict bs 0xFFFFFFFF#32 := by
  have h : ∀ (bs : List Byte) (c : Word32), bs.foldl crc32cByte c = crcStrict bs c := by
    intro bs
    induction bs with
    | nil => intro c; rfl
    | cons b bs ih => intro c; simp only [List.foldl_cons, crcStrict, ite_self, ih]
  rw [crc32c, h]

/-- The walk over a file's frames with that CRC. -/
def walkStrict (level : Nat) : Nat → Nat → List Byte → Except (Nat × Nat) (List Frame)
  | 0, _, _ => .ok []
  | fuel + 1, pos, bs =>
    if bs.length < 24 then .ok []
    else match firstFail [⟨decide (24 + (frameAt bs).plen ≤ bs.length), 0x07, pos⟩,
         ⟨decide ((frameAt bs).plen % 8 = 0) && decide ((frameAt bs).plen ≤ 1048576), 0x07, pos⟩,
         ⟨decide ((~~~ crcStrict ((frameAt bs).hdr ++ (frameAt bs).payload) 0xFFFFFFFF#32).toNat = (frameAt bs).crc), 0x08, pos⟩,
         ⟨decide ((frameAt bs).index = pos), 0x09, pos⟩,
         ⟨decide ((frameAt bs).level = level), 0x04, pos⟩] with
      | some e => .error e
      | none => match walkStrict level fuel (pos + 1) (bs.drop (24 + (frameAt bs).plen)) with
        | .ok fs => .ok (frameAt bs :: fs)
        | .error e => .error e

theorem walk_strict (level fuel pos : Nat) (bs : List Byte) : walkFrames level fuel pos bs = walkStrict level fuel pos bs := by
  induction fuel generalizing pos bs with
  | zero => rfl
  | succ n ih => simp only [walkFrames, walkStrict, frameChecks, crc32c_strict, ih] <;> rfl

/-- The set that the file gives, and the record of the configuration store. -/
def tcFrames : List Frame := match walkStrict 1 20 0 (tcFile.drop 64) with
  | .ok fs => fs
  | .error _ => []
def tcSet : CfgFile := cfgFileOf tcFile tcFrames
def tcRecord : List Byte :=
  cfgRecord tcFile (slice tcImage (imgHdr tcImage).planOff (imgHdr tcImage).planLen)
    (slice tcImage (imgHdr tcImage).tableOff (16 * (imgHdr tcImage).tensors)) (slice tcImage (imgHdr tcImage).outOff (imgHdr tcImage).outLen)
    (imgHdr tcImage).tensors (imgHdr tcImage).lqBytes

/-- The command is due and reads its file; the file is of set 0, of the command's base and not loaded. -/
theorem test_load_due :
    (sLoad (loadCmd 0)).due j1 0x10 = some (loadCmd 0) ∧ (sLoad (loadCmd 0)).sameSetLoads (loadCmd 0) = [] ∧
    (sLoad (loadCmd 0)).hostRead ((loadCmd 0).param 0x28 8) ((loadCmd 0).param 0x24 4) = some tcFile ∧
    (sLoad (loadCmd 0)).glb.level = 1 ∧ ((sLoad (loadCmd 0)).part 0).tiles.length = 2 ∧
    (cfgFileOf tcFile tcFrames).set = (loadCmd 0).param 0x20 1 ∧
    (cfgFileOf tcFile tcFrames).base = digestOf (slice (loadCmd 0).desc 0x40 48) ∧
    (((sLoad (loadCmd 0)).part 0).set? 0).isSome = false ∧ (loadCmd 1).param 0x20 1 = 1 := by decide +kernel

/-- So the file, of set 0 and unsigned in MANUFACTURE, loads as set 0 and not as set 1. -/
theorem test_load_file_ok : (sLoad (loadCmd 0)).loadFile (loadCmd 0) tcFile = .ok tcSet := by
  unfold State.loadFile checkFile headerChecks
  simp only [walk_strict, crc32c_strict]
  decide +kernel
theorem test_load_file_refused : (sLoad (loadCmd 1)).loadFile (loadCmd 1) tcFile = .error (stAborted, 0x0D) := by
  unfold State.loadFile checkFile headerChecks
  simp only [walk_strict, crc32c_strict]
  decide +kernel

/-- The image: its digest, layout, outliers and plan hold, and everything finds room. -/
theorem test_load_image :
    (sLoad (loadCmd 0)).hostRead ((loadCmd 0).param 0x30 8) ((loadCmd 0).param 0x38 8) = some tcImage ∧
    sha384 tcImage = digestOf (slice (loadCmd 0).desc 0x40 48) := by decide +kernel
theorem test_load_room :
    imageFormat tcImage 1 2 = none ∧
    outliersOk ((List.range (imgHdr tcImage).tensors).map (imgTensor tcImage (imgHdr tcImage).tableOff))
      ((outlierEntries ((imgHdr tcImage).outLen / 8 + 1) (slice tcImage (imgHdr tcImage).outOff (imgHdr tcImage).outLen)).getD []) = true ∧
    planCheck (sLoad (loadCmd 0)).glb.cfg tcSet 1 (slice tcImage (imgHdr tcImage).planOff (imgHdr tcImage).planLen) = none ∧
    (sLoad (loadCmd 0)).baseRoom 0 (imgHdr tcImage).lqBytes = some 0 ∧ (sLoad (loadCmd 0)).cfgRoom 0 tcRecord.length = some 64 ∧
    (sLoad (loadCmd 0)).hostRoomFor ((imgHdr tcImage).hostBytes / 4096) = some 0 ∧ (imgHdr tcImage).hostBytes / 4096 = 0 ∧
    ((sLoad (loadCmd 0)).loadHostBlock 0 0 0 []).isSome = true := by
  decide +kernel

/-- A patch of 64 bytes in layer 0, logical quadrant 0, of base 0, unsigned (Table 13.11). -/
def patchFile : List Byte :=
  fieldsOf 296 [(0, 4, 0x49504C4A), (4, 1, 1), (8, 4, 1), (0x44, 4, 64), (192, 1, 0xFF)]

/-- Its set: one stream entry of 64 bytes a tile in layer 0. -/
def set3 : CfgSet := { set2 with entries := [{ plan := 0, source := 0, layer := 0, nbuf := 2, consumer := 0, perBuf := 1, bufLines := 1, shards := 1, peer := 0, ring := 0, src := 0, tileBytes := 64, mask := 1 }] }

/-- PATCH_LAYER of it. -/
def patchCmd : Cmd := cmdOf1 0x11 [(0x24, 4, 296), (0x28, 8, 0x5000)]
def sPatch : State :=
  withCmd { parted with
    lc := 1
    parts := [(0, { part0 with sets := [set3] })]
    host := { parted.host with mem := memAt 0x5000 patchFile } } patchCmd

/-- An unsigned patch in MANUFACTURE, of one range in logical quadrant 0, and a stripe for its bytes. -/
theorem test_PatchesGoThroughTheirPhases_staged :
    sPatch.due j1 0x11 = some patchCmd ∧ (sPatch.part 0).set? (patchCmd.param 0x20 1) = some set3 ∧
    sPatch.retiredFor patchCmd 0 = false ∧ sPatch.hostRead (patchCmd.param 0x28 8) (patchCmd.param 0x24 4) = some patchFile ∧
    168 ≤ patchCmd.param 0x24 4 ∧
    patchBody 1 (patchCmd.param 0x22 2) (sPatch.part 0).quads.length set3.file.base (patchFile.take (296 - 104)) =
      .ok [(0, 0, List.replicate 64 0)] ∧
    allZero (slice (patchFile.drop (296 - 104)) 1 7) = true ∧
    patchInside (sPatch.part 0) set3 (patchCmd.param 0x22 2) [(0, 0, List.replicate 64 0)] = true ∧
    fieldAt (patchFile.drop (296 - 104)) 0 1 = 0xFF ∧ sPatch.unsignedOk = true ∧
    beNat (slice (patchFile.drop (296 - 104)) 8 48) = 0 ∧ beNat (slice (patchFile.drop (296 - 104)) 0x38 48) = 0 ∧
    ((List.range (sPatch.part 0).quads.length).mapM (fun lq => sPatch.stageRoom 0 lq (stagedBefore [(0, 0, 64)] 1 lq))).isSome = true ∧
    sPatch.mul.patchOrder.any (fun o => decide (patchCmd.order < o)) = false := by
  decide +kernel

/-- The patch of job `j1` in a phase. -/
def patchAt (ph : PatchPhase) : Patch :=
  { job := j1, order := 0, set := 0, layer := 0, digest := 0, ranges := [], staged := [], phase := ph }
/-- Its state; `started` says whether a fill of the layer reads. -/
def sPhase (ph : PatchPhase) (started : Bool) : State :=
  { withCmd parted { patchCmd with phase := .running } with
    parts := [(0, { part0 with sets := [set3], patches := [patchAt ph] })]
    quads := { tiles := [(0, { ctxs := [(0, { ring := some { job := j1, set := 0, nbuf := 2, bufLines := 1, base := 0, next := [], fills := [{ num := 0, entry := 0, index := 0, started := started }] } })] })] } :: List.replicate 7 {} }

/-- A patch behind an earlier one that is not staged. -/
def sBehind : State := two (sPhase .staging false) { cmdOf1 0x11 [] with order := 0 } { cmdOf1 0x12 [] with order := 1 }

/-- A patch in each phase, that may be placed and that may not, its layer still read and drained. -/
theorem test_PatchesGoThroughTheirPhases_phases :
    ((sPhase .staging false).part 0).patches = [patchAt .staging] ∧ (sPhase .staging false).mayPlace 0 (patchAt .staging) = true ∧
    (two (sPhase .staging false) (cmdOf1 0x11 []) (cmdOf1 0x12 [])).mayPlace 0 { patchAt .staging with order := 1 } = false ∧
    ((sPhase .drain false).part 0).patches = [patchAt .drain] ∧
    (sPhase .drain false).layerReads 0 0 0 = false ∧ (sPhase .drain true).layerReads 0 0 0 = true ∧
    ((sPhase .copy false).part 0).patches = [patchAt .copy] ∧ (sPhase .copy false).vault.copying = false ∧
    (patchAt .copy).retire = [] ∧ (sPhase .copy false).cmd j1 = some { patchCmd with phase := .running } ∧ patchCmd.status = stOk ∧
    ((sPhase .copy false).part 0).set? 0 = some set3 := by decide +kernel

/-- RETIRE_BASE of set 0: behind an unstaged patch, without a patch and with a running patch of it. -/
theorem test_BasesAreAddedAndRetired_retire :
    sBehind.due j1 0x12 = some { cmdOf1 0x12 [] with order := 1 } ∧ sBehind.patchesBefore 0 1 (some 0) = true ∧
    (withCmd sPatch (cmdOf1 0x12 [])).due j1 0x12 = some (cmdOf1 0x12 []) ∧
    (withCmd sPatch (cmdOf1 0x12 [])).patchesBefore 0 0 (some 0) = false ∧
    ((withCmd sPatch (cmdOf1 0x12 [])).part 0).patches.filter (fun x => x.set == (cmdOf1 0x12 []).param 0x20 1) = [] ∧
    ((withCmd sPatch (cmdOf1 0x12 [])).part 0).set? ((cmdOf1 0x12 []).param 0x20 1) = some set3 ∧ set3.retired = false ∧
    (withCmd (sPhase .copy false) (cmdOf1 0x12 [])).due j1 0x12 = some (cmdOf1 0x12 []) ∧
    (withCmd (sPhase .copy false) (cmdOf1 0x12 [])).patchesBefore 0 0 (some 0) = false ∧
    (((withCmd (sPhase .copy false) (cmdOf1 0x12 [])).part 0).patches.filter (fun x => x.set == (cmdOf1 0x12 []).param 0x20 1)).getLast? =
      some (patchAt .copy) := by decide +kernel

/-! ### Tiles -/

/-- Tile 0 of quadrant 0, and its state with a job of set 2 dispatched to it. -/
def t0 : TileId := ⟨0, 0⟩
/-- The RUN on its tiles, for one row. -/
def runCmd3 : Cmd := { runCmd2 with dispatched := true, expect := [0], rows := [{ word := 0, void := false, status := 0 }] }
/-- Its position in the tile. -/
def job0 : TJob := (set2.tjob runCmd3 0).getD { job := j1, set := 0, plan := 0 }
/-- A tile whose context 0 holds that job, with the configuration in slot 1. -/
def tile0 : Tile := { slots := [{}, { set := 0, id := 0, valid := true }] ++ List.replicate 6 {}, current := some 1, ctxs := [(0, { jobs := [job0] })] }
/-- The state around a tile. -/
def sTile (t : Tile) : State :=
  { sRun [set2] runCmd3 with quads := { tiles := [(0, t)] } :: List.replicate 7 {} }

/-- The slice of that job as it runs, and as it waits for the switch to slot 1. -/
def run0 : Running := { ctx := 0, job := j1, slot := 1, cfg := set2.file.tiles.headD { id := 0 }, lay := {} }
def tileRun : Tile := { tile0 with running := some run0 }
def tileSwitch : Tile := { tile0 with current := none, switching := some ⟨1, run0⟩ }
/-- A tile with no slot filled, and with a fill of slot 0 under way. -/
def tileEmpty : Tile := { tile0 with slots := List.replicate 8 {}, current := none }
def tileFill : Tile := { tile0 with slots := [{ set := 0, id := 0, filling := true }] ++ List.replicate 7 {} }

/-- A closing domain while a tile of its partition runs a slice. -/
theorem test_CloseErasesTheDomain_running :
    (let s : State := { sTile tileRun with dir := { domains := [(0, { open_ := true, closing := true, slotKey := true })] } }
     s.Shaped ∧ s.closeReady 0 = true ∧ s.partOfDomain 0 = some 0 ∧ t0 ∈ (s.part 0).tiles ∧ t0.q < 8 ∧ (s.tile t0).running ≠ none) := by
  unfold State.Shaped
  decide +kernel

/-- The next slice's configuration is in no slot, and every slot is free; a fill under way. -/
theorem test_SlotFillsTakeAFreeSlot_met :
    (sTile tileEmpty).Shaped ∧ (sTile tileEmpty).ownerOf t0 = some 0 ∧ ((sTile tileEmpty).tile t0).slots.any CfgSlot.filling = false ∧
    ((sTile tileEmpty).ctxOrder 0 t0).findSome? (fun i => ((sTile tileEmpty).nextNamed 0 t0 i).bind (fun n =>
      if ((sTile tileEmpty).tile t0).slots.any (fun k => k.valid && k.set == n.1 && k.id == n.2) then none else some n)) = some (0, 0) ∧
    (sTile tileEmpty).victimSlot 0 t0 = some 0 ∧ (sTile tileFill).Shaped ∧
    ((sTile tileFill).tile t0).slots.any CfgSlot.filling = true ∧ (sTile tileFill).ownerOf t0 = some 0 ∧
    (∀ c ∈ ((sTile tileFill).part 0).sets, c.retired = false) := by
  unfold State.Shaped
  decide +kernel

/-- The slice is selected: with its slot current, with no slot current, and while a switch of no lower priority runs; the
switch ends, and the slice runs. -/
theorem test_SlicesStartSwitchAndRetire_met :
    (∀ t ∈ [tile0, { tile0 with current := none }, tileSwitch],
      (sTile t).Shaped ∧ (sTile t).ownerOf t0 = some 0 ∧ ((sTile t).tile t0).running = none ∧
      ((sTile t).pick 0 t0 {}).map (fun k => (k.ctx, k.slot, k.job)) = some (0, 1, job0) ∧
      (∀ x ∈ (mget {} ((sTile t).tile t0).ctxs 0).jobs, x = job0) ∧
      ((sTile t).tile t0).current = (if t = tile0 then some 1 else none) ∧
      (sTile t).preempts 0 ((sTile t).tile t0).switching 0 = decide (t ≠ tileSwitch)) ∧
    ((sTile tileSwitch).tile t0).switching = some ⟨1, run0⟩ ∧
    (mget {} ((sTile tileSwitch).tile t0).ctxs 0).jobs.find? (fun x => x.job == run0.job) = some job0 ∧
    ((sTile tileSwitch).sliceOf 0 t0 job0).isSome = true ∧
    (sTile tileRun).Shaped ∧ (sTile tileRun).ownerOf t0 = some 0 ∧ ((sTile tileRun).tile t0).running = some run0 ∧
    (mget {} ((sTile tileRun).tile t0).ctxs 0).jobs.find? (fun x => x.job == run0.job) = some job0 ∧
    ((sTile tileRun).sliceOf 0 t0 job0).isSome = true := by
  unfold State.Shaped
  decide +kernel

/-- The same with a fused integer configuration of the tensor of `man1`, for a row of handle 5. -/
def setF : CfgSet :=
  { set2 with file := { tiles := [{ id := 0, mode := 1, m := 1, n := 1, k := 1, cycles := 6, mask := 1, fused := true, rank := 1, tensor := 1 }], seqs := [{ mask := 1, steps := [⟨0, 1⟩] }] } }
def cmdF : Cmd := { runCmd3 with rows := [{ word := rowWord 0 5 1, void := false, status := 0, adapter := true }] }
def sFused (t : Tile) : State :=
  { sDir (ent .resident) with
    parts := [(0, { part0 with sets := [setF] })]
    host := (withCmd up cmdF).host
    quads := { tiles := [(0, t)] } :: List.replicate 7 {} }

/-- One staged line of context 0; a block gathered for that row, while no slot fill and while one holds the port; a handle
that has moved on. -/
theorem test_NetworkTrafficLeavesAndArrives_met :
    (let t : Tile := { tile0 with ctxs := [(0, { jobs := [job0], staged := [⟨5, j1, []⟩] })] }
     (sTile t).Shaped ∧ (sTile t).ownerOf t0 = some 0 ∧ (mget {} ((sTile t).tile t0).ctxs 0).staged = [⟨5, j1, []⟩]) ∧
    (sFused tile0).Shaped ∧ (sFused tile0).ownerOf t0 = some 0 ∧ bitsOf (rowWord 0 5 1) 4 16 = 5 ∧
    ((sFused tile0).entry 5).state ≠ .free ∧ ((sFused tile0).entry 5).epoch = bitsOf (rowWord 0 5 1) 0 4 ∧
    ((sFused tile0).tile t0).slotFilling = false ∧ (mget {} ((sFused tile0).tile t0).ctxs 0).job? = some job0 ∧
    (sFused tile0).cmd job0.job = some cmdF ∧ ((sFused tile0).part 0).logical t0 = some 0 ∧
    (cmdF.rows.find? (fun r => r.word == rowWord 0 5 1 && r.adapter && !r.void)).isSome = true ∧
    ((sFused tile0).part 0).set? cmdF.setNum = some setF ∧
    (segmentCfg ((sFused tile0).entry 5).manifestBytes (setF.jobCfgs cmdF.plans 0) 0 1).isSome = true ∧
    (mget {} ((sFused tile0).tile t0).ctxs 0).seg? { word := rowWord 0 5 1, tensor := 0, col := 0, len := 1, copy := 0 } = none ∧
    (sFused tileFill).ownerOf t0 = some 0 ∧ ((sFused tileFill).tile t0).slotFilling = true ∧
    ((sFused tile0).entry (bitsOf (rowWord 0 6 1) 4 16)).state = .free ∧
    ((sFused tile0).entry (bitsOf (rowWord 0 5 2) 4 16)).epoch ≠ bitsOf (rowWord 0 5 2) 0 4 := by
  unfold State.Shaped
  decide +kernel

/-! ### Memories -/

/-- The ends of R205's ranges. -/
theorem test_OneUpsetIsCorrectedTwoAreFound_met :
    (2 ^ 64 - 1 < 2 ^ 64) ∧ eccRead (2 ^ 64 - 1) false (2 ^ 71) = .corrected (2 ^ 64 - 1) ∧ (0 : Nat) ≠ 71 := by decide +kernel

/-- A write of a tile's last line: of every byte, and of the top byte over a line of another KIND. -/
def lineReq (mask : Nat) (op : Option Nat) : LineReq := { line := 24575, mask := mask, kind := 1, atomic := op }
def tileLine : Tile := { scratch := { lines := [(24575, { kind := .domain, data := 1, marks := 1, poison := 1 })] } }
def sLine (f : Scratch → Scratch) : State :=
  { parted with quads := { tiles := [(0, { tileLine with scratch := f tileLine.scratch })] } :: List.replicate 7 {} }

theorem test_PartialWritesClearForeignBytes_met :
    (sLine id).Shaped ∧ (sLine id).bankReached t0 24575 = true ∧ bitOf 3 2 = false ∧ bitOf 0 2 = false ∧
    ((sLine id).tile t0).scratch.behindDma (portOf 0) 24575 (2 ^ 63) = false ∧
    ((sLine id).tile t0).scratch.lost.any (fun w => w.port == portOf 0) = false ∧
    (∀ m ∈ [0, 1, 2 ^ 63, fullMask], (lineReq m none).atomic = none ∧ (lineReq m none).mask < 2 ^ 64) ∧
    (mget clearLine ((sLine id).tile t0).scratch.lines 24575).kind ≠ LineKind.ofCode 1 := by
  unfold State.Shaped
  decide +kernel

/-- A DMA write of the line's word 0 waits. -/
def waits : LostWrite := { port := .dma, line := 24575, mask := 1, data := 7, atomic := none }
def sWaits : State := sLine (fun (x : Scratch) => { x with lost := [waits, { waits with port := .network }] })

/-- Each atomic on a free port; a write that loses to the VXU (bit 2) and one that loses to a waiting DMA write; retries of
both ports. -/
theorem test_AtomicsAndCollisions_met :
    (∀ op ∈ [0, 1, 2, 3], (lineReq 0xFF (some op)).atomic = some op) ∧ (sLine id).bankReached t0 24575 = true ∧
    ((sLine id).tile t0).scratch.behindDma (portOf 0) 24575 0xFF = false ∧ bitOf 4 2 = true ∧ bitOf 7 2 = true ∧
    sWaits.Shaped ∧ sWaits.bankReached t0 24575 = true ∧ (sWaits.tile t0).scratch.behindDma (portOf 0) 24575 (2 ^ 7) = true ∧
    (sWaits.tile t0).scratch.behindDma (portOf 0) 24575 (2 ^ 8) = false ∧ (sWaits.tile t0).scratch.behindDma (portOf 1) 24575 1 = false ∧
    (sWaits.tile t0).scratch.lost.find? (fun w => w.port == portOf 1) = some waits ∧
    (sWaits.tile t0).scratch.lost.find? (fun w => w.port == portOf 0) = some { waits with port := .network } := by
  unfold State.Shaped
  decide +kernel

/-- Way 0 of quadrant 0, an address way of partition 0, and a way of nobody. -/
theorem test_WaysServeTheirPartition_met :
    parted.Shaped ∧ parted.wayOwner 0 0 = some 0 ∧ 0 ∉ (parted.quad 0).qb.scrubbing ∧ (32767 : Nat) < 32768 ∧
    parted.wayOwner 0 15 = none ∧ parted.wayOwner 7 0 ≠ some 0 := by
  unfold State.Shaped
  decide +kernel

/-- The general region's last stripe SHARED, with logging on or off. -/
def sShared (logging : Bool) : State := State.setStripes { parted with parts := [(0, { part0 with logging := logging })] } 0 0 4 93 1 (targetAttr 0x8000)
/-- A request of the load engine to that stripe, and one of a tile to the base region. -/
def stackReq (region off unit : Nat) (write : Bool) (op : Option Nat) (kind : Nat) : StackReq :=
  { part := 0, job := some j1, pma := region * 2 ^ 52 + off, write := write, data := 5, mask := fullMask, atomic := op, unit := unit, kind := kind
    tag := 0, row := none, upsets := [] }
def genOff : Nat := 93 * 4194304
def genLoc : LineLoc := ⟨0, 0, 574, 18808832⟩

/-- A line that its page takes, of SHARED and CLEAR kinds; atomics; a read; a write of a FROZEN page. -/
theorem test_StacksServeTheirOwner_met :
    (∀ b ∈ [false, true], (sShared b).Shaped ∧ (sShared b).pmaWord 0 (4 * 2 ^ 52 + genOff) = some genLoc ∧ genLoc.stack = 0 ∧
      (sShared b).pchOwner 0 genLoc.pch = some 0 ∧ ((sShared b).attr genLoc).frozen = false ∧ (sShared b).logs 0 genLoc.pch = b ∧
      pageTakes ((sShared b).attr genLoc) (LineKind.ofCode 1) 0 = some true ∧
      pageTakes ((sShared b).attr genLoc) (LineKind.ofCode 0) 0 = some true) ∧
    256 ≤ (stackReq 4 genOff 256 true none 1).unit ∧ LineKind.ofCode 1 ≠ .clear ∧
    (stackReq 4 genOff 256 true none 1).upsets = [] ∧ (stackReq 4 genOff 256 false (some 3) 1).atomic = some 3 ∧
    (parted.pmaWord 0 0).map (fun l => (l.stack, parted.pchOwner 0 l.pch, (parted.attr l).frozen)) = some (0, some 0, true) ∧
    parted.loadEngine (stackReq 0 0 0 true none 1) = false ∧
    (withCmd parted (cmdOf1 1 [])).cmd j1 = some (cmdOf1 1 []) ∧ (cmdOf1 1 []).phase ≠ .final ∧ (cmdOf1 1 []).status = stOk := by
  unfold State.Shaped
  decide +kernel

/-- A pseudo-channel with two pages to fill; the patrol at its last line and before it; a bank in ZERO_FILL; a tile's scrub. -/
theorem test_FillsAndScrubsEnd_met :
    (let s : State := { up with hbm := { zeroFill := [(63, [575, 3])] } :: List.replicate 7 {} }
     s.Shaped ∧ mget [] (s.stack 0).zeroFill 63 = [575, 3] ∧ s.clk.pm = .d0) ∧
    (∀ n ∈ [0, pchLines - 1], let s : State := { up with hbm := { state := .ready, scrubEnable := true, patrol := if n = 0 then [] else [(63, n)] } :: List.replicate 7 {} }
      s.Shaped ∧ (s.stack 0).scrubEnable = true ∧ (s.stack 0).state = .ready ∧ mget 0 (s.stack 0).patrol 63 = n) ∧
    (sLine (fun (x : Scratch) => { x with banks := [(31, .zeroFill)] })).Shaped ∧
    mget .on ((sLine (fun (x : Scratch) => { x with banks := [(31, .zeroFill)] })).tile t0).scratch.banks 31 = .zeroFill := by
  unfold State.Shaped
  decide +kernel

/-- `up` with tile 0 in test state, its GO pending and its micro-op refused or not. -/
def sTest (v : Vxu) : State := { up with quads := { tiles := [(0, { vxu := v })] } :: List.replicate 7 {} }

/-- A free tile, and the test state before GO, with GO pending and in its scrub. -/
theorem test_TheTestPortRunsOneOperation_met :
    up.Shaped ∧ up.ownerOf t0 = none ∧ (up.tile t0).running = none ∧ bitOf up.clk.gated t0.q = false ∧ (up.tile t0).vxu.test = false ∧
    (∀ r ∈ [false, true], (sTest { test := true, goBusy := r, refused := r, scrubbing := !r }).Shaped ∧
      ((sTest { test := true, goBusy := r, refused := r, scrubbing := !r }).tile t0).vxu.test = true) ∧
    ((sTest { test := true }).tile t0).vxu.scrubbing = false ∧ ((sTest { test := true }).tile t0).vxu.goBusy = false ∧
    ((sTest { test := true, goBusy := true }).tile t0).vxu.goBusy = true ∧
    ((sTest { test := true, goBusy := true }).tile t0).vxu.refused = false ∧
    ((sTest { test := true, goBusy := true, refused := true }).tile t0).vxu.refused = true ∧
    ((sTest { test := true, scrubbing := true }).tile t0).vxu.scrubbing = true := by
  unfold State.Shaped
  decide +kernel

/-- A saturation entry of the last number, in its second window. -/
def sSat : State :=
  { up with
    orbit := { val := 3000 }
    quads := { sat := [(63, { valid := true, window := 1, threshold := 2, count := 1, winStart := 0 })] } :: List.replicate 7 {} }
theorem test_SaturationEntriesCountInWindows_met :
    sSat.Shaped ∧ bitOf 0x80000000 31 = true ∧ (mget {} (sSat.quad 0).sat 63).valid = true ∧ (mget {} (sSat.quad 0).sat 63).window ≠ 0 ∧
    sSat.now / (mget {} (sSat.quad 0).sat 63).ticks ≠ (mget {} (sSat.quad 0).sat 63).winStart / (mget {} (sSat.quad 0).sat 63).ticks := by
  unfold State.Shaped
  decide +kernel

/-! ### Clocks and power states -/

/-- `up` with its clocks changed. -/
def clocked (f : Clk → Clk) : State := { up with clk := f up.clk }
/-- The first domain, or ACLK's, in the steps of a switch. -/
def domAt (n : Nat) (d : Dom) : State := clocked (fun (k : Clk) => { k with dom := k.dom.modify n (fun _ => d) })

/-- A switch of each end of R572's ranges, free and not; its steps, to a source that is ready and to one that is not; REF
and lock lost and back. -/
theorem test_ClockSwitchesRunTheirSteps_met :
    up.Shaped ∧ parted.Shaped ∧ up.hostUp = true ∧ parted.hostUp = true ∧ srcOk 0 (bitsOf 0x80000001 0 2) = true ∧
    srcOk 4 (bitsOf 0x80000002 0 2) = true ∧ bitOf 0x80000000 31 = true ∧ (up.clkDom 0).busy = false ∧ (up.clkDom 4).busy = false ∧
    up.switchFree = true ∧ parted.switchFree = false ∧
    (∀ n ∈ [0, 4], ∀ g ∈ [false, true], (domAt n { busy := true, gated := g }).Shaped ∧
      ((domAt n { busy := true, gated := g }).clkDom n).busy = true ∧ ((domAt n { busy := true, gated := g }).clkDom n).gated = g) ∧
    (domAt 0 { busy := true }).atBoundary = true ∧ (domAt 0 { busy := true }).clk.phase = .idle ∧
    (domAt 0 { busy := true }).srcReady ((domAt 0 { busy := true }).clkDom 0).want = true ∧
    (let s : State := { domAt 0 { busy := true, want := 1 } with clk := { (domAt 0 { busy := true, want := 1 }).clk with refOk := false } }
     s.srcReady (s.clkDom 0).want = false) ∧
    up.clk.refOk = true ∧ up.clk.locked = true ∧ (clocked (fun (k : Clk) => { k with locked := false })).clk.refOk = true ∧
    up.clk.settled = true ∧
    (let s := clocked (fun (k : Clk) => { k with aclkRc := true, refTicks := 10 })
     s.Shaped ∧ s.clk.aclkRc = true ∧ s.clk.refOk = true ∧ 10 ≤ s.clk.refTicks ∧ (s.clkDom 4).src = 1) := by
  unfold State.Shaped
  decide +kernel

/-- Requests for the same, a slower and (after a cap) a faster clock, and each phase of a transition. -/
theorem test_PStatesMoveInOrder_met :
    up.hostUp = true ∧ up.clk.pm = .d0 ∧ up.clk.phase = .idle ∧ up.isReady = true ∧
    max (bitsOf 0 0 2) (max up.pwr.powerCap up.pwr.thermalCap) = up.clk.cur ∧ up.clk.cur < max (bitsOf 3 0 2) (max up.pwr.powerCap up.pwr.thermalCap) ∧
    (let s := clocked (fun (k : Clk) => { k with cur := 3 })
     max (bitsOf 0 0 2) (max s.pwr.powerCap s.pwr.thermalCap) < s.clk.cur ∧ s.hostUp = true ∧ s.isReady = true) ∧
    (∀ ph ∈ [PPhase.rampUp, .hold, .stopped, .rampDown], let s := clocked (fun (k : Clk) => { k with phase := ph })
      s.Shaped ∧ s.hostUp = true ∧ s.clk.pm = .d0 ∧ s.clk.phase = ph ∧ s.clk.phase ≠ .idle) ∧
    (clocked (fun (k : Clk) => { k with phase := .hold })).atBoundary = true ∧
    (let s : State := { sTile tileRun with clk := { up.clk with phase := .hold } }
     s.clk.phase = .hold ∧ s.atBoundary = false) ∧
    (clocked (fun (k : Clk) => { k with phase := .stopped })).clk.vdd = vddOf 0 ∧
    (clocked (fun (k : Clk) => { k with phase := .stopped, goal := 3 })).clk.vdd ≠ vddOf 3 ∧
    (∀ b ∈ [false, true], (clocked (fun (k : Clk) => { k with phase := .rampDown, l2Waiting := b })).clk.l2Waiting = b) ∧
    (clocked (fun (k : Clk) => { k with phase := .rampDown })).pTarget = (clocked (fun (k : Clk) => { k with phase := .rampDown })).clk.cur := by
  unfold State.Shaped
  decide +kernel

/-- `up` in L3, or armed for it, with PERST_N asserted or not and a watched source. -/
def sL3 (n : Nat) (perst : Bool) : State :=
  { clocked (fun (k : Clk) => { k with pm := .l3 }) with
    pwr := { perst := perst }
    roo := { up.roo with watch := [(0, true, n)], timerLeft := some 0 }
    sdg := { up.sdg with cfg := [(n, { enable := true })] } }

/-- A quadrant to gate, being gated, gated and being restored. -/
theorem test_quadrant_gating_met :
    (let s := clocked (fun (k : Clk) => { k with gate := 0x80 })
     bitOf s.clk.gate 7 = true ∧ bitOf s.clk.gated 7 = false ∧ bitOf s.clk.entering 7 = false ∧ s.clk.phase = .idle ∧ s.isReady = true ∧
     s.parts = [] ∧ (s.quad 7).tiles = [] ∧ (s.stack 7).zeroFill = []) ∧
    (let s := clocked (fun (k : Clk) => { k with gate := 0x80, entering := 0x80 })
     s.Shaped ∧ bitOf s.clk.entering 7 = true ∧ bitOf s.clk.gate 7 = true) ∧
    (let s := clocked (fun (k : Clk) => { k with gate := 0x80, gated := 0x80 })
     s.Shaped ∧ s.hostUp = true ∧ bitOf 0 7 = false ∧ bitOf s.glb.cfg.quadEnable 7 = true ∧ bitOf s.clk.gated 7 = true) ∧
    (let s := clocked (fun (k : Clk) => { k with gated := 0x80, exiting := 0x80 })
     s.Shaped ∧ bitOf s.clk.exiting 7 = true ∧ bitOf s.clk.gated 7 = true) := by
  unfold State.Shaped
  decide +kernel

/-- L2 and L3 requested, taken and refused; L2's entry and exit; L3 armed, timed out and entered; and left at a watched
source of each kind and at PERST_N. -/
theorem test_PowerStatesAreEnteredAndLeft_met :
    up.hostUp = true ∧ up.pmBusy = false ∧ up.isReady = true ∧ up.l2Ok = true ∧ up.clk.phase = .idle ∧ up.clk.pm = .d0 ∧ up.parts = [] ∧
    parted.hostUp = true ∧ parted.pmBusy = false ∧ parted.isReady = true ∧ parted.clk.pm = .d0 ∧
    (∃ x ∈ parted.parts, x.2.state ≠ .free) ∧
    (let s := clocked (fun (k : Clk) => { k with pm := .armed })
     s.hostUp = true ∧ s.pmBusy = false ∧ s.clk.pm = .armed ∧ s.pwr.main = .on ∧ s.pwr.perst = false) ∧
    (∀ w ∈ [false, true], (clocked (fun (k : Clk) => { k with pm := .entering, wakePending := w })).clk.pm = .entering) ∧
    (clocked (fun (k : Clk) => { k with pm := .exiting })).clk.pm = .exiting ∧
    mapOk {} (clocked (fun (k : Clk) => { k with pm := .exiting })).dir.domains = true ∧
    (clocked (fun (k : Clk) => { k with pm := .l2 })).hostUp = true ∧ wakesL2 .pf .bar0 0x800000 = true ∧
    (∀ n ∈ [1200000000, 1200000001], let s : State := { clocked (fun (k : Clk) => { k with pm := .armed }) with orbit := { val := n } }
      s.clk.armedAt + 1200000000 ≤ s.orbit.val) ∧
    (∀ n ∈ [0x393, 0x380, 0x38F, 0x390], (sL3 n false).clk.pm = .l3 ∧ (sL3 n false).pwr.main = .on ∧ (sL3 n false).watched n = true ∧
      (sL3 n false).srcEnabled n = true) ∧ (sL3 0x393 false).roo.timerLeft = some 0 ∧
    (sL3 0 true).clk.pm = .l3 ∧ (sL3 0 true).pwr.main = .on ∧ (sL3 0 true).pwr.perst = true := by decide +kernel

/-! ### Registers -/

/-- ORBIT's low register, a ring register of a VF, the snapshot registers and the clears, in D0. -/
theorem test_RegistersLatchClearAndSelect_met :
    up.hostUp = true ∧ up.fnLive .pf = true ∧ hasSpace .pf .bar0 = true ∧ 0x300010 % 4 = 0 ∧ isLatching .pf .bar0 0x300010 = true ∧
    up.clk.pm = .d0 ∧ parted.fnLive (.vf 0) = true ∧ hasSpace (.vf 0) .bar0 = true ∧ up.isReady = true ∧
    (∀ q ∈ List.range 8, mapOk {} (up.quad q).tiles = true) ∧ up.Shaped ∧ place 0x1200128 = .tile t0 0x128 ∧
    place 0x2FF0128 = .tile ⟨7, 31⟩ 0x128 ∧ place 0x800414 = .hbm 0 0x414 ∧ place 0x870414 = .hbm 7 0x414 ∧
    ({ up with glb := { up.glb with locked := false } } : State).glb.locked = false ∧ 0x101 % 256 = 1 ∧ 2 % 256 ≠ 1 ∧
    ({ up with glb := { up.glb with locked := true } } : State).glb.locked = true ∧ (Space.bar0 : Space) ≠ .msixCtl ∧
    bitsOf 999 0 20 < 1000 ∧ 1000 ≤ bitsOf 1000 0 20 ∧ bitsOf 1000000 0 20 ≤ 1000000 ∧ 1000000 < bitsOf 1000001 0 20 := by
  unfold State.Shaped
  decide +kernel

/-! ### Steps and commits -/

/-- Slot 15 of partition 0, a command, the step list and a member list in host memory, and domain 0's binding to peer 9. -/
def sStep (t : TrSlot) (c : Cmd) : State :=
  { sTrain .clean with
    orbit := { val := 1200 * 50000 }
    host := { (withCmd (sTrain .clean) c).host with mem := memAt 0x5000 (leBytes 8 (5 + 2 ^ 20)) ++ memAt 0x5800 (leBytes 2 0) }
    train := { slots := [(15, t)] }
    jan := { up.jan with bindings := [(1, { state := .open_, kind := 2, part := 0, domain := 0, peer := 9 })] } }

/-- COMMIT_STEP of slot `k` with an op, one handle and one member. -/
def stepCmd (k op : Nat) : Cmd := cmdOf1 3 [(0x20, 1, k), (0x21, 1, op), (0x22, 2, 1), (0x24, 4, 7), (0x28, 8, 0x5000), (0x30, 8, 0x5800), (0x38, 1, 1)]

/-- A commit of the devices 0 (this one) and 9 in a phase; alone. -/
def cmAt (ph : CommitPhase) (coord : Bool) : Commit :=
  { job := j1, phase := ph, members := [0, 9], rank := 0, coord := coord, coordPeer := if coord then 0 else 9, step := 7, check := 3, start := 0 }
/-- A slot with that commit. -/
def slotAt (st : TrState) (cm : Option Commit) : TrSlot := { state := st, list := [5 + 2 ^ 20], commit := cm }
/-- Its running command. -/
def stepRun (op : Nat) : Cmd := { stepCmd 15 op with phase := .running }

/-- Each op at the last slot and beyond, on slots of each state, and the zeroing of a slot. -/
theorem test_CommitStepsRunTheirOp_met :
    (∀ k ∈ [15, 16], (sStep (slotAt .accumulating none) (stepCmd k 0)).due j1 0x03 = some (stepCmd k 0) ∧ (stepCmd k 0).param 0x21 1 = 0 ∧
      (stepCmd k 0).param 0x20 1 = k) ∧
    (let s := sStep (slotAt .accumulating none) (stepRun 0)
     s.cmd j1 = some (stepRun 0) ∧ (stepRun 0).op = 0x03 ∧ s.waitOk (stepRun 0) = true ∧ s.trainsBefore (stepRun 0) 15 = false ∧ s.commitsQueued (stepRun 0) 15 = false ∧
     (s.slot 0 15).state = .accumulating ∧ (s.slot 0 15).commit = none ∧ (s.slot 0 15).acking = [] ∧
     s.readList 0x5000 1 = some [5 + 2 ^ 20] ∧ s.hostRead 0x5800 2 = some [0, 0] ∧ s.listCheck 0 none [5 + 2 ^ 20] = none ∧
     (s.slot 0 15).partialG = false ∧ (s.entry 5).step ≠ 0xFFFFFFFF ∧ s.membersOk [0] = some 0 ∧
     (List.range (gabTotal (s.gabParts 0 0 [5 + 2 ^ 20]))).all (fun l => (gabLine (s.gabParts 0 0 [5 + 2 ^ 20]) l).all (fun x =>
       (s.bufRead 0 x.1 x.2).marks == 0 && (s.bufRead 0 x.1 x.2).poison == 0)) = true ∧
     (stepRun 0).param 0x28 8 = 0x5000 ∧ (stepRun 0).param 0x38 1 = 1 ∧ (stepRun 0).param 0x30 8 = 0x5800 ∧ (stepRun 0).param 0x22 2 = 1) ∧
    (∀ st ∈ [TrState.clean, .accumulating, .committing, .inDoubt], let s := sStep (slotAt st none) (stepCmd 15 1)
      s.due j1 0x03 = some (stepCmd 15 1) ∧ (stepCmd 15 1).param 0x21 1 = 1 ∧ s.trainsBefore (stepCmd 15 1) 15 = false ∧
      s.commitsQueued (stepCmd 15 1) 15 = false ∧ (s.slot 0 15).state = st) ∧
    (∀ op ∈ [2, 3], let s := sStep (slotAt .inDoubt (some (cmAt .voted false))) (stepCmd 15 op)
      s.due j1 0x03 = some (stepCmd 15 op) ∧ (stepCmd 15 op).param 0x21 1 = op ∧ s.commitsQueued (stepCmd 15 op) 15 = false ∧
      (s.slot 0 15).state = .inDoubt ∧ (s.slot 0 15).resolver = none ∧ s.vault.copying = false ∧ (s.handles 0 15).Nodup) ∧
    (let s := sStep { slotAt .accumulating none with zeroing := some j1 } (stepCmd 15 0)
     s.Shaped ∧ (s.slot 0 15).zeroing = some j1 ∧ 0 < (s.part 0).quads.length ∧
     0 < gabQuadLines (s.gabParts 0 (s.slot 0 15).gradFmt (s.slot 0 15).list) 0 ∧ ((s.part 0).bufKey 0 0).isSome = true) := by
  unfold State.Shaped
  decide +kernel

/-- The exchange of a group of two: a part for an owned line, a line whose parts are here, a sum of the other's line, and a
line of a handle that has moved on. -/
theorem test_ExchangesSumEveryLine_met :
    (let s := sStep (slotAt .committing (some (cmAt .exchange true))) (stepRun 0)
     (mget {} s.jan.bindings 1).state = .open_ ∧ (mget {} s.jan.bindings 1).kind = 2 ∧ s.slotOfBinding (mget {} s.jan.bindings 1) none = some 15 ∧
     (s.slot 0 15).commit = some (cmAt .exchange true) ∧ (cmAt .exchange true).phase = .exchange ∧
     0 % (cmAt .exchange true).members.length = (cmAt .exchange true).rank ∧ s.exchStale 0 15 0 = false ∧
     (cmAt .exchange true).members.idxOf? 9 = some (1 % (cmAt .exchange true).members.length) ∧ s.exchStale 0 15 1 = false ∧
     (cmAt .exchange true).sums = []) ∧
    (let s := sStep { slotAt .committing (some (cmAt .exchange true)) with list := [5 + 2 * 2 ^ 20] } (stepRun 0)
     s.exchStale 0 15 0 = true ∧ s.exchStale 0 15 1 = true) ∧
    (let cm : Commit := { cmAt .exchange true with parts := [(1, 0, List.replicate 16 0)] }
     let s := sStep (slotAt .committing (some cm)) (stepRun 0)
     (s.slot 0 15).commit = some cm ∧ gabLine (s.gabParts 0 0 [5 + 2 ^ 20]) 0 = some (0, 0) ∧ cm.phase = .exchange ∧
     (cm.parts.find? (fun x => x.1 == 1 && x.2.1 == 0)).map (fun x => x.2.2) = some (List.replicate 16 0) ∧
     (s.bufRead 0 0 ((s.slot 0 15).gabOff + 0)).marks = 0 ∧ (s.bufRead 0 0 ((s.slot 0 15).gabOff + 0)).poison = 0) := by decide +kernel

/-- An update that starts and one that a job's shadow copy holds back; its end at good and at uncorrectable words, alone and
as a member. -/
theorem test_ExchangesSumEveryLine_update :
    (∀ b ∈ [false, true],
      let s := two (sStep (slotAt .committing (some { cmAt .update true with job := ⟨.pf, 2⟩ })) (stepRun 0)) (stepRun 0)
        { cmdOf1 1 [] with refs := if b then [(5, 1)] else [] }
      (s.slot 0 15).commit = some { cmAt .update true with job := ⟨.pf, 2⟩ } ∧ (cmAt .update true).updating = false ∧
      s.shadowHeld (s.slot 0 15) ⟨.pf, 2⟩ = b) ∧
    (∀ b ∈ [false, true], let cm : Commit := { cmAt .update false with updating := true, members := if b then [0] else [0, 9] }
      let s := sStep (slotAt .committing (some cm)) (stepRun 0)
      (s.slot 0 15).commit = some cm ∧ cm.updating = true ∧ (s.slot 0 15).resolver = none ∧ s.vault.copying = false ∧
      s.cmd cm.job = some (stepRun 0) ∧ (stepRun 0).phase ≠ .final ∧
      (s.gabParts 0 (s.slot 0 15).gradFmt (s.slot 0 15).list).any (s.updBad 0 (s.slot 0 15) cm) = false ∧
      s.glb.cfg.selfPeer = 0 ∧ (s.handles 0 15).Nodup ∧ cm.coord = false) := by decide +kernel

/-- A commit message of the step. -/
def msgAt (sender check : Nat) : CommitMsg := { sender := sender, step := 7, members := 2, check := check, cause := 0x38 }

/-- READY before and after the coordinator's own vote, with a wrong and a right digest; ROLLBACK votes and timeouts; COMMIT
and ROLLBACK at a member that has voted; the first and the last ACK; a question of a decision and of none; a member in
doubt. -/
theorem test_CommitMessagesFollowTheirTable_met :
    (∀ cm ∈ [cmAt .exchange true, { cmAt .voted true with ready := [0] }],
      let s := sStep (slotAt .committing (some cm)) (stepRun 0)
      (s.slot 0 15).commit = some cm ∧ cm.coord = true ∧ cm.phase ≠ .decided ∧ (msgAt 9 3).sender ∈ cm.members ∧ (msgAt 9 3).step = cm.step ∧
      (msgAt 9 3).members = cm.members.length ∧ (msgAt 9 3).check = cm.check ∧ (msgAt 9 4).check ≠ cm.check ∧
      (s.slot 0 15).resolver = none ∧ s.vault.copying = false ∧ (s.handles 0 15).Nodup ∧ cm.members ≠ [s.glb.cfg.selfPeer] ∧
      cm.start + 1200 * s.train.timeout ≤ s.orbit.val) ∧
    (∀ x ∈ (cmAt .voted true).members, x ∈ [0] ++ [9]) ∧ (cmAt .exchange true).phase ≠ .voted ∧ (cmAt .exchange true).phase = .exchange ∧
    (let s := sStep (slotAt .committing (some (cmAt .voted false))) (stepRun 0)
     (s.slot 0 15).commit = some (cmAt .voted false) ∧ (cmAt .voted false).coord = false ∧ (s.slot 0 15).state = .committing ∧
     (msgAt 9 3).step = (cmAt .voted false).step ∧ (msgAt 9 3).sender = (cmAt .voted false).coordPeer ∧
     (cmAt .voted false).members ≠ [s.glb.cfg.selfPeer] ∧ (s.slot 0 15).resolver = none ∧ s.vault.copying = false ∧ (s.handles 0 15).Nodup ∧
     s.cmd (cmAt .voted false).job = some (stepRun 0) ∧ (stepRun 0).phase ≠ .final ∧ s.domainBinding 0 0 9 = some 1 ∧
     (cmAt .voted false).readyAt + 1200 * s.train.timeout ≤ s.orbit.val ∧
     max (cmAt .voted false).readyAt (cmAt .voted false).askedAt + 120000 ≤ s.orbit.val ∧ (s.slot 0 15).decisions = []) ∧
    (∀ as ∈ [[], [0]], let cm : Commit := { cmAt .decided true with acks := as }
      let s := sStep { slotAt .accumulating none with acking := [cm], decisions := [(7, 0)] } (stepRun 0)
      s.cmd cm.job = some (stepRun 0) ∧ (s.slot 0 15).acking.find? (fun a => a.step == (msgAt 9 3).step) = some cm ∧
      (msgAt 9 3).sender ∈ cm.members ∧ (msgAt 9 3).sender ∉ cm.acks ∧ (s.slot 0 15).acking.head? = some cm ∧
      cm.readyAt + 1200 * s.train.timeout ≤ s.orbit.val ∧
      (s.slot 0 15).decisions.find? (fun x => x.1 == (msgAt 9 3).step) = some ((msgAt 9 3).step, 0)) := by decide +kernel

/-! ### Streams and the stash -/

/-- A set whose only fill is of so many lines, from the stacks (0) or peer 9 (1). -/
def setS (source lines : Nat) : CfgSet :=
  { set2 with
    file := { tiles := [{ id := 0, mode := 5, m := 1, n := 1, k := 1, cycles := 6, mask := 1, stash := 2 }], seqs := [{ mask := 1, steps := [⟨0, 1⟩] }] }
    entries := [{ plan := 0, source := source, layer := 0, nbuf := 2, consumer := 0, perBuf := 1, bufLines := lines, shards := 1, peer := 9, ring := 0, src := 0, tileBytes := 64, mask := 1 }] }
/-- Fill `n` of the ring, and the ring with fills under way and to come. -/
def fillNo (n : Nat) (started barrier : Bool) : Fill := { num := n, entry := 0, index := 0, started := started, barrier := barrier }
def ringOf (fills next : List Fill) : Ring := { job := j1, set := 0, nbuf := 2, bufLines := 1, base := 0, next := next, fills := fills }
/-- Partition 0 with that set, a patch of layer 0 or none, and tile 0's contexts. -/
def sMul (set : CfgSet) (ps : List Patch) (ctxs : Map TCtx) (gs : List Gather) : State :=
  { sTile { tile0 with ctxs := ctxs } with
    parts := [(0, { part0 with sets := [set], patches := ps })]
    mul := { gathers := gs }
    jan := { up.jan with bindings := [(1, { state := .open_, kind := 1, part := 0, peer := 9 })] } }
/-- A gather of fill 0 of that ring. -/
def gather0 : Gather :=
  { tag := 5, part := 0, set := 0, tile := t0, ctx := 0, fill := 0, shard := 0, binding := 1, length := 64, lq := 0, src := 0, job := j1, since := 0 }

/-- A fill at its barrier, before and after it is counted; one with and without room among the outstanding reads (exactly
4 MiB, and 8 MiB); one from a peer. -/
theorem test_RingFillsAndStashesMoveLines_start :
    (∀ b ∈ [false, true],
      let s := sMul (setS 0 1) [patchAt .drain] [(0, { jobs := [job0], ring := some (ringOf [fillNo 0 false b] []) })] []
      s.Shaped ∧ s.ownerOf t0 = some 0 ∧ s.ringOf t0 0 = some (ringOf [fillNo 0 false b] []) ∧ (s.part 0).logical t0 = some 0 ∧
      (s.part 0).lqOf 0 = some 0 ∧ (s.part 0).state = .active ∧ ((s.part 0).ctxs.getD 0 {}).res = .resident ∧ (s.part 0).switch.bind Switch.victim ≠ some 0 ∧
      (ringOf [fillNo 0 false b] []).nextStart = some (fillNo 0 false b, false) ∧ (s.part 0).barred 0 0 = true) := by
  unfold State.Shaped
  decide +kernel
theorem test_RingFillsAndStashesMoveLines_room :
    (let s := sMul (setS 0 65536) [] [(0, { jobs := [job0], ring := some (ringOf [] [fillNo 0 false false]) })] []
     (ringOf [] [fillNo 0 false false]).nextStart = some (fillNo 0 false false, true) ∧ (s.part 0).barred 0 0 = false ∧
     (s.fillEntry 0 (ringOf [] [fillNo 0 false false]) (fillNo 0 false false)).map (fun e => s.outstanding 0 0 + s.ownBytes e (fillNo 0 false false)) =
       some 0x400000) ∧
    (let r := ringOf [fillNo 0 true false] [fillNo 1 false false]
     let s := sMul (setS 0 65536) [] [(0, { jobs := [job0], ring := some r })] []
     r.nextStart = some (fillNo 1 false false, true) ∧
     (s.fillEntry 0 r (fillNo 1 false false)).map (fun e => decide (0x400000 < s.outstanding 0 0 + s.ownBytes e (fillNo 1 false false))) = some true) ∧
    (let s := sMul (setS 1 1) [] [(0, { jobs := [job0], ring := some (ringOf [] [fillNo 0 false false]) })] []
     (s.fillEntry 0 (ringOf [] [fillNo 0 false false]) (fillNo 0 false false)).map (fun e => (e.source, e.shards, decide (e.peer ≠ s.glb.cfg.selfPeer),
       decide (s.outstanding 0 0 + s.ownBytes e (fillNo 0 false false) ≤ 0x400000))) = some (1, 1, true, true) ∧ s.partBinding 0 9 = some 1) := by
  decide +kernel

/-- A fill that waits for its gather, for a slot fill and for an earlier fill, and one that ends. -/
theorem test_RingFillsAndStashesMoveLines_fill :
    (let c : TCtx := { jobs := [job0], ring := some (ringOf [fillNo 0 true false] []) }
     let s := sMul (setS 0 1) [] [(0, c)] []
     s.Shaped ∧ s.ownerOf t0 = some 0 ∧ (s.part 0).logical t0 = some 0 ∧ (s.part 0).lqOf 0 = some 0 ∧
     (mget {} (s.tile t0).ctxs 0).filling = some (ringOf [fillNo 0 true false] [], fillNo 0 true false) ∧ (s.part 0).set? 0 = some (setS 0 1) ∧
     (s.fillEntry 0 (ringOf [fillNo 0 true false] []) (fillNo 0 true false)).map (fun e => (e.source, e.shards,
       decide (e.srcOf 0 0 + e.part ≤ s.sourceEnds 0 0 (setS 0 1) 0))) = some (0, 1, true) ∧
     s.fillWaits t0 0 (ringOf [fillNo 0 true false] []) (fillNo 0 true false) = false ∧ (s.tile t0).slotFilling = false ∧
     s.portBusy 0 t0 0 (fillNo 0 true false) = false ∧
     (sMul (setS 0 1) [] [(0, c)] [gather0]).fillWaits t0 0 (ringOf [fillNo 0 true false] []) (fillNo 0 true false) = true ∧
     ((sTile tileFill).tile t0).slotFilling = true ∧
     (sMul (setS 0 1) [] [(0, { c with ring := some (ringOf [{ fillNo 0 true false with req := 2 }] []) }), (1, { c with ring := some (ringOf [{ fillNo 0 true false with req := 1 }] []) })] []).portBusy 0 t0 0
       { fillNo 0 true false with req := 2 } = true) := by
  unfold State.Shaped
  decide +kernel

/-- A TRAIN_STEP of slot 15 in tile 0, and its slot with records. -/
def sStash (j : TJob) (rs ds : List StashRec) : State :=
  { sMul (setS 0 1) [] [(0, { jobs := [j] })] [] with
    host := (withCmd up { trainCmd with phase := .running }).host
    train := { slots := [(15, { state := .accumulating, stashBytes := 64, qbLines := 3, stash := rs, replayable := ds })] } }
def recOf (layer : Nat) : StashRec := { job := j1, layer := layer, rows := [(0, [none])], lines := [(0, [{}])] }

/-- A layer to capture with exactly the room for its record beside another, and a record on chip, or replayed, to restore. -/
theorem test_RingFillsAndStashesMoveLines_stash :
    (let s := sStash { job0 with captures := [3] } [recOf 0] []
     s.Shaped ∧ s.ownerOf t0 = some 0 ∧ s.trainOf 0 t0 0 = some ({ trainCmd with phase := .running }, { job0 with captures := [3] }) ∧
     (s.part 0).logical t0 = some 0 ∧ trainCmd.param 0x20 1 = 15 ∧ ((s.slot 0 15).rec? j1 3) = none ∧
     ((s.slot 0 15).onChip.filter (fun r => r.job == j1)).length < (s.stashRule { trainCmd with phase := .running }).1 ∧
     (s.part 0).stashFits (s.slot 0 15) 2 = true ∧ ((s.part 0).recordLine (s.slot 0 15) (recOf 3) 0).isSome = true ∧
     ((s.part 0).quadAt 0).waysAddr.Nodup ∧ (s.windowLines 0 t0 0 (s.slot 0 15) 3).length = 1) ∧
    (∀ b ∈ [false, true], let s := sStash { job0 with backward := true } (if b then [] else [recOf 3]) (if b then [recOf 3] else [])
      s.Shaped ∧ s.trainOf 0 t0 0 = some ({ trainCmd with phase := .running }, { job0 with backward := true }) ∧
      ({ job0 with backward := true } : TJob).mayRestore (s.slot 0 15) 3 = true ∧ (s.slot 0 15).dropped = [] ∧
      (s.slot 0 15).rec? j1 3 = some (recOf 3, b) ∧ (recOf 3).rows.any (fun e => e.1 == 0) = true ∧ (recOf 3).place = 0) := by
  unfold State.Shaped
  decide +kernel

/-- A partition binding, and a request of the loaded set, of another base, of another patch count, in a layer under its
barrier, at the region's end and past it; each answer for an outstanding gather. -/
theorem test_GathersAreServedAndRetried_met :
    (let s := sMul (setS 0 1) [] [(0, { jobs := [job0], ring := some (ringOf [fillNo 0 true false] []) })] [{ gather0 with hold := true }]
     (mget {} s.jan.bindings 1).state = .open_ ∧ (mget {} s.jan.bindings 1).kind = 1 ∧
     (∀ c ∈ (s.part 0).sets, leNat ((digestBytes c.file.base).take 8) ≠ 1) ∧
     (s.part 0).sets.find? (fun c => leNat ((digestBytes c.file.base).take 8) == 0) = some (setS 0 1) ∧ (setS 0 1).patchCount ≠ 1 ∧
     (setS 0 1).patchCount = 0 ∧ s.rangeBarred 0 (setS 0 1) 0 0 64 = false ∧
     (sMul (setS 0 1) [patchAt .drain] [] []).rangeBarred 0 (setS 0 1) 0 0 64 = true ∧
     (s.part 0).quads.length ≤ 2 ∧ s.regionBytes 0 0 0 < (setS 0 1).baseOff + s.regionBytes 0 0 0 + 64 ∧ 0 < (s.part 0).quads.length ∧
     (setS 0 1).baseOff + (s.regionBytes 0 0 0 - 64) + 64 ≤ s.regionBytes 0 0 0 ∧
     s.gather? 1 5 = some { gather0 with hold := true } ∧ s.cmd j1 = some runCmd3 ∧ runCmd3.phase ≠ .final ∧ runCmd3.status = 0 ∧
     runCmd3.aborted = false ∧ s.mul.gathers.find? (fun g => g.tag == 5 && g.hold) = some { gather0 with hold := true } ∧
     (s.part 0).set? 0 = some (setS 0 1) ∧ s.Shaped ∧
     s.startedFill t0 0 j1 0 = some (ringOf [fillNo 0 true false] [], fillNo 0 true false) ∧
     (s.fillEntry 0 (ringOf [fillNo 0 true false] []) (fillNo 0 true false)).isSome = true) ∧
    gather0.heldAt + 2400 ≤ 2400 ∧ gather0.since + 1200 * up.mul.timeout ≤ 1200 * 10000 := by
  unfold State.Shaped
  decide +kernel

/-! ### Resets, the start and the supply -/

/-- A device whose stage `n` runs. -/
def sStage (n : Nat) : State := { up with start := { at_ := n }, pwr := { perst := n = 1 } }
/-- Stage WIPE runs, with its group's members done or to come. -/
def sWipe (done : List Nat) : State := { up with start := { at_ := 0x0A, groupDone := done } }

/-- Writes of the reset register, PERST_N in both directions, and each stage with its checks met and failed. -/
theorem test_ResetsClearAndStagesFollow_met :
    up.Shaped ∧ up.hostUp = true ∧ bitsOf 0xA502 8 8 = 0xA5 ∧ bitOf 0xA502 1 = true ∧ bitsOf 0xA501 8 8 = 0xA5 ∧ bitOf 0xA501 0 = true ∧
    bitOf 0xA501 1 = false ∧ up.start.result = 1 ∧ orbitRate up ≠ 0 ∧ mapOk {} up.dir.entries = true ∧ mapOk {} up.dir.domains = true ∧
    up.pwr.main = .on ∧ up.pwr.perst = false ∧ up.clk.pm = .d0 ∧
    (let s : State := { up with start := { at_ := 3, waitPerst := true }, pwr := { perst := true } }
     s.Shaped ∧ s.pwr.main = .on ∧ s.pwr.perst = true ∧ s.clk.pm = .d0 ∧ s.start.waitPerst = true ∧ s.start.at_ = 3 ∧ s.start.cold = true) ∧
    (sStage 1).pwr.perst = true ∧ (sStage 3).start.fuseHeld = false ∧ (sStage 5).Shaped ∧ (sStage 5).clk.refOk = true ∧
    ({ sStage 5 with clk := { up.clk with refOk := false } } : State).clk.refOk = false ∧
    1 < ({ sStage 7 with fuses := { tritonFloor := 2 } } : State).fuses.tritonFloor ∧
    1 < ({ sStage 7 with fuses := { seqFloor := 2 } } : State).fuses.seqFloor ∧ (sStage 9).nvm.image = none := by
  unfold State.Shaped
  decide +kernel
theorem test_stages_run :
    (∀ n ∈ [1, 3, 4, 5, 6, 7, 8, 9, 0x0A, 0x0D], StageRuns (sStage n) n) ∧ StageRuns (sWipe []) 0x0A ∧ 0x0A ∉ (sWipe []).start.groupDone ∧
    (∃ m ∈ (sWipe []).start.members, m ≠ 0x0A ∧ m ∉ (sWipe []).start.groupDone) ∧ StageRuns (sWipe [0x0B, 0x0C]) 0x0A ∧
    0x0A ∉ (sWipe [0x0B, 0x0C]).start.groupDone ∧
    ∀ m ∈ (sWipe [0x0B, 0x0C]).start.members, m = 0x0A ∨ m ∈ (sWipe [0x0B, 0x0C]).start.groupDone := by
  unfold StageRuns
  decide +kernel

/-- `up` with its supply changed. -/
def supplied (p : Power) : State := { up with pwr := { p with perst := false } }

/-- The values at the limits of Tables 15.2 to 15.9. -/
theorem test_SupplyFaultsAndCapsAct_met :
    up.pwr.standby ≠ .off ∧ up.clk.pm ≠ .l3 ∧ inputCauses 5400 3999 0 0 0 = [] ∧ inputCauses 8399 0 0 0 0 = [] ∧
    inputCauses 4800 5999 990 90 990 = [] ∧ 1 ∈ inputCauses 4799 0 10 0 0 ∧ 1 ∈ inputCauses 4800 0 1000 0 0 ∧ 2 ∈ inputCauses 8400 0 0 100 0 ∧
    3 ∈ inputCauses 7200 6000 0 0 10 ∧ 3 ∈ inputCauses 7200 4000 0 0 1000 ∧ up.mainRuns = true ∧
    (supplied { standby := .off }).pwr.standby = .off ∧ (supplied { standby := .starting }).pwr.standby = .starting ∧
    1000 ≤ (supplied { underUs := 1000 }).pwr.underUs ∧
    (∀ m ∈ [MainRail.off, .faulted], (supplied { standby := .ready, pwrEn := false, main := m }).pwr.standby = .ready ∧
      (supplied { standby := .ready, pwrEn := false, main := m }).pwr.pwrEn = false ∧
      (supplied { standby := .ready, pwrEn := false, main := m }).mainRuns = false) ∧
    (let s := supplied { main := .ramping, standby := .ready, pwrEn := true, lastMv := 5400 }
     s.pwr.main = .ramping ∧ s.pwr.standby = .ready ∧ s.pwr.pwrEn = true ∧ 5400 ≤ s.pwr.lastMv ∧ s.pwr.lastMv < 8400 ∧ s.pwr.tripHold = false) ∧
    (supplied { tripHold := true, sensors := [(8, { level := 2, temp := 800 })] }).belowCritical = true ∧ up.pwr.main = .on ∧ up.pwr.standby = .ready ∧ up.pwr.limit = 1500 ∧
    10 * 1500 < 15001 ∧ 15000 ≤ 10 * 1500 ∧ 2 * 14249 < 19 * 1500 ∧ 19 * 1500 ≤ 2 * 14250 ∧ (supplied { lowTicks := 9 }).pwr.lowTicks = 9 ∧
    thresholds 0x08 = some [95, 100, 105, 115] ∧ mapOk {} up.pwr.sensors = true ∧ sint 16 920 = 920 ∧
    nextLevel [95, 100, 105, 115] 0 759 = 0 ∧ nextLevel [95, 100, 105, 115] 0 760 = 1 ∧ nextLevel [95, 100, 105, 115] 0 840 = 3 ∧
    nextLevel [95, 100, 105, 115] 0 920 = 4 ∧ nextLevel [95, 100, 105, 115] 1 736 = 1 ∧ nextLevel [95, 100, 105, 115] 1 735 = 0 ∧
    (supplied { sensors := [(8, { level := 3, temp := 840 })] }).pwr.levelMax = 3 ∧
    (supplied { sensors := [(8, { level := 2, temp := 800 })] }).pwr.levelMax = 2 ∧ up.pwr.levelMax = 0 ∧ up.hostUp = true ∧
    bitOf 0x80000000 31 = true ∧ (sStage 3).isReady = false ∧ (sStage 3).pwr.standby = .ready ∧
    (supplied { alert := true }).pwr.alert = true := by decide +kernel

/-! ### TRITON -/

/-- VF 0's DOE, and a device whose TRITON holds some sessions of it at a negotiation of step `n`. -/
def doe0 : Carrier := .doe (.vf 0)
def sess (id : Nat) (est : Bool) : Session := { id := id, carrier := doe0, vf := 0, established := est }
def sTri (n : Nat) (xs : List Session) : State :=
  { parted with
    tri := { ready := true }
    vault := { conn := [(parted.connKey doe0, n)], sessions := xs, chain := [0x55, 0x66], nextSession := 2, closes := [(1, 0, false)] } }

/-- Each step of a negotiation, sessions of both kinds and none, and a device before READY. -/
theorem test_SpdmAnswersInItsOrder_met :
    (∀ n ∈ [0, 1, 2, 3], (sTri n []).Listens doe0 ∧ (sTri n []).conn doe0 = n) ∧ (1 : Nat) < (sTri 3 []).vault.chain.length ∧
    0xFD ∈ measIndices ∧ 7 ∉ measIndices ∧
    (∀ b ∈ [false, true], (sTri 3 [sess 1 b]).Listens doe0 ∧ (sTri 3 [sess 1 b]).session doe0 1 = some (sess 1 b)) ∧
    (sTri 3 []).session doe0 1 = none ∧ (sTri 3 [sess 1 true]).vault.closes.find? (fun y => y.1 == 1) = some (1, 0, false) ∧
    ([(1, 0, true)] : List (Nat × Nat × Bool)).find? (fun y => y.1 == 1) = some (1, 0, true) ∧
    (sStage 3).hears (.doe .pf) = true ∧ (sStage 3).isReady = false ∧ up.hostUp = true ∧ bitOf 0x80000001 31 = true ∧
    up.tri.mbxBusy = false ∧ bitsOf 0x80000001 0 12 = 1 ∧ bitsOf 0x80000400 0 12 = 1024 ∧ bitOf 0x40000000 30 = true := by
  unfold State.Listens
  decide +kernel

/-- A request in session 1, and the device with domain 0 in a state. -/
def req1 : VReq := { carrier := doe0, session := 1, level := 1 }
def sDomain (d : Domain) : State := { sTri 3 [sess 1 true] with dir := { domains := [(0, d)] } }
def dOpen (owners : List Nat) : Domain := { open_ := true, slotKey := true, owners := owners, manifestKey := key1 }

/-- Domains unseen, closed, open, owned and not, and a rule row that holds and one that does not. -/
theorem test_DomainRequestsActOnTheirRange_met :
    (∀ os ∈ [[1], []], (sDomain (dOpen os)).Listens doe0 ∧ (sDomain (dOpen os)).session doe0 1 = some (sess 1 true) ∧
      (sess 1 true).established = true ∧ req1.reservedOk = true ∧ req1.level = (sDomain (dOpen os)).recLevel ∧
      (sDomain (dOpen os)).domainSeen doe0 0 = true ∧ ((sDomain (dOpen os)).dom 0).open_ = true ∧ ((sDomain (dOpen os)).dom 0).closing = false ∧
      ((sDomain (dOpen os)).dom 0).owners = os) ∧
    (sDomain {}).domainSeen doe0 4 = false ∧ (sDomain {}).domainSeen doe0 3 = true ∧ (sDomain {}).domainsServed = true ∧
    ((sDomain { opened := true, gen := 65534 }).dom 0).gen < 65535 ∧ ((sDomain {}).dom 0).opened = false ∧
    ruleRowOk (slice (List.replicate 80 0) 0 80) = true ∧ ruleRowOk (slice (fieldsOf 80 [(0x48, 1, 1)]) 0 80) = false ∧
    (sDomain {}).scopeOk 0 0 65536 = true ∧ (sDomain {}).scopeOk 1 0 0 = true := by
  unfold State.Listens
  decide +kernel

/-- The claim of domain 0 in session 1, signed with the private key 3 outside Lean, and a claim that does not verify. -/
theorem test_domain_claim :
    ecdsaVerify ((sDomain (dOpen [])).dom 0).manifestKey (sha384 (ascii "JLDC" ++ leBytes 2 0 ++ digestBytes ((sDomain (dOpen [])).th2 1)))
      0x283c1d7365ce4788f29f8ebf234edffead6fe997fbea5ffa2d58cc9dfa7b1c508b05526f55b9ebb2040f05b48fb6d0e1
      0x943aa439f82bbd69c9dbbc44c02ddb5acb0c231b85c011397b355e6787a8e6b1123402d12907ea221346d865b8011a86 = true ∧
    ecdsaVerify ((sDomain (dOpen [])).dom 0).manifestKey (sha384 (ascii "JLDC" ++ leBytes 2 0 ++ digestBytes ((sDomain (dOpen [])).th2 1))) 0 1 = false := by
  decide +kernel

/-- A report's snapshot, a copy with and without a commit point that waits, the PF's requests, and the life cycle. -/
theorem test_reports_signers_and_life_cycle :
    (let x : Snapshot := ⟨1, 9, []⟩
     let s : State := { sTri 3 [sess 1 true] with vault := { (sTri 3 [sess 1 true]).vault with snap := some x } }
     s.vault.snap = some x ∧ x.session = req1.session ∧ x.nonce = 9) ∧
    (sTri 3 [sess 1 true]).vault.snap = none ∧
    (let s := sStep { slotAt .inDoubt none with resolver := some j1 } (stepRun 2)
     let t : State := { s with vault := { s.vault with copying := true, deferred := [.step 0 15] } }
     t.vault.copying = true ∧ t.vault.deferred = [.step 0 15] ∧ (t.slot 0 15).resolver = some j1 ∧ t.cmd j1 = some (stepRun 2) ∧
     (stepRun 2).phase ≠ .final ∧ (t.handles 0 15).Nodup) ∧
    (∀ lc ∈ [1, 2, 4], let s : State := { up with lc := lc, tri := { ready := true } }
      s.Listens (.doe .pf) ∧ s.pfCarrier (.doe .pf) = true ∧ s.recLevel = 1 ∧ s.domainsServed = decide (lc = 2) ∧ s.vault.erased = true) ∧
    bitOf 0x80000003 31 = true ∧ up.tri.lcBusy = false ∧ ({ up with tri := { ready := true } } : State).tri.ready = true ∧
    lcTransition 2 (bitsOf 0x80000001 0 4) = none ∧ lcTransition 2 (bitsOf 0x80000003 0 4) = some false ∧ up.lc = 2 ∧
    (∃ x ∈ parted.parts, x.2.state ≠ .free) ∧ up.parts = [] ∧ up.fuses.lcCount < 16 ∧
    ({ up with tri := { lcBusy := true } } : State).tri.lcBusy = true ∧
    (let s : State := { up with vault := { tritonSvn := 3 } }
     s.fuses.tritonFloor < 3 ∧ 3 ≤ s.vault.tritonSvn) := by
  unfold State.Listens
  decide +kernel

/-! ### Migration and STORE -/

/-- A ticket of a device of another UID for partition 0, over the public key of the private key 3, with a change of some
fields (Table 13.13). -/
def tick (fs : List (Nat × Nat × Nat)) : List Byte :=
  overlay (fieldsOf 832 ([(0, 4, 0x544D4C4A), (4, 1, 1), (0x70, 4, 0x52414C4A), (0x74, 1, 1), (0x76, 1, 1), (0xA8, 16, 1), (0xB8, 1, 2),
    (0xD0, 1, 2), (0xD4, 4, 256), (0x1D0, 1, 3), (0x1D4, 4, 0x110), (0x1DB, 1, 4), (0x1E0, 2, 4), (0x1E2, 2, 8)] ++
    (List.range 8).flatMap (fun i => let o := 0x1E8 + 24 * i
      if i < 2 then [(o, 1, 0), (o + 1, 1, 1), (o + 2, 1, 1), (o + 4, 4, 1), (o + 16, 8, 3)] else [(o, 1, 0xFF)]) ++ fs)) 0x10 key1

/-- EXPORT with an op and an export under way, with a ticket in host memory. -/
def migCmd (op : Nat) : Cmd := cmdOf1 0x30 [(0x20, 1, op), (0x24, 4, 0xFFFFFFFF), (0x28, 8, 0x9000), (0x30, 8, 0x5000), (0x38, 4, 832)]
def sMig (op : Nat) (tk : List Byte) (e : Option Export) : State :=
  withCmd { parted with host := { parted.host with mem := memAt 0x5000 tk, exp := e } } (migCmd op)

/-- An export of partition 0 in a phase, and one that waits for MORE of an op. -/
def exp0 (ph : Nat) (m : Option Nat) : Export := { part := 0, phase := ph, key := [], prk := [], nonce := [], seq := 1, moreOp := m }

/-- The tickets of START's checks in host memory, one at a time. -/
theorem test_ticket_read0 :
    (sMig 1 (tick [(5, 3, 1)]) none).hostRead ((migCmd 1).param 0x30 8) ((migCmd 1).param 0x38 4) = some (tick [(5, 3, 1)]) := by decide +kernel
theorem test_ticket_read1 :
    (sMig 1 (tick [(4, 1, 2)]) none).hostRead ((migCmd 1).param 0x30 8) ((migCmd 1).param 0x38 4) = some (tick [(4, 1, 2)]) := by decide +kernel
theorem test_ticket_read2 :
    (sMig 1 (tick [(0xA8, 16, 0)]) none).hostRead ((migCmd 1).param 0x30 8) ((migCmd 1).param 0x38 4) = some (tick [(0xA8, 16, 0)]) := by decide +kernel
theorem test_ticket_read3 :
    (sMig 1 (tick [(0, 1, 0)]) none).hostRead ((migCmd 1).param 0x30 8) ((migCmd 1).param 0x38 4) = some (tick [(0, 1, 0)]) := by decide +kernel
theorem test_ticket_reserved : ticketReserved (tick [(5, 3, 1)]) = true ∧ ticketReserved (tick [(4, 1, 2)]) = false := by decide +kernel
theorem test_ticket_reserved_uid : ticketReserved (tick [(0xA8, 16, 0)]) = false ∧ ticketReserved (tick []) = false := by decide +kernel
theorem test_ticket_level :
    fieldAt (tick [(4, 1, 2)]) 4 1 ≠ parted.glb.level ∧ fieldAt (tick [(0xA8, 16, 0)]) 4 1 = parted.glb.level ∧
    fieldAt (tick []) 4 1 = parted.glb.level := by decide +kernel
theorem test_ticket_form :
    fieldAt (slice (tick [(0xA8, 16, 0)]) 0x70 96) 56 16 = parted.fuses.uid ∧ ticketOk (tick [(0, 1, 0)]) = false ∧
    ticketOk (tick []) = true := by decide +kernel
theorem test_ticket_good_read :
    (sMig 1 (tick []) none).hostRead ((migCmd 1).param 0x30 8) ((migCmd 1).param 0x38 4) = some (tick []) := by decide +kernel
theorem test_ticket_peer : parted.peerOk (slice (tick []) 0x70 96) (slice (tick []) 0xD0 256) = true := by decide +kernel
theorem test_ticket_shape : (parted.part 0).shapeOk (slice (tick []) 0x1D0 272) = true := by decide +kernel
theorem test_ticket_key : pubOk (slice (tick []) 0x10 96) = true := by decide +kernel

/-- START beside an export; its tickets are above. -/
theorem test_MigrationRunsItsSteps_start :
    (sMig 1 (tick []) none).due j1 0x30 = some (migCmd 1) ∧ (migCmd 1).param 0x20 1 = 1 ∧
    (sMig 1 (tick []) (some (exp0 1 none))).host.exp = some (exp0 1 none) ∧ (exp0 1 none).phase ≠ 3 ∧ (exp0 1 none).moreOp ≠ some 1 ∧
    (sMig 1 (tick []) none).host.exp = none ∧ recordRoom ≤ (migCmd 1).param 0x24 4 ∧ (sMig 1 (tick []) none).host.fails = [] := by decide +kernel

/-- Lengths of bytes made of free values, which no evaluation reaches. -/
theorem leBytes_length (n v : Nat) : (leBytes n v).length = n := by
  induction n generalizing v with
  | zero => rfl
  | succ n ih => exact congrArg Nat.succ (ih (v / 256))
theorem slice_length (bs : List Byte) (a n : Nat) : (slice bs a n).length = n := by
  simp only [slice, List.length_append, List.length_replicate, List.length_take, List.length_drop]
  omega
theorem akSign_length (s : State) (h : Digest) : (s.akSign h).1.length = 96 := by
  unfold State.akSign
  split <;> simp [digestBytes, beBytes, leBytes_length]
theorem reportHeader_length (s : State) (a b c d e : Nat) : (s.reportHeader a b c d e).length = 96 := by
  simp [State.reportHeader, leBytes_length, ascii]
theorem firmwareSection_length (s : State) : s.firmwareSection.length = 256 := by
  simp [State.firmwareSection, sectionHdr, digestBytes, beBytes, leBytes_length]

/-- START's hello, of 544 bytes and no chain, fits. -/
theorem test_hello_fits (n : List Byte) : ((sMig 1 (tick []) none).helloOut 0 n).length ≤ (migCmd 1).param 0x24 4 := by
  have h : (migCmd 1).param 0x24 4 = 0xFFFFFFFF := by decide +kernel
  have hc : ∀ s : State, s.vault.chain = [] → pad8 s.vault.chain = [] := by
    intro s e
    rw [e]
    rfl
  rw [h]
  simp only [State.helloOut, State.sourceHello, State.migHeader, State.ecdhe]
  rw [hc _ rfl]
  simp [slice_length, akSign_length, reportHeader_length, firmwareSection_length, beBytes, leBytes_length, ceilDiv]

/-- IMPORT with an op and an import under way, with bytes in host memory for LOAD and a token for FINISH. -/
def impCmd (op len : Nat) : Cmd := cmdOf1 0x31 [(0x20, 1, op), (0x24, 4, len), (0x28, 8, 0x9000), (0x30, 8, 0x5000)]
def sImp (op : Nat) (buf tok : List Byte) (im : Option Import) : State :=
  withCmd { parted with host := { parted.host with mem := memAt 0x5000 tok ++ memAt 0x9000 buf, imp := im } }
    (impCmd op (if op = 1 then 0xFFFFFFFF else buf.length))

/-- PREPARE's ticket, of 736 bytes and 96 of signature without a chain or a set, fits. -/
theorem test_ticket_fits : ((sImp 1 [] [] none).ticketOut 0).length ≤ (impCmd 1 0xFFFFFFFF).param 0x24 4 := by
  have h : (impCmd 1 0xFFFFFFFF).param 0x24 4 = 0xFFFFFFFF := by decide +kernel
  have hc : ∀ s : State, s.vault.chain = [] → pad8 s.vault.chain = [] := by
    intro s e
    rw [e]
    rfl
  have hp : ∀ s : State, s.part 0 = part0 → ((s.part 0).reportSection 0).length = 272 := by
    intro s e
    rw [e]
    decide +kernel
  rw [h]
  simp only [State.ticketOut, State.ticket, State.migHeader, State.ecdhe, List.length_append]
  rw [hc _ rfl, hp _ rfl]
  simp [akSign_length, reportHeader_length, firmwareSection_length, beBytes, leBytes_length, ascii]

/-- ROUND, FINAL and RELEASE without an export and beside a MORE of another op; ROUND; FINAL with a command, a slot and a
slice in its way, and with none; RELEASE; CANCEL of nothing, of a released export and of one that runs. -/
theorem test_MigrationRunsItsSteps_export :
    (∀ op ∈ [2, 3, 4, 5], (sMig op [] none).due j1 0x30 = some (migCmd op) ∧ (migCmd op).param 0x20 1 = op) ∧
    (sMig 2 [] none).host.exp = none ∧ (exp0 1 (some 1)).moreOp = some 1 ∧ (sMig 2 [] (some (exp0 1 (some 1)))).host.exp = some (exp0 1 (some 1)) ∧
    (exp0 1 none).moreOp = none ∧ (exp0 1 none).part = (migCmd 2).part ∧ (exp0 1 none).phase = 1 ∧ recordRoom ≤ (migCmd 2).param 0x24 4 ∧
    (sMig 2 [] none).host.fails = [] ∧
    (let s : State := { sMig 3 [] (some (exp0 1 none)) with host := { (sMig 3 [] (some (exp0 1 none))).host with cmds := [migCmd 3, { cmdOf1 1 [] with job := ⟨.pf, 2⟩ }] } }
     s.due j1 0x30 = some (migCmd 3) ∧
     ∃ d ∈ s.host.cmds, d.phase ≠ .final ∧ s.ofPart 0 d = true ∧ d.job ≠ (migCmd 3).job) ∧
    (∀ st ∈ [TrState.committing, .inDoubt],
      let s : State := { sMig 3 [] (some (exp0 1 none)) with train := { slots := [(15, { state := st })] } }
      (s.slot 0 15).state = st) ∧
    (let s : State := { sMig 3 [] (some (exp0 1 none)) with parts := (sSwitch .saving).parts }
     s.due j1 0x30 = some (migCmd 3) ∧ s.finalOk (migCmd 3) = true ∧ s.finalWaits 0 = true) ∧
    (sMig 3 [] (some (exp0 1 none))).finalOk (migCmd 3) = true ∧ (sMig 3 [] (some (exp0 1 none))).finalWaits 0 = false ∧
    (exp0 2 none).phase = 2 ∧ 48 ≤ (migCmd 5).param 0x24 4 ∧
    (sMig 4 [] (some (exp0 3 none))).host.exp = some (exp0 3 none) ∧ (exp0 3 none).phase = 3 := by decide +kernel

/-- An import of partition 0 in a phase; a SOURCE_HELLO over the public key of the private key 3, and an END record under
the zero key with sequence number 1, sealed by an implementation of AES-GCM outside Lean (Tables 13.15 and 13.17). -/
def imp0 (ph : Nat) (done : Bool) : Import :=
  { part := 0, phase := ph, nonce := [], priv := 1, key := List.replicate 32 0, helloDone := done, endSeq := 1 }
def hello0 (fs : List (Nat × Nat × Nat)) : List Byte :=
  overlay (fieldsOf 576 ([(96, 4, 0x52414C4A), (100, 1, 1), (102, 1, 1), (152, 16, 1), (168, 1, 2), (192, 1, 2), (196, 4, 256)] ++ fs)) 0 key1
def endRec : List Byte :=
  leBytes 32 0x10000004000000107 ++ leBytes 32 0xcaafd6446cd77ce661615b0151f3c280ef6d3656638dec0127c3636f3aa388a7 ++
    leBytes 32 0x96cb93971d4d877a939429d2c043fee941a47d7c419b299afee1b97074ef9b6 ++ leBytes 32 0x499ed6da25394989f0f20494a4f0920
def recWith (f : Nat × Nat × Nat) : List Byte := overlay endRec f.1 (leBytes f.2.1 f.2.2)

/-- The release token of an empty PRK and nonce after sequence number 1, by HMAC-SHA-384 outside Lean (R501). -/
def tok0 : List Byte :=
  leBytes 32 0x9c10e24a541b4ba3eb910281827eb9148949357383d3abb45816a97a04fa1ed2 ++ leBytes 16 0x29d4c27ff4a990f9b5b3c2e19dd293ac
theorem test_release_token : releaseToken [] [] 1 = tok0 := by decide +kernel
theorem test_end_record_tag :
    gcmTag (aesKeys (List.replicate 32 0)) (leBytes 8 1 ++ leBytes 4 0) (endRec.take 32) (slice endRec 32 64) = slice endRec 96 16 := by
  decide +kernel
theorem test_end_record_text :
    gcmCtr (aesKeys (List.replicate 32 0)) (leBytes 8 1 ++ leBytes 4 0) 2 (slice endRec 32 64) = leBytes 8 1 ++ leBytes 56 0 := by decide +kernel
theorem test_end_record :
    gcmOpen (List.replicate 32 0) (leBytes 8 1 ++ leBytes 4 0) (endRec.take 32) (slice endRec 32 64) (slice endRec 96 16) =
      some (leBytes 8 1 ++ leBytes 56 0) := by
  rw [gcmOpen, test_end_record_tag, if_pos rfl, test_end_record_text]

/-- PREPARE beside an import, in a partition with a set, and in an empty one; LOAD before PREPARE; hellos with a reserved
field, of this device and good; records with a reserved field, of another level, of type 9, out of sequence, and END. -/
theorem test_MigrationRunsItsSteps_import :
    (sImp 1 [] [] none).due j1 0x31 = some (impCmd 1 0xFFFFFFFF) ∧ (impCmd 1 0).param 0x20 1 = 1 ∧
    (sImp 1 [] [] (some (imp0 1 false))).host.imp.isSome = true ∧ (sImp 1 [] [] none).host.imp = none ∧
    ({ sImp 1 [] [] none with parts := [(0, { part0 with sets := [set1] })] } : State).partEmpty 0 = false ∧
    (sImp 1 [] [] none).partEmpty 0 = true ∧ (sImp 1 [] [] none).host.fails = [] ∧
    (impCmd 2 0).param 0x20 1 = 2 ∧ (imp0 2 false).phase ≠ 1 ∧ (imp0 1 false).helloDone = false := by decide +kernel
theorem test_hello_read0 :
    (sImp 2 (hello0 [(103, 1, 1)]) [] (some (imp0 1 false))).due j1 0x31 = some (impCmd 2 576) ∧ hello0 [(103, 1, 1)] ≠ [] ∧
    (sImp 2 (hello0 [(103, 1, 1)]) [] (some (imp0 1 false))).hostRead ((impCmd 2 576).param 0x28 8) ((impCmd 2 576).param 0x24 4) = some (hello0 [(103, 1, 1)]) := by
  decide +kernel
theorem test_hello_read1 :
    (sImp 2 (hello0 [(152, 16, 0)]) [] (some (imp0 1 false))).due j1 0x31 = some (impCmd 2 576) ∧ hello0 [(152, 16, 0)] ≠ [] ∧
    (sImp 2 (hello0 [(152, 16, 0)]) [] (some (imp0 1 false))).hostRead ((impCmd 2 576).param 0x28 8) ((impCmd 2 576).param 0x24 4) = some (hello0 [(152, 16, 0)]) := by
  decide +kernel
theorem test_hello_read2 :
    (sImp 2 (hello0 []) [] (some (imp0 1 false))).due j1 0x31 = some (impCmd 2 576) ∧ hello0 [] ≠ [] ∧
    (sImp 2 (hello0 []) [] (some (imp0 1 false))).hostRead ((impCmd 2 576).param 0x28 8) ((impCmd 2 576).param 0x24 4) = some (hello0 []) := by
  decide +kernel
theorem test_hello_reserved :
    reportReserved (slice (hello0 [(103, 1, 1)]) 96 96) = true ∧
    reportReserved (slice (hello0 [(152, 16, 0)]) 96 96) = false ∧ firmwareReserved (slice (hello0 [(152, 16, 0)]) 192 256) = false ∧
    reportReserved (slice (hello0 []) 96 96) = false ∧ firmwareReserved (slice (hello0 []) 192 256) = false := by decide +kernel
theorem test_hello_peer :
    parted.peerOk (slice (hello0 [(152, 16, 0)]) 96 96) (slice (hello0 [(152, 16, 0)]) 192 256) = false ∧
    parted.peerOk (slice (hello0 []) 96 96) (slice (hello0 []) 192 256) = true ∧ pubOk (slice (hello0 []) 0 96) = true ∧
    (hello0 []).length = ceilDiv (544 + ceilDiv (fieldAt (hello0 []) 448 2) 8 * 8) 64 * 64 := by decide +kernel
theorem test_MigrationRunsItsSteps_records :
    (∀ b ∈ [recWith (2, 2, 1), recWith (1, 1, 2), recWith (0, 1, 9), recWith (8, 8, 2), endRec],
      (sImp 2 b [] (some (imp0 1 true))).due j1 0x31 = some (impCmd 2 128) ∧ b ≠ [] ∧
      (sImp 2 b [] (some (imp0 1 true))).hostRead ((impCmd 2 128).param 0x28 8) ((impCmd 2 128).param 0x24 4) = some b) ∧
    (imp0 1 true).helloDone = true ∧ fieldAt (recWith (2, 2, 1)) 2 2 ≠ 0 ∧
    (∀ b ∈ [recWith (1, 1, 2), recWith (0, 1, 9), recWith (8, 8, 2), endRec], fieldAt b 2 2 = 0 ∧ fieldAt b 24 8 = 0) ∧
    fieldAt (recWith (1, 1, 2)) 1 1 ≠ parted.recLevel ∧ 8 < fieldAt (recWith (0, 1, 9)) 0 1 ∧
    fieldAt (recWith (8, 8, 2)) 1 1 = parted.recLevel ∧ fieldAt (recWith (8, 8, 2)) 0 1 = 7 ∧
    fieldAt (recWith (8, 8, 2)) 8 8 ≠ (imp0 1 true).seq ∧ endRec.length = 128 ∧ fieldAt endRec 0 1 = 7 ∧
    fieldAt endRec 1 1 = parted.recLevel ∧ fieldAt endRec 4 4 = 64 ∧ fieldAt endRec 8 8 = (imp0 1 true).seq ∧
    fieldAt endRec 16 8 = mget 0 (imp0 1 true).ordinals 7 ∧ allZero (slice endRec 112 16) = true ∧ (imp0 1 true).seq < 2 ^ 64 := by
  decide +kernel

/-- FINISH with another token and with the token; CANCEL of nothing, from another partition, and of its import. -/
theorem test_MigrationRunsItsSteps_ends :
    (∀ b ∈ [List.replicate 48 0, tok0], (sImp 3 [] b (some (imp0 2 true))).due j1 0x31 = some (impCmd 3 0) ∧
      (sImp 3 [] b (some (imp0 2 true))).hostRead ((impCmd 3 0).param 0x30 8) 48 = some b) ∧ (impCmd 3 0).param 0x20 1 = 3 ∧
    (imp0 2 true).phase = 2 ∧ List.replicate 48 (0 : Byte) ≠ tok0 ∧
    (sImp 4 [] [] none).due j1 0x31 = some (impCmd 4 0) ∧ (impCmd 4 0).param 0x20 1 = 4 ∧ (sImp 4 [] [] none).host.imp = none ∧
    ({ imp0 1 false with part := 1 } : Import).part ≠ (impCmd 4 0).part ∧ (imp0 1 false).part = (impCmd 4 0).part ∧
    (∀ d ∈ (sImp 4 [] [] (some (imp0 1 false))).host.cmds, d.job = (impCmd 4 0).job → d.reg = none) ∧
    ((sImp 4 [] [] (some (imp0 1 false))).part 0).state = .active := by decide +kernel
theorem test_cancel_waits_for_no_handle (h : Nat) :
    (impCmd 4 0).job ∉ ((sImp 4 [] [] (some (imp0 1 false))).entry h).waiting ∧
    (impCmd 4 0).job ∉ ((sImp 4 [] [] (some (imp0 1 false))).entry h).evicts := by
  constructor <;> exact List.not_mem_nil

/-- STORE with its file in host memory, and an earlier STORE beside it. -/
def storeCmd (x : Nat) : Cmd := { cmdOf1 0x32 [(0x20, 1, x), (0x24, 4, 224), (0x28, 8, 0x5000)] with order := 5 }
def sStore (x : Nat) (file : List Byte) (cs : List Cmd) : State :=
  { up with lc := 1, host := { up.host with mem := memAt 0x5000 file, cmds := storeCmd x :: cs } }

/-- STORE of both regions, behind a STORE and alone, of a file that passes and of one that does not. -/
theorem test_StoreWritesTheOtherCopy_met :
    (∀ x ∈ [1, 2], (sStore x stFile []).due j1 0x32 = some (storeCmd x) ∧ (storeCmd x).param 0x20 1 = x ∧
      (sStore x stFile []).storeBusy (storeCmd x) = false ∧
      (let s := sStore x stFile [{ cmdOf1 0x32 [] with job := ⟨.pf, 2⟩ }]
       s.due j1 0x32 = some (storeCmd x) ∧ ∃ d ∈ s.host.cmds, d.op = 0x32 ∧ d.phase ≠ .final ∧ d.order < (storeCmd x).order)) ∧
    (∀ f ∈ [stFile, List.replicate 224 1], (sStore 1 f []).hostRead ((storeCmd 1).param 0x28 8) (min ((storeCmd 1).param 0x24 4) 65537) = some f) ∧
    stFile.length ≤ 65536 := by decide +kernel
def stFrames : List Frame := match walkStrict 1 20 0 (stFile.drop 64) with
  | .ok fs => fs
  | .error _ => []
theorem test_store_file_ok : checkFile 1 1 0 (fun _ => none) ((sStore 1 stFile []).signer 0) stFile = .ok stFrames := by
  have h : firstFail (headerChecks 1 1 stFile) = none := by
    unfold headerChecks
    simp only [crc32c_strict]
    decide +kernel
  have w : walkFrames 1 (stFile.length / 24 + 1) 0 (stFile.drop 64) = .ok stFrames := by
    rw [walk_strict]
    decide +kernel
  have l : firstFail (fillChecks stFile stFrames ++ laterPasses 1 0 (fun _ => none) ((sStore 1 stFile []).signer 0) stFile stFrames) = none := by
    decide +kernel
  simp only [checkFile, h, w, l]
theorem test_store_frames : stFrames.length = 2 := by decide +kernel
theorem test_store_file_refused :
    checkFile 1 1 0 (fun _ => none) ((sStore 1 stFile []).signer 0) (List.replicate 224 1) = .error (1, 0xFFFF) := by
  decide +kernel

/-! ### JANUS: ports, sessions and handshakes -/

/-- A device of a group of four, at ports 0 and 1 of these kinds; peer 2 is reached through both, and binding 1 goes to it. -/
def sJan (p0 p1 : JPort) (ss : Map PeerSession) : State :=
  { up with
    glb := { up.glb with cfg := { up.glb.cfg with role := 1, groupSize := 4 } }
    orbit := { val := 1200000000 }
    jan := { ports := p0 :: p1 :: List.replicate 14 {}, sessions := ss, bindings := [(1, { state := .open_, peer := 2 })], routes := [(2, { valid := true, mask := 3 })] } }
def upPort (peer uid : Nat) : JPort := { state := .up, peer := peer, uid := uid }

/-- Ports in each state; a margin at its limit and past it, before and after READY; a port that is, and is not, the last
of a route. -/
theorem test_PortsTrainAndFall_met :
    (∀ st ∈ [PortState.calibrating, .training, .noPeer, .up, .attesting, .attestFailed], ((sJan { state := st } {} []).port 0).state = st) ∧
    (1000 : Nat) < 1001 ∧ (1000 : Nat) ≤ 1000 ∧ (sJan { state := .training } {} []).isReady = true ∧
    ({ sJan { state := .training } {} [] with start := State.reset.start } : State).isReady = false ∧
    (sJan (upPort 2 7) {} []).sdg.reorder.length < Config.reorderEntries ∧ mapOk {} (sJan (upPort 2 7) {} []).jan.routes = true ∧
    mapOk {} (sJan (upPort 2 7) {} []).jan.bindings = true ∧ ((sJan (upPort 2 7) {} []).route 2).valid = true ∧
    bitOf ((sJan (upPort 2 7) {} []).route 2).mask 0 = true ∧ (sJan (upPort 2 7) {} []).NoOther 2 0 ∧
    ¬ (sJan (upPort 2 7) (upPort 2 7) []).NoOther 2 0 ∧ ((sJan (upPort 2 7) {} []).bind 1).state = .open_ ∧
    ((sJan (upPort 2 7) {} []).bind 1).peer = 2 := by
  unfold State.NoOther
  decide +kernel

/-- A HELLO of peer 2, a PROOF of a device like this one, and a handshake of the device that has the HELLO. -/
def helloOf2 : HelloMsg := { level := 1, role := 1, peer := 2, groupSize := 4, uid := 7, nonce := 0, key := [] }
def proof2 : ProofMsg := { chainOk := true, sigOk := true, level := 1, lifecycle := 2, debug := 0, tritonSvn := 0, seqSvn := 0 }
def hs2 (ok : Bool) : Handshake := { ours := { helloOf2 with peer := 0 }, theirs := some helloOf2, proofOk := ok }

/-- A HELLO at a port, at a peer without a route, and at one in each state of its session. -/
theorem test_HandshakesAndSessionsRun_hello :
    (let s := sJan { state := .attesting, hs := some (hs2 false) } {} []
     (s.port 0).state = .attesting ∧ (s.port 0).hs = some (hs2 false) ∧ (hs2 false).failed = false ∧ (s.route 3).valid = false) ∧
    (∀ st ∈ [0, 1, 2], let s := sJan (upPort 2 7) {} [(2, { state := st, hs := some (hs2 false) })]
      (s.route 2).valid = true ∧ (s.sess 2).state = st ∧ (s.sess 2).hs = some (hs2 false)) := by decide +kernel

/-- The handshake of port 0 that waits for its PROOF; the PROOF is good, and with its debug state set it is not. -/
def sProof : State := sJan { state := .attesting, hs := some (hs2 false) } {} []
theorem test_HandshakesAndSessionsRun_proof :
    sProof.hsAt (.port 0) = some (hs2 false) ∧ (hs2 false).theirs = some helloOf2 ∧ (hs2 false).failed = false ∧
    (hs2 false).proofOk = false ∧
    (proof2.reserved = false ∧ helloOf2.reserved = false ∧ helloOf2.role < 3 ∧ proof2.chainOk = true ∧ proof2.sigOk = true ∧
      proof2.level = sProof.recLevel ∧ helloOf2.level = sProof.recLevel ∧ proof2.lifecycle = 2 ∧ proof2.lifecycle = sProof.lc ∧
      proof2.debug = 0 ∧ sProof.fuses.tritonFloor ≤ proof2.tritonSvn ∧ sProof.fuses.seqFloor ≤ proof2.seqSvn ∧
      helloOf2.groupSize = sProof.glb.cfg.groupSize ∧ helloOf2.peer < sProof.glb.cfg.groupSize ∧
      sProof.self < sProof.glb.cfg.groupSize ∧ helloOf2.peer ≠ sProof.self ∧ (∀ x ∈ sProof.jan.ports, x.state ≠ .up) ∧
      (sProof.sess helloOf2.peer).state ≠ 2) ∧
    ({ proof2 with debug := 1 } : ProofMsg).debug ≠ 0 := by decide +kernel

/-- FINISH at a port and at a peer; a handshake given up exactly 1 s ago at each; a session at its times. -/
theorem test_HandshakesAndSessionsRun_rest :
    (∀ a ∈ [HsAt.port 0, .peer 2],
      let s := sJan { state := .attesting, hs := some (hs2 true) } {} [(2, { state := 1, hs := some (hs2 true) })]
      s.hsAt a = some (hs2 true) ∧ (hs2 true).theirs = some helloOf2 ∧ (hs2 true).failed = false ∧ (hs2 true).proofOk = true ∧
      mapOk {} s.jan.bindings = true) ∧
    (let h := { hs2 false with failed := true }
     let s := sJan { state := .attestFailed, hs := some h } {} [(2, { state := 3, hs := some h })]
     (s.port 0).state = .attestFailed ∧ (s.port 0).hs = some h ∧ h.failed = true ∧ h.failedAt + 1200000000 ≤ s.now ∧
     (s.sess 2).state = 3 ∧ (s.route 2).valid = true ∧ (s.sess 2).hs = some h) ∧
    (let s := sJan (upPort 2 7) {} [(2, { state := 2, lastTx := 1200000000 - 120000, lastRx := 1200000000 - 1200000 })]
     (s.sess 2).state = 2 ∧ (s.sess 2).lastTx + 120000 ≤ s.now ∧ s.outPort 2 = some 0 ∧ 0 < s.jan.ports.length ∧
     (s.sess 2).lastRx + 1200000 ≤ s.now ∧ (s.bind 1).state = .open_ ∧ (s.bind 1).peer = 2 ∧
     s.sdg.reorder.length < Config.reorderEntries) := by decide +kernel

/-! ### JANUS: frames -/

/-- A session frame for this device with no message, and the frame of a binding with a change of its header. -/
def frm (h : FrameHdr) : RxFrame := { hdr := h }
def vcHdr : FrameHdr := { vc := 1, src := 2, level := 1, units := 4 }

/-- Port 0 up, session 2 in a state, and binding 1 to peer 2 with a grant of four slots. -/
def sLink (x : JPort) (st : Nat) (b : Binding) : State :=
  let s := sJan x (upPort 2 7) [(2, { state := st })]
  { s with jan := { s.jan with bindings := [(1, b)] } }
def bind2 : Binding := { state := .open_, peer := 2, data := { grant := 4 } }

/-- Frames that ask for a replay, go nowhere, and go on; frames of each count of Table 12.14, at its limits. -/
theorem test_FramesAreCheckedForwardedAndSent_frames :
    (let s := sLink (upPort 2 7) 2 bind2
     (s.port 0).state = .up ∧ (s.port 0).nakSeen = false ∧ (s.port 0).ctr.length = 9 ∧ ({ frm {} with damaged := true } : RxFrame).damaged = true ∧
     ({ frm {} with crcOk := false } : RxFrame).crcOk = false ∧ ({ frm {} with hseq := 1 } : RxFrame).hseq ≠ (s.port 0).rxHseq ∧
     (frm {}).damaged = false ∧ (frm {}).crcOk = true ∧ (frm {}).hseq = (s.port 0).rxHseq ∧
     (2 : Nat) ≠ s.self ∧ ({ dst := 2, hop := 3 } : FrameHdr).hop = 3 ∧ (3 : Nat) ≠ s.self ∧ (s.route 3).valid = false ∧
     ({ dst := 2, hop := 2 } : FrameHdr).hop ≠ 3 ∧ (s.route 2).valid = true ∧ nextPort (s.route 2).mask (s.jan.order % 16) s.portUp = some 0 ∧
     (frm vcHdr).hdr.dst = s.self ∧ (frm vcHdr).msgs = []) ∧
    ((sLink (upPort 2 7) 1 bind2).sess 2).state ≠ 2 ∧ ((sLink (upPort 2 7) 1 bind2).bind 1).peer ≠ 3 ∧
    ((sLink (upPort 2 7) 1 { bind2 with state := .down }).bind 1).state ≠ .open_ ∧
    (let x := (sLink (upPort 2 7) 2 bind2).bind 1
     x.peer = vcHdr.src ∧ x.state = .open_ ∧ ({ vcHdr with keyGen := 1 } : FrameHdr).keyGen ≠ x.keyGen ∧ vcHdr.keyGen = x.keyGen ∧
     16384 < seqAhead x.data.rxSeq 16385 ∧ seqAhead x.data.rxSeq 16384 ≤ 16384 ∧ vcHdr.level = (sLink (upPort 2 7) 2 bind2).recLevel ∧
     ({ vcHdr with level := 2 } : FrameHdr).level ≠ (sLink (upPort 2 7) 2 bind2).recLevel ∧
     x.data.grant < x.data.used + ({ vcHdr with units := 5 } : FrameHdr).units ∧ x.data.used + vcHdr.units ≤ x.data.grant ∧
     vcHdr.seq = x.data.rxSeq ∧ x.data.early = [] ∧ ({ vcHdr with seq := 16384 } : FrameHdr).seq ≠ x.data.rxSeq ∧
     JMsg.malformed .close = false ∧ x.cls (b2n (vcHdr.cls != 0)) = x.data) := by decide +kernel

/-- A frame sent and not yet acknowledged, which was replayed so often. -/
def sent0 (n : Nat) : TxFrame := { hdr := {}, msgs := [], binding := 0, part := 0, fwd := false, order := 0, hseq := 5, replays := n }

/-- LINK frames whose tag fails, whose format fails, that acknowledge a frame and none, that return credits, and that ask
for a replay at its sixteenth and its seventeenth time. -/
theorem test_FramesAreCheckedForwardedAndSent_links :
    (∀ n ∈ [15, 16], let s := sLink { upPort 2 7 with replay := [sent0 n], drawn := [3, 0, 0, 0] } 2 bind2
      (s.port 0).state = .up ∧ (s.port 0).rxHseq = (frm {}).hseq ∧ ({ frm {} with tagOk := false } : RxFrame).tagOk = false ∧
      (frm {}).tagOk = true ∧ (frm {}).hdr.level = s.recLevel ∧ ({ frm {} with formatOk := false } : RxFrame).formatOk = false ∧
      (s.port 0).replay.findIdx? (fun f => f.hseq == ({ ack := 5 } : LinkUnit).ack) = some 0 ∧
      (∀ f ∈ (s.port 0).replay, f.hseq ≠ ({ ack := 4 } : LinkUnit).ack) ∧ (s.port 0).credits.length = 4 ∧
      (s.port 0).drawn = 3 :: List.replicate 3 0 ∧ ({ credits := [5, 0, 0, 0] } : LinkUnit).credits = [5, 0, 0, 0] ∧
      (if n = 16 then (∃ g ∈ (s.port 0).replay, 16 ≤ g.replays) else (∀ g ∈ (s.port 0).replay, g.replays < 16))) := by decide +kernel

/-- A port that owes a LINK frame with a place in its replay buffer, one that replays, one with a handshake to send, and
one with a message of a binding. -/
theorem test_FramesAreCheckedForwardedAndSent_sends :
    (let x : JPort := { upPort 2 7 with linkDue := true, replaying := 1, replay := List.replicate 511 (sent0 0) }
     x.state = .up ∧ x.linkDue = true ∧ x.replay.length < 512) ∧
    (let x : JPort := { upPort 2 7 with linkDue := true, replaying := 1, replay := List.replicate 512 (sent0 0) }
     512 ≤ x.replay.length ∧ x.replaying ≠ 0) ∧
    (let f : TxFrame := { sent0 0 with hdr := { typ := 3, local_ := true } }
     let x : JPort := { state := .attesting, queue := [f] }
     x.state = .attesting ∧ x.replaying = 0 ∧ x.replay.length < 512 ∧ x.first = some f ∧ f.hdr.local_ = true ∧ f.fwd = false ∧
     f.inp = none ∧ f.hdr.typ = 3) ∧
    (let s := sLink (upPort 2 7) 2 { bind2 with data := { bind2.data with credit := 1, queued := [(1, .gatherHold 1)] } }
     (s.port 0).state = .up ∧ (s.port 0).linkDue = false ∧ (s.port 0).replaying = 0 ∧ (s.port 0).queue = [] ∧ s.localFrames 0 1 = [] ∧
     s.nextLocal 0 = some (1, 1, 1)) := by decide +kernel

/-! ### JANUS: bindings and ORBIT -/

/-- Partition 0 with a pool of 128 slots and domain 0 in a state, a device of a role with session 2 in a state, bindings,
and an open from it to partition 5 of peer 2 for domain 0 and domain 9 there, with MIN and MAX slots. -/
def sBind (role st mn mx : Nat) (d : Domain) (bs : List (Nat × Binding)) : State :=
  { sJan (upPort 2 7) {} [(2, { state := st })] with
    glb := { up.glb with cfg := { up.glb.cfg with role := role, groupSize := 4 } }
    parts := [(0, { part0 with credits := 1 })]
    dir := { domains := [(0, d)] }
    jan := { ports := upPort 2 7 :: List.replicate 15 {}, sessions := [(2, { state := st })], bindings := bs, routes := [(2, { valid := true, mask := 3 })],
             arg0 := 0x00020500, arg1 := 0x00090000, arg2 := mn + mx * 65536 } }
/-- The part binding of that open, open already, and the offer of peer 2 that mirrors it. -/
def partBind : Binding := { state := .open_, kind := 1, part := 0, peer := 2, remotePart := 5 }
def offer2 : Offer := { kind := 1, binding := 3, part := 5, remotePart := 0, domain := 0, remoteDomain := 0, keyDigest := 0, linkSeed := 0 }

/-- Each refusal of a part binding at its limit, and an open with the fewest and the most slots. -/
theorem test_BindingsOpenCloseAndReturn_part :
    (sBind 1 1 16 16 {} []).isReady = true ∧ bitsOf (sBind 1 1 16 16 {} []).jan.arg0 16 12 = 2 ∧ bitsOf (sBind 1 1 16 16 {} []).jan.arg0 0 8 = 0 ∧
    (∀ x ∈ [(15, 15), (16, 15), (16, 16), (124, 65535), (125, 125)], bitsOf (sBind 1 1 x.1 x.2 {} []).jan.arg2 0 16 = x.1 ∧
      bitsOf (sBind 1 1 x.1 x.2 {} []).jan.arg2 16 16 = x.2) ∧
    (sBind 0 1 16 16 {} []).glb.cfg.role = 0 ∧ (sBind 1 1 16 16 {} []).glb.cfg.role ≠ 0 ∧ ((sBind 1 1 16 16 {} []).route 3).valid = false ∧
    ((sBind 1 1 16 16 {} []).route 2).valid = true ∧ ((sBind 1 1 16 16 {} []).part 1).state ≠ .active ∧
    ((sBind 1 1 16 16 {} []).part 0).state = .active ∧ (sBind 1 1 125 125 {} []).freeSlots 0 < 125 + 4 ∧
    124 + 4 ≤ (sBind 1 1 124 65535 {} []).freeSlots 0 ∧ (sBind 1 1 16 16 {} []).freeBinding = some 1 ∧
    (sBind 1 1 16 16 {} [(1, partBind)]).freeBinding.isSome = true ∧
    (∃ e ∈ (sBind 1 1 16 16 {} [(1, partBind)]).jan.bindings, e.2.kind = 1 ∧ e.2.peer = 2 ∧ e.2.part = 0 ∧ e.2.state.holds = true) ∧
    (∀ st ∈ [1, 2], ((sBind 1 st 16 16 {} []).sess 2).state = st ∧ (sBind 1 st 16 16 {} []).outPort 2 = some 0) ∧
    ({ partBind with state := .waiting } : Binding).mirrors 2 offer2 = true := by decide +kernel

/-- Every binding number in use: no number is free, and the pool of partition 0 is whole. -/
def full (n : Nat) : List (Nat × Binding) := (List.range n).map (fun i => (i + 1, { state := .open_, part := 1 }))
theorem mget_map (f : Nat → Nat × Binding) (hf : ∀ i, (f i).1 = i + 1) (b : Nat) (hs : ∀ i, (f i).2.state = .open_) :
    ∀ l : List Nat, (∃ i ∈ l, b = i + 1) → (mget {} (l.map f) b).state = .open_ := by
  intro l
  induction l with
  | nil => rintro ⟨i, h, -⟩; cases h
  | cons a l ih =>
    rintro ⟨i, h, e⟩
    simp only [List.map_cons, mget, hf]
    split
    · exact hs a
    · rename_i hn
      rcases List.mem_cons.1 h with rfl | h
      · exact absurd e hn
      · exact ih ⟨i, h, e⟩
theorem test_no_free_binding (s : State) (h : s.jan.bindings = full 16383) : s.freeBinding = none := by
  rw [State.freeBinding, List.find?_eq_none]
  intro b hb
  rw [h] at hb
  simp only [full, List.length_map, List.length_range, List.mem_map, List.mem_range] at hb
  obtain ⟨i, hi, rfl⟩ := hb
  by_cases hc : i + 1 ≤ 16383
  · have : (s.bind (i + 1)).state = .open_ := by
      rw [State.bind, h]
      exact mget_map _ (fun _ => rfl) _ (fun _ => rfl) _ ⟨i, by simp; omega, rfl⟩
    simp [this]
  · simp [hc]
theorem test_full_pool (s : State) (h : s.jan.bindings = full 16383) (hp : (s.part 0).credits = 1) : s.freeSlots 0 = 128 := by
  have : (full 16383).filter (fun b => b.2.part == 0 && b.2.state.holds) = [] := by
    rw [List.filter_eq_nil_iff]
    intro e he
    simp only [full, List.mem_map] at he
    obtain ⟨i, -, rfl⟩ := he
    simp
  rw [State.freeSlots, h, hp, this]
  rfl

/-- A domain binding: no such domain, a partition that is not active, a closed domain, no part binding, and with one. -/
theorem test_BindingsOpenCloseAndReturn_domain :
    (let s := sBind 1 1 16 16 (dOpen []) [(1, partBind)]
     s.isReady = true ∧ bitsOf s.jan.arg0 16 12 = 2 ∧ bitsOf s.jan.arg1 0 12 = 0 ∧ s.partOfDomain 4 = none ∧ s.partOfDomain 0 = some 0 ∧
     ({ s with parts := [(0, { part0 with state := .disabled })] } : State).partOfDomain 0 = some 0 ∧ (s.part 0).state = .active ∧
     s.domainOk 0 0 = true ∧ 16 + 4 ≤ s.freeSlots 0 ∧ s.freeBinding = some 2 ∧ s.partBinding 0 2 = some 1 ∧
     (∀ e ∈ s.jan.bindings, e.2.kind = 2 → e.2.peer = 2 → e.2.domain = 0 → e.2.state.holds = false) ∧ (s.sess 2).state ≠ 2) ∧
    (sBind 1 1 16 16 {} []).domainOk 0 0 = false ∧ (sBind 1 1 16 16 (dOpen []) []).partBinding 0 2 = none := by decide +kernel

/-- Closes; offers that mirror nothing, a part binding and a domain binding; a binding in each state at its times. -/
theorem test_BindingsOpenCloseAndReturn_rest :
    (∀ st ∈ [BState.free, .open_], let s : State := { sBind 1 2 16 16 {} [(1, { state := st })] with jan := { (sBind 1 2 16 16 {} [(1, { state := st })]).jan with bindingArg := 1 } }
      s.isReady = true ∧ (s.bind s.jan.bindingArg).state = st ∧ (s.bind s.jan.bindingArg).state.holds = (st == .open_)) ∧
    ((sBind 1 2 16 16 {} []).sess 2).state = 2 ∧
    (let s := sBind 1 2 16 16 {} [(1, { partBind with state := .waiting })]
     s.jan.bindings.find? (fun b => b.2.state == .waiting && b.2.mirrors 2 offer2) = some (1, s.bind 1) ∧ (s.bind 1).kind = 1) ∧
    (∀ d ∈ [dOpen [], {}], let s := sBind 1 2 16 16 d [(1, { partBind with state := .waiting, kind := 2 })]
      let o : Offer := { offer2 with kind := 2, keyDigest := (sha384 (dOpen []).manifestKey).toNat }
      s.jan.bindings.find? (fun b => b.2.state == .waiting && b.2.mirrors 2 o) = some (1, s.bind 1) ∧ (s.bind 1).kind = 2 ∧
      ((s.dom (s.bind 1).domain).open_ = true ∨ (s.dom (s.bind 1).domain).open_ = false)) ∧
    (dOpen []).open_ = true ∧ (dOpen []).closing = false ∧
    (∀ st ∈ [BState.open_, .closing, .quarantine],
      let s := sBind 1 2 16 16 {} [(1, { partBind with state := st, since := 1200000000 - (if st = .closing then 120000 else 1200000) })]
      (s.bind 1).state = st ∧ (st = .closing → (s.bind 1).since + 120000 ≤ s.now) ∧ (st = .quarantine → (s.bind 1).since + 1200000 ≤ s.now) ∧
      (∀ e ∈ s.jan.bindings, e.1 ≠ 1 → e.2.peer = (s.bind 1).peer → e.2.state.holds = false) ∧ mapOk {} s.jan.bindings = true) ∧
    (let s := sBind 1 2 16 16 {} [(1, { partBind with
       minSlots := 16
       data := { credit := 17, idleSince := 1200000000 - 12000, early := [(1, [], 1)], gapSince := 1200000000 - 12000 } })]
     (s.bind 1).data.queued = [] ∧ (s.bind 1).minSlots < (s.bind 1).data.credit ∧ (s.bind 1).data.idleSince + 12000 ≤ s.now ∧
     (s.bind 1).data.early ≠ [] ∧ (s.bind 1).data.gapSince + 12000 ≤ s.now) := by decide +kernel

/-- A root, and a device whose parent at distance 3 sent a LINK frame with an offset of each kind. -/
def linkOf (tTx : Nat) : LinkUnit := { dist := 3, synced := true, tTx := tTx, tEcho := 100, tHold := 0 }
theorem test_BindingsOpenCloseAndReturn_orbit :
    (sBind 2 2 16 16 {} []).glb.cfg.role = 2 ∧
    (∀ x ∈ [((155, 5) : Nat × Int), (145, -5), (151, 1), (148, -2)],
      let s := sJan { upPort 2 7 with link := some (linkOf x.1, 200) } {} []
      s.glb.cfg.role ≠ 2 ∧ s.parentOf = some (0, 3) ∧ (s.port 0).link = some (linkOf x.1, 200) ∧
      ((linkOf x.1).tTx : Int) - (200 : Nat) + (((200 : Nat) : Int) - (linkOf x.1).tEcho - (linkOf x.1).tHold) / 2 = x.2) := by decide +kernel

/-! ### The whole device -/

/-- A command in front of the queue; an idle device whose clocks run, at each rate, and one whose MCLK is stopped. -/
theorem test_StepRunsTheFrontCommand_met :
    ({ up with pending := [.keepalive 2] } : State).pending = .keepalive 2 :: [] ∧ up.pending = [] ∧ orbitRate up ≠ 0 ∧
    up.jan.half = 0 ∧ up.jan.slew = 0 ∧ orbitRate State.reset = 0 ∧ State.reset.pending = [] ∧
    (∀ x ∈ up.parts, ∀ tl ∈ x.2.tiles, stalls up x.2 tl = false ∧ (up.tile tl).stalled = false) := by
  decide +kernel

/-- A state that meets what the invariants ask, and a step of it that answers a next state. -/
theorem test_EveryStepKeepsLifeCycleAndFuses_met : up.LifeOk ∧ up.QueueOk ∧ ∃ t : State, step up = .next t := by
  refine ⟨?_, ?_, ⟨_, rfl⟩⟩
  · unfold State.LifeOk
    decide +kernel
  · intro c h
    cases h
theorem test_EveryStepKeepsTheShape_met : up.Tidy := by
  refine ⟨by unfold State.Shaped; decide +kernel, by decide +kernel, by decide +kernel, by decide +kernel, by decide +kernel,
    by decide +kernel, fun q => ?_⟩
  have h : ∀ q, (up.quad q).tiles = [] := by
    intro q
    have : ∀ q, q < 8 → (up.quad q).tiles = [] := by decide +kernel
    by_cases hq : q < 8
    · exact this q hq
    · have hl : up.quads.length ≤ q := Nat.le_trans (by decide +kernel) (Nat.le_of_not_lt hq)
      rw [State.quad, List.getD_eq_default _ _ hl]
  rw [h q]
  rfl

end Sys2Proof.Machine
end

section
/-! PROOFS. Register reads (R17, R320): what PAR_ADIR_ENTRY reads in a ready device that is awake, and why O41 fails
as stated. -/

namespace Sys2Proof.Machine

/-! ### Stretches of registers -/

/-- An offset that no stretch holds reads zero (R622). -/
theorem look_nil (o : Nat) : look [] o = 0 := rfl

/-- An offset reads in the first stretch that holds it. -/
theorem look_cons (b : Bank) (bs : List Bank) (o : Nat) :
    look (b :: bs) o = if b.base ≤ o ∧ o < b.base + 4 * b.count then b.word ((o - b.base) / 4) else look bs o := by
  by_cases h : b.base ≤ o ∧ o < b.base + 4 * b.count
  · rw [if_pos h]
    simp [look, h]
  · rw [if_neg h]
    unfold look
    rw [List.find?_cons_of_neg (by simpa using h)]

/-- The stretch of PAR_SEL and the partition's snapshot stands before that of the entry's snapshot, so that a
partition snapshot of more than 0x1FFFB words reaches over PAR_ADIR_ENTRY. -/
theorem State.parReg_adirEntry (s : State) :
    s.parReg 0x80010 =
      if 0x1FFFB < s.par.snap.length then s.par.snap.getD 0x1FFFB 0 else s.dir.snap.getD 0 0 := by
  have hreach : 0x80010 < 0x20 + 4 * (s.par.snap.length + 1) ↔ 0x1FFFB < s.par.snap.length := by omega
  simp only [State.parReg, look_cons, look_nil, run, ctrs, one, List.length_cons, List.length_nil, List.length_map,
    List.length_append, hreach]
  by_cases hp : 0x1FFFB < s.par.snap.length
  · simp [hp]
  · cases s.dir.snap <;> simp [hp]

/-! ### A read of PAR_ADIR_ENTRY -/

/-- A device in D0 has no L2 to leave (R584). -/
theorem State.l2Wake_of_d0 {s : State} (h : s.clk.pm = .d0) : s.l2Wake = s := by
  unfold State.l2Wake
  rw [h]

/-- In a ready device a register of the PAR block reads as the block has it. -/
theorem State.reg_par {s : State} (hready : s.isReady = true) {off o : Nat} (hplace : place off = .par o) :
    s.reg .pf .bar0 off = s.parReg o := by
  simp [State.reg, isBar0, hplace, hready, State.placeReg]

/-- PAR_ADIR_ENTRY is no half of a 64-bit pair: a 32-bit read answers the register. -/
theorem State.read32_adirEntry (s : State) :
    s.read32 .pf .bar0 0x780010 = s.answerData (s.reg .pf .bar0 0x780010) := by
  have hupper : isLatching .pf .bar0 (0x780010 - 4) = false := by decide
  have hlower : isLatching .pf .bar0 0x780010 = false := by decide
  simp [State.read32, hupper, hlower]

/-- A read of PAR_ADIR_ENTRY takes the snapshot of the selected entry and answers what the register then reads. -/
theorem adirEntryRead_next {s : State} (hup : s.hostUp = true) (hready : s.isReady = true) (hd0 : s.clk.pm = .d0) :
    exec .adirEntryRead s = .next { s with
      dir := { s.dir with snap := (s.entry s.dir.sel).words }
      reply := .data (if 0x1FFFB < s.par.snap.length then s.par.snap.getD 0x1FFFB 0
        else (s.entry s.dir.sel).words.getD 0 0) } := by
  have hexec : exec .adirEntryRead s = .next (s.access .pf .bar0 0x780010 4) := rfl
  have hopen : s.parOpen .pf .bar0 = true := by simp [State.parOpen, isBar0, hready]
  have haccess : s.access .pf .bar0 0x780010 4 = (s.snapshot 0x780010).read32 .pf .bar0 0x780010 := by
    simp [State.access, hup, State.fnLive, hasSpace, State.l2Wake_of_d0 hd0, hopen]
  have hread := State.reg_par (s := s.snapshot 0x780010) (off := 0x780010) (o := 0x80010) hready (by decide)
  rw [hexec, haccess, State.read32_adirEntry, hread, State.parReg_adirEntry]
  rfl

/-- The clause that O41 states for PAR_ADIR_ENTRY holds where the partition's snapshot has its two words, as reset and
every snapshot leave it. -/
theorem adirEntryRead_answers_entry {s : State} (hup : s.hostUp = true) (hready : s.isReady = true)
    (hd0 : s.clk.pm = .d0) (hsnap : s.par.snap.length = 2) :
    exec .adirEntryRead s = .next { s with
      dir := { s.dir with snap := (s.entry s.dir.sel).words }
      reply := .data ((s.entry s.dir.sel).words.getD 0 0) } := by
  rw [adirEntryRead_next hup hready hd0, if_neg (by omega)]

/-! ### O41 -/

/-- A ready device in D0 whose partition snapshot has 0x1FFFC words. Reset and every snapshot of PAR_INFO give it two,
so that this is a value of the state's type and no state of a run. -/
def longSnap : State :=
  { State.reset with
    start := { result := 1 }
    pwr := { perst := false }
    par := { snap := List.replicate 0x1FFFC 1 } }

/-- Its PAR_ADIR_ENTRY answers the last word of the partition snapshot. -/
theorem adirEntryRead_longSnap :
    exec .adirEntryRead longSnap = .next { longSnap with
      dir := { longSnap.dir with snap := (longSnap.entry longSnap.dir.sel).words }
      reply := .data 1 } := by
  have hlength : longSnap.par.snap.length = 0x1FFFC := List.length_replicate
  have hlast : longSnap.par.snap.getD 0x1FFFB 0 = 1 := List.getD_replicate 1 (by decide)
  rw [adirEntryRead_next rfl rfl rfl, hlength, hlast, if_pos (by decide)]

/-- Refutes O41: its clause of PAR_ADIR_ENTRY asks nothing of the length of the partition's snapshot, and in `longSnap`
the register answers 1 where the free entry that it selects shows its epoch, 0x01000000.
`adirEntryRead_answers_entry` is that clause with the length as a hypothesis. -/
theorem not_registersLatchClearAndSelect : ¬ Obligations.RegistersLatchClearAndSelect := by
  unfold Obligations.RegistersLatchClearAndSelect
  intro ⟨_, _, _, hsnapshots, _⟩
  have hstated := (hsnapshots longSnap rfl rfl rfl).1
  have hreply : Answer.data 1 = .data ((longSnap.entry longSnap.dir.sel).words.getD 0 0) := by
    rw [adirEntryRead_longSnap] at hstated
    exact congrArg State.reply (Host.Outcome.next.inj hstated)
  exact absurd hreply (by decide)

end Sys2Proof.Machine
end

section
/-! PROOFS. Writes of a tile's lines (R197, R198): what a byte mask selects of a line's data, what a write leaves of a
line, and that a write of a bank changes that line and its tile's counter alone; O31. -/

namespace Sys2Proof.Machine

/-! ### Byte masks -/

/-- The bits of a field are those of its value. -/
theorem testBit_bitsOf (v o w j : Nat) : (bitsOf v o w).testBit j = (decide (j < w) && v.testBit (o + j)) := by
  rw [bitsOf, Nat.testBit_mod_two_pow, Nat.testBit_div_two_pow, Nat.add_comm]

/-- The data mask of the first `n` bytes of a byte mask, as `dataMask` sums it. -/
def maskOnes (mask n : Nat) : Nat :=
  (List.range n).foldl (fun a i => if mask.testBit i then a + 255 * 2 ^ (8 * i) else a) 0

/-- A line's data mask is that of its 64 bytes. -/
theorem dataMask_eq (mask : Nat) : dataMask mask = BitVec.ofNat 512 (maskOnes mask 64) := rfl

/-- The next byte of a data mask is all ones where the byte mask selects it. -/
theorem maskOnes_succ (mask n : Nat) :
    maskOnes mask (n + 1) = 2 ^ (8 * n) * (if mask.testBit n then 255 else 0) + maskOnes mask n := by
  simp only [maskOnes, List.range_succ, List.foldl_append, List.foldl_cons, List.foldl_nil]
  split <;> omega

/-- The data mask of `n` bytes has no bit beyond them. -/
theorem maskOnes_lt (mask n : Nat) : maskOnes mask n < 2 ^ (8 * n) := by
  induction n with
  | zero => simp [maskOnes]
  | succ n ih =>
    rw [maskOnes_succ, show 8 * (n + 1) = 8 * n + 8 by omega, Nat.pow_add]
    split <;> omega

/-- A bit of a data mask is its byte's bit of the byte mask. -/
theorem testBit_maskOnes (mask n k : Nat) :
    (maskOnes mask n).testBit k = (decide (k < 8 * n) && mask.testBit (k / 8)) := by
  induction n with
  | zero => simp [maskOnes]
  | succ n ih =>
    rw [maskOnes_succ, Nat.testBit_two_pow_mul_add _ (maskOnes_lt mask n)]
    by_cases hlow : k < 8 * n
    · have hin : k < 8 * (n + 1) := by omega
      simp [hlow, hin, ih]
    · have hone : (255 : Nat).testBit (k - 8 * n) = decide (k - 8 * n < 8) := Nat.testBit_two_pow_sub_one 8 _
      rw [if_neg hlow]
      by_cases hin : k < 8 * (n + 1)
      · have hbyte : k / 8 = n := by omega
        have hbit : k - 8 * n < 8 := by omega
        rw [hbyte]
        cases mask.testBit n <;> simp [hone, hin, hbit]
      · have hbit : ¬ k - 8 * n < 8 := by omega
        cases mask.testBit n <;> simp [hone, hin, hbit]

/-- A bit of a line's data mask is its byte's bit of the byte mask. -/
theorem getLsbD_dataMask (mask k : Nat) :
    (dataMask mask).getLsbD k = (decide (k < 512) && mask.testBit (k / 8)) := by
  rw [dataMask_eq, BitVec.getLsbD_ofNat, testBit_maskOnes, ← Bool.and_assoc]
  simp

/-- Under a byte mask each byte of a line is the new data's where the mask selects it, and the old data's elsewhere. -/
theorem bitsOf_masked (mask : Nat) (old data : BitVec 512) {i : Nat} (hi : i < 64) :
    bitsOf ((old &&& ~~~dataMask mask) ||| (data &&& dataMask mask)).toNat (8 * i) 8 =
      if mask.testBit i then bitsOf data.toNat (8 * i) 8 else bitsOf old.toNat (8 * i) 8 := by
  apply Nat.eq_of_testBit_eq
  intro j
  by_cases hj : j < 8
  · have hbyte : (8 * i + j) / 8 = i := by omega
    have hin : 8 * i + j < 512 := by omega
    rw [testBit_bitsOf, BitVec.testBit_toNat]
    simp only [BitVec.getLsbD_or, BitVec.getLsbD_and, BitVec.getLsbD_not, getLsbD_dataMask, hbyte, hin]
    cases mask.testBit i <;>
      simp only [testBit_bitsOf, BitVec.testBit_toNat, hj, decide_true, Bool.and_true, Bool.and_false, Bool.true_and,
        Bool.not_true, Bool.not_false, Bool.false_or, Bool.or_false, Bool.false_eq_true, if_true, if_false]
  · have hbeyond (v : Nat) : (bitsOf v (8 * i) 8).testBit j = false := by
      rw [testBit_bitsOf, decide_eq_false hj, Bool.false_and]
    split <;> rw [hbeyond, hbeyond]

/-- A byte mask that leaves a byte out does not select the whole line. -/
theorem mod_ne_fullMask_of_testBit {mask i : Nat} (hi : i < 64) (hmask : mask.testBit i = false) :
    mask % 2 ^ 64 ≠ fullMask := by
  intro hfull
  have hbit : (mask % 2 ^ 64).testBit i = true := by
    rw [hfull, fullMask, Nat.testBit_two_pow_sub_one]
    exact decide_eq_true hi
  rw [Nat.testBit_mod_two_pow, hmask, Bool.and_false] at hbit
  cases hbit

/-! ### A write of a line (R197, R198) -/

section
variable {old : Line} {mask : Nat} {data : BitVec 512} {kind : LineKind} {tag poison : Nat}

@[simp] theorem Line.write_kind : (old.write mask data kind tag poison).line.kind = kind := rfl
@[simp] theorem Line.write_tag : (old.write mask data kind tag poison).line.tag = tag := rfl

/-- A poisoned line stays poisoned until a write of all 64 bytes (R198). -/
theorem Line.write_poison (hmask : mask < 2 ^ 64) :
    (old.write mask data kind tag poison).line.poison =
      if mask = fullMask then poison else if old.poison ≠ 0 then old.poison else poison := by
  simp only [Line.write, Nat.mod_eq_of_lt hmask, beq_iff_eq]

/-- A write clears where it changes KIND or TAG and covers fewer than 64 bytes. -/
theorem Line.write_cleared (hmask : mask < 2 ^ 64) :
    (old.write mask data kind tag poison).cleared =
      decide (mask ≠ fullMask ∧ (old.kind ≠ kind ∨ old.tag ≠ tag)) := by
  rw [Bool.eq_iff_iff]
  simp only [Line.write, Nat.mod_eq_of_lt hmask, Bool.and_eq_true, Bool.or_eq_true, Bool.not_eq_true', beq_eq_false_iff_ne,
    bne_iff_ne, decide_eq_true_eq]

/-- A write that changes KIND or TAG leaves no word marked: the check bits of cleared words are the code of zero. -/
theorem Line.write_marks_of_change (hchange : old.kind ≠ kind ∨ old.tag ≠ tag) :
    (old.write mask data kind tag poison).line.marks = 0 := by
  have hbase : (old.kind != kind || old.tag != tag) = true := by simpa using hchange
  simp only [Line.write, hbase, Bool.or_true, if_true]

/-- A write takes the bytes under its mask from the writer; of the others it keeps each where KIND and TAG stay, and
clears each where they change (R197). -/
theorem Line.write_get {i : Nat} (hi : i < 64) :
    (old.write mask data kind tag poison).line.get (8 * i) 8 =
      if mask.testBit i then bitsOf data.toNat (8 * i) 8
      else if old.kind = kind ∧ old.tag = tag then old.get (8 * i) 8 else 0 := by
  simp only [Line.get, Line.write, bitsOf_masked _ _ _ hi]
  cases hsel : mask.testBit i with
  | true => rfl
  | false =>
    have hpart : (mask % 2 ^ 64 == fullMask) = false := beq_false_of_ne (mod_ne_fullMask_of_testBit hi hsel)
    simp only [Bool.false_eq_true, if_false]
    by_cases hkeep : old.kind = kind ∧ old.tag = tag
    · obtain ⟨hkind, htag⟩ := hkeep
      simp only [hpart, hkind, htag, bne_self_eq_false, Bool.or_self, Bool.false_eq_true, if_false, and_self, if_true]
    · have hchange : (old.kind != kind || old.tag != tag) = true := by
        rw [Bool.or_eq_true, bne_iff_ne, bne_iff_ne]
        exact not_and_or.mp hkeep
      rw [hchange, Bool.or_true, if_pos rfl, if_neg hkeep, BitVec.ofNat_eq_ofNat, BitVec.toNat_zero, bitsOf, Nat.zero_div,
        Nat.zero_mod]

end

/-! ### A write of a bank -/

/-- Rescheduling changes no tile. -/
@[simp] theorem State.tile_resched (s : State) (p : Nat) (u : TileId) : (s.resched p).tile u = s.tile u := by
  rw [State.resched_frame]
  rfl

/-- A change of a tile leaves the partitions that own the tiles. -/
@[simp] theorem State.ownerOf_modTile (s : State) (tl u : TileId) (f : Tile → Tile) :
    (s.modTile tl f).ownerOf u = s.ownerOf u := rfl

/-- A plain write of a bank changes its tile, and then its partition is rescheduled. -/
theorem State.bankDo_of_write (s : State) (tl : TileId) {w : LostWrite} (hplain : w.atomic = none) :
    s.bankDo tl w =
      (s.ownerOf tl).elim id (fun q s => s.resched q)
        (s.modTile tl (fun t => t.bankWrite w.line w.mask w.data w.kind w.tag w.poison none)) := by
  simp only [State.bankDo, hplain, Option.isSome_none, Bool.false_eq_true, reduceCtorEq, if_false, State.ownerOf_modTile]
  cases s.ownerOf tl <;> rfl

/-- A plain write of a bank changes tiles, partitions and the swap counters alone. -/
theorem State.bankDo_frame_of_write (s : State) (tl : TileId) {w : LostWrite} (hplain : w.atomic = none) :
    s.bankDo tl w = { s with
      quads := (s.bankDo tl w).quads
      parts := (s.bankDo tl w).parts
      par := (s.bankDo tl w).par } := by
  rw [State.bankDo_of_write s tl hplain]
  cases s.ownerOf tl with
  | none => rfl
  | some q =>
    rw [Option.elim_some, State.resched_frame]
    rfl

/-- A plain write of a bank writes its tile's line, and every other tile reads as before. -/
theorem State.tile_bankDo_of_write (s : State) (tl u : TileId) {w : LostWrite} (htile : tl.q < s.quads.length)
    (hplain : w.atomic = none) :
    (s.bankDo tl w).tile u =
      if u = tl then (s.tile tl).bankWrite w.line w.mask w.data w.kind w.tag w.poison none else s.tile u := by
  rw [State.bankDo_of_write s tl hplain]
  cases s.ownerOf tl <;> simp [State.tile_modTile _ _ _ _ htile]

/-- A line of a tile after a plain write of one of its lines. -/
theorem Tile.mget_bankWrite (t : Tile) (line mask : Nat) (data : BitVec 512) (kind : LineKind) (tag poison n : Nat) :
    mget clearLine (t.bankWrite line mask data kind tag poison none).scratch.lines n =
      if n = line then ((mget clearLine t.scratch.lines line).write mask data kind tag poison).line
      else mget clearLine t.scratch.lines n := by
  simp [Tile.bankWrite]

/-- The counter of clearing writes after a plain write. -/
theorem Tile.partialClear_bankWrite (t : Tile) (line mask : Nat) (data : BitVec 512) (kind : LineKind)
    (tag poison : Nat) :
    (t.bankWrite line mask data kind tag poison none).scratch.partialClear =
      bump t.scratch.freeze t.scratch.partialClear
        (b2n ((mget clearLine t.scratch.lines line).write mask data kind tag poison).cleared) := rfl

/-- The write that a request brings to a bank. -/
def requestWrite (port : Nat) (r : LineReq) : LostWrite :=
  ⟨portOf port, r.line, r.mask, r.data, LineKind.ofCode r.kind, r.tag, r.poison, r.atomic⟩

/-- A request that reaches its bank, loses to no port and waits behind no write of its own port takes effect at
once (R200, R201, R210). -/
theorem bankAtomic_next {s : State} {tl : TileId} {port : Nat} {r : LineReq} (hline : r.line < 24576)
    (hreach : s.bankReached tl r.line = true) (hvxu : bitOf port 2 = false)
    (hdma : (s.tile tl).scratch.behindDma (portOf port) r.line r.mask = false)
    (hlost : (s.tile tl).scratch.lost.any (fun w => w.port == portOf port) = false) :
    exec (.bankAtomic tl port r []) s = .next (s.bankDo tl (requestWrite port r)) := by
  have hexec : exec (.bankAtomic tl port r []) s = execBankAtomic tl port r [] s := rfl
  have hin : ¬ 24576 ≤ r.line := by omega
  rw [hexec, execBankAtomic]
  simp [hin, hreach, hvxu, hdma, hlost, State.tileUpsets, requestWrite]

/-! ### O31 -/

/-- Settles O31: the request takes effect at once, as a write of its line alone, and `Line.write` is R197. -/
theorem partialWritesClearForeignBytes : Obligations.PartialWritesClearForeignBytes := by
  unfold Obligations.PartialWritesClearForeignBytes
  intro s tl port r hshape hq hline hreach hvxu hdma hlost hplain hmask
  have htile : tl.q < s.quads.length := by
    obtain ⟨hquads, -⟩ := hshape
    omega
  have hwrite : (requestWrite port r).atomic = none := hplain
  have htiles := fun u => State.tile_bankDo_of_write s tl u htile hwrite
  have hself := (htiles tl).trans (if_pos rfl)
  have hlines := Tile.mget_bankWrite (s.tile tl) r.line r.mask r.data (LineKind.ofCode r.kind) r.tag r.poison
  refine ⟨s.bankDo tl (requestWrite port r), _, _, bankAtomic_next hline hreach hvxu hdma hlost, rfl, rfl, ?_⟩
  rw [hself]
  simp only [requestWrite, Tile.partialClear_bankWrite, hlines, if_true]
  refine ⟨fun i hi hsel => ?selected, fun i hi hsel hkind htag => ?kept, fun i hi hsel hchange => ?cleared,
    fun _ hchange => Line.write_marks_of_change hchange, Line.write_kind, Line.write_tag, ?counted,
    Line.write_poison hmask, fun n hn => if_neg hn,
    fun u hu => (htiles u).trans (if_neg hu), State.bankDo_frame_of_write s tl hwrite⟩
  case selected => rw [Line.write_get hi, if_pos hsel]
  case kept => rw [Line.write_get hi, hsel, if_neg Bool.false_ne_true, if_pos ⟨hkind, htag⟩]
  case cleared => rw [Line.write_get hi, hsel, if_neg Bool.false_ne_true, if_neg (not_and_or.mpr hchange)]
  case counted => rw [Line.write_cleared hmask]

end Sys2Proof.Machine
end
